-- ==== Sys2Proof/Word.lean ====
section
/-!
DEFINITION. The words of the machine: registers are 32 bits wide (R5), memories are bytes.
-/

namespace Sys2Proof

/-- A register of either part (R5). -/
abbrev Word := BitVec 32
/-- A byte of memory. -/
abbrev Byte := BitVec 8

end Sys2Proof
end

