-- ==== Sys2Proof/Config.lean ====
section
/-!
DEFINITION. What the spec leaves open: free values, each a constant with no body, so that no proof can see what it is.
-/

namespace Sys2Proof

/-- The contents of a control core's registers after it has run code that the model does not see (log entry 6):
the `n`-th value read. -/
opaque Config.coreWord : Nat → Word

/-- Whether a rounding to nearest that meets an exact half rounds up (log entry 8): at the place `site`, of the
fraction `num / den`. -/
opaque Config.tieUp (site : Nat) (num : Int) (den : Nat) : Bool

/-- Whether a rounding whose direction the spec does not state rounds up (log entry 8). -/
opaque Config.roundUp (site : Nat) (num : Int) (den : Nat) : Bool

/-- A value that the spec does not state (log entry 9): at the place `site`, for the operands that `key` stands for
(log entry 21). -/
opaque Config.openNat (site : Nat) (key : Nat) : Nat

end Sys2Proof
end

