-- ==== Sys2Proof/Machine/Ops.lean ====
section
/-!
DEFINITION. Sparse maps in one canonical form, the fields of a word, and memory as bytes: the operations that every
part of the machine is written over.
-/

namespace Sys2Proof.Machine

/-! ### Sparse maps

A map from numbers is a list of (key, value) pairs, keys strictly rising, with no pair equal to what an unlisted key
reads as, so that equal maps are equal lists. `d` says what an unlisted key reads as. -/

/-- The value at key `k`. -/
def sget {α : Type} (d : Nat → α) : List (Nat × α) → Nat → α
  | [], k => d k
  | (k', a) :: m, k => if k' = k then a else sget d m k

/-- The map with the pair (`k`, `a`) at its place. -/
def sput {α : Type} (k : Nat) (a : α) : List (Nat × α) → List (Nat × α)
  | [] => [(k, a)]
  | (k', a') :: m =>
    if k < k' then (k, a) :: (k', a') :: m
    else if k = k' then (k, a) :: m
    else (k', a') :: sput k a m

/-- The map without key `k`. -/
def sdel {α : Type} (k : Nat) : List (Nat × α) → List (Nat × α)
  | [] => []
  | (k', a') :: m => if k' = k then sdel k m else (k', a') :: sdel k m

/-- The map with value `a` at key `k`, in the canonical form. -/
def sset {α : Type} [DecidableEq α] (d : Nat → α) (m : List (Nat × α)) (k : Nat) (a : α) : List (Nat × α) :=
  if a = d k then sdel k m else sput k a m

/-- Keys strictly above `lo` rise strictly, and no value is the one an unlisted key reads as. -/
def swfFrom {α : Type} [DecidableEq α] (d : Nat → α) : Option Nat → List (Nat × α) → Bool
  | _, [] => true
  | lo, (k, a) :: m =>
    (match lo with
      | none => true
      | some l => decide (l < k)) && decide (a ≠ d k) && swfFrom d (some k) m

/-- The canonical form of a sparse map. -/
def swf {α : Type} [DecidableEq α] (d : Nat → α) (m : List (Nat × α)) : Bool := swfFrom d none m

/-! ### Fields of a word -/

/-- The field of `len` bits of `w` at bit `lo`. -/
def fld (w : Word) (lo len : Nat) : Nat := w.toNat / 2 ^ lo % 2 ^ len

/-- `w` with the field of `len` bits at bit `lo` holding `x` (its low bits). -/
def setFld (w : Word) (lo len x : Nat) : Word :=
  BitVec.ofNat 32 (w.toNat - fld w lo len * 2 ^ lo + x % 2 ^ len * 2 ^ lo)

/-- Bit `i` of `w`. -/
def bit (w : Word) (i : Nat) : Bool := w.toNat.testBit i

/-- A truth value as a number. -/
def b2n (b : Bool) : Nat := if b then 1 else 0

/-- The low `n` bits of `x` read as a two's-complement number. -/
def sgn (n x : Nat) : Int :=
  let y := x % 2 ^ n
  if y < 2 ^ (n - 1) then (y : Int) else (y : Int) - (2 ^ n : Nat)

/-- `x` in two's complement, `n` bits. -/
def twos (n : Nat) (x : Int) : Nat := (x % ((2 ^ n : Nat) : Int)).toNat

/-- `x` held within `lo` to `hi`. -/
def clampI (lo hi x : Int) : Int := if x < lo then lo else if hi < x then hi else x

/-- The word of a number. -/
def w32 (n : Nat) : Word := BitVec.ofNat 32 n

/-- The number of 1 bits among the low `n` bits of `x`. -/
def popc (n x : Nat) : Nat := ((List.range n).filter (fun i => x.testBit i)).length

/-- `x` with bit `i` set to `b`. -/
def putBit (x i : Nat) (b : Bool) : Nat :=
  if x.testBit i then (if b then x else x - 2 ^ i) else (if b then x + 2 ^ i else x)

/-- `f` applied `n` times. -/
def iter {α : Type} (f : α → α) : Nat → α → α
  | 0, a => a
  | n + 1, a => iter f n (f a)

/-- `num / den` rounded to nearest; the spec does not say which way a half goes, so that is free (log entry 8). -/
def divNear (site : Nat) (num : Int) (den : Nat) : Int :=
  let q := num / (den : Int)
  let r := (num % (den : Int)).toNat
  if den < 2 * r then q + 1
  else if den = 2 * r then (if Config.tieUp site num den then q + 1 else q)
  else q

/-- `num / den` as a whole number where the spec states no rounding: the number below or the number above, free unless
exact (log entry 8). -/
def divAny (site : Nat) (num : Int) (den : Nat) : Int :=
  let q := num / (den : Int)
  if num % (den : Int) = 0 then q else if Config.roundUp site num den then q + 1 else q

/-- The largest number whose square is at most `n`, bit by bit from `2 ^ k`. -/
def isqrtFrom (n : Nat) : Nat → Nat → Nat
  | 0, r => r
  | k + 1, r => let c := r + 2 ^ k; isqrtFrom n k (if c * c ≤ n then c else r)

/-- The whole square root of a number below 2^256. -/
def isqrt (n : Nat) : Nat := isqrtFrom n 128 0

/-! ### Memory -/

/-- What a byte that nothing has written reads as: memories are cleared to zero at reset (R472) (log entry 2). -/
def memDefault (_ : Nat) : Byte := 0

/-- The byte at `a`. -/
def mget (m : List Host.Cell) (a : Nat) : Byte := sget memDefault m a

/-- The memory with byte `b` at `a`. -/
def mset (m : List Host.Cell) (a : Nat) (b : Byte) : List Host.Cell := sset memDefault m a b

/-- The little-endian word at `a` (R5). -/
def mgetW (m : List Host.Cell) (a : Nat) : Word :=
  w32 ((mget m a).toNat + (mget m (a + 1)).toNat * 0x100 + (mget m (a + 2)).toNat * 0x10000
    + (mget m (a + 3)).toNat * 0x1000000)

/-- The memory with the little-endian word `w` at `a`. -/
def msetW (m : List Host.Cell) (a : Nat) (w : Word) : List Host.Cell :=
  mset (mset (mset (mset m a (BitVec.ofNat 8 w.toNat)) (a + 1) (BitVec.ofNat 8 (w.toNat / 0x100)))
    (a + 2) (BitVec.ofNat 8 (w.toNat / 0x10000))) (a + 3) (BitVec.ofNat 8 (w.toNat / 0x1000000))

/-- The memory with the words `ws` from `a` on. -/
def msetWs (m : List Host.Cell) (a : Nat) : List Word → List Host.Cell
  | [] => m
  | w :: ws => msetWs (msetW m a w) (a + 4) ws

/-- `n` words from `a` on. -/
def mgetWs (m : List Host.Cell) (a n : Nat) : List Word := (List.range n).map (fun i => mgetW m (a + 4 * i))

/-- Do all bytes of the memory stand in the canonical form? -/
def Memory.wf (m : List Host.Cell) : Bool := swf memDefault m

/-! ### Checksums -/

/-- One bit of a left-shifting CRC of width `n` with polynomial `p`. -/
def crcBit (n p crc : Nat) (b : Bool) : Nat :=
  let top := crc.testBit (n - 1) != b
  let c := crc * 2 % 2 ^ n
  if top then c ^^^ p else c

/-- The CRC over the low `len` bits of `x`, most significant bit first. -/
def crcBits (n p : Nat) : Nat → Nat → Nat → Nat
  | 0, _, crc => crc
  | len + 1, x, crc => crcBits n p len x (crcBit n p crc (x.testBit len))

/-- The unreflected CRC of width `n`, polynomial `p`, over bytes in order, most significant bit first. -/
def crcBytes (n p init : Nat) (bs : List Nat) : Nat := bs.foldl (fun c b => crcBits n p 8 b c) init

/-- One byte, least significant bit first, of the reflected CRC-32 of IEEE 802.3 (R127). -/
def crc32Byte (crc : Nat) (b : Nat) : Nat :=
  iter (fun c => if c % 2 = 1 then (c / 2) ^^^ 0xEDB88320 else c / 2) 8 (crc ^^^ b)

/-- The CRC-32 of IEEE 802.3 over bytes in order (R127). -/
def crc32 (bs : List Nat) : Nat := (bs.foldl crc32Byte 0xFFFFFFFF) ^^^ 0xFFFFFFFF

/-- A number as little-endian bytes. -/
def leBytes : Nat → Nat → List Nat
  | 0, _ => []
  | n + 1, x => x % 256 :: leBytes n (x / 256)

/-- The CRC-32 over little-endian words. -/
def crc32Words (ws : List Nat) : Nat := crc32 (ws.flatMap (leBytes 4))

end Sys2Proof.Machine
end

