-- ==== Sys2Proof/Machine/Regs.lean ====
section
/-!
DEFINITION. The register maps: the address of every register of both parts, its access code, its reset value and the
bits that a write can set, row by row from the register tables of the spec (R76, R116, R117, R155, R157, R187, R189,
R228, R230, R257, R286, R312, R340, R358, R393, R433, R434, R453, R475, R476; R9 and R37 for the bases).
-/

namespace Sys2Proof.Machine

/-- The access codes of R7. -/
inductive Acc where
  | rw | ro | wo | w1c | ros | rws
  deriving DecidableEq, Repr

/-- One row of a register table: a register, or `cnt` registers `stride` apart. -/
structure RegRow where
  off : Nat
  stride : Nat
  cnt : Nat
  acc : Acc
  reset : Nat
  mask : Nat
  deriving DecidableEq, Repr

namespace Reg

/-- ARM_CFG, R76, 12 of them. -/
def ARM_CFG (i : Nat) : Nat := 0x10050000 + i * 0x100
/-- ARM_RINGMAP, R76, 12 of them. -/
def ARM_RINGMAP (i : Nat) : Nat := 0x10050004 + i * 0x100
/-- ARM_DIR_HYST, R76, 12 of them. -/
def ARM_DIR_HYST (i : Nat) : Nat := 0x10050008 + i * 0x100
/-- ARM_STATE, R76, 12 of them. -/
def ARM_STATE (i : Nat) : Nat := 0x1005000C + i * 0x100
/-- ARM_LEVEL, R76, 12 of them. -/
def ARM_LEVEL (i : Nat) : Nat := 0x10050010 + i * 0x100
/-- ARM_DEC0, R76, 12 of them. -/
def ARM_DEC0 (i : Nat) : Nat := 0x10050014 + i * 0x100
/-- ARM_DEC1, R76, 12 of them. -/
def ARM_DEC1 (i : Nat) : Nat := 0x10050018 + i * 0x100
/-- ARM_DEC2, R76, 12 of them. -/
def ARM_DEC2 (i : Nat) : Nat := 0x1005001C + i * 0x100
/-- ARM_COUNT0, R76, 12 of them. -/
def ARM_COUNT0 (i : Nat) : Nat := 0x10050020 + i * 0x100
/-- ARM_COUNT1, R76, 12 of them. -/
def ARM_COUNT1 (i : Nat) : Nat := 0x10050024 + i * 0x100
/-- ARM_COUNT2, R76, 12 of them. -/
def ARM_COUNT2 (i : Nat) : Nat := 0x10050028 + i * 0x100
/-- ARM_DEV, R76, 12 of them. -/
def ARM_DEV (i : Nat) : Nat := 0x1005002C + i * 0x100
/-- ARM_STICKY, R76, 12 of them. -/
def ARM_STICKY (i : Nat) : Nat := 0x10050030 + i * 0x100
/-- ARM_STICKY_CLR, R76, 12 of them. -/
def ARM_STICKY_CLR (i : Nat) : Nat := 0x10050034 + i * 0x100
/-- ARM_HOLD_CNT, R76, 12 of them. -/
def ARM_HOLD_CNT (i : Nat) : Nat := 0x10050038 + i * 0x100
/-- ARM_MISS_CNT, R76, 12 of them. -/
def ARM_MISS_CNT (i : Nat) : Nat := 0x1005003C + i * 0x100
/-- ARM_DEV_MAX, R76, 12 of them. -/
def ARM_DEV_MAX (i : Nat) : Nat := 0x10050040 + i * 0x100
/-- ARM_TRIM_OVR, R76, 12 of them. -/
def ARM_TRIM_OVR (i : Nat) : Nat := 0x10050044 + i * 0x100
/-- ARM_FORCE, R76, 12 of them. -/
def ARM_FORCE (i : Nat) : Nat := 0x10050048 + i * 0x100
/-- ARM_HIST_SEL, R76. -/
def ARM_HIST_SEL : Nat := 0x10051000
/-- ARM_DEC_TIME, R76. -/
def ARM_DEC_TIME : Nat := 0x10051004
/-- ARM_DEC_TIME_CLR, R76. -/
def ARM_DEC_TIME_CLR : Nat := 0x10051008
/-- ARM_OVR, R76, 64 of them. -/
def ARM_OVR (i : Nat) : Nat := 0x10051100 + i * 0x4
/-- ARM_HIST, R76, 1024 of them. -/
def ARM_HIST (i : Nat) : Nat := 0x10052000 + i * 0x4
/-- CN_SYS_ID, R116. -/
def CN_SYS_ID : Nat := 0x0
/-- CN_SYS_NODE, R116. -/
def CN_SYS_NODE : Nat := 0x1
/-- CN_SYS_STATE, R116. -/
def CN_SYS_STATE : Nat := 0x2
/-- CN_SYS_CFG_STAT, R116. -/
def CN_SYS_CFG_STAT : Nat := 0x3
/-- CN_SYS_RST_CAUSE, R116. -/
def CN_SYS_RST_CAUSE : Nat := 0x4
/-- CN_SYS_CFG_CRC, R116. -/
def CN_SYS_CFG_CRC : Nat := 0x5
/-- CN_SW_CFG, R116. -/
def CN_SW_CFG : Nat := 0x800
/-- CN_SW_DT, R116. -/
def CN_SW_DT : Nat := 0x801
/-- CN_SW_MINP, R116. -/
def CN_SW_MINP : Nat := 0x802
/-- CN_SW_REFRESH, R116. -/
def CN_SW_REFRESH : Nat := 0x803
/-- CN_SW_UNACK, R116. -/
def CN_SW_UNACK : Nat := 0x804
/-- CN_SW_TRIM, R116. -/
def CN_SW_TRIM : Nat := 0x805
/-- CN_SW_PWM_STG0, R116. -/
def CN_SW_PWM_STG0 : Nat := 0x806
/-- CN_SW_PWM_STG1, R116. -/
def CN_SW_PWM_STG1 : Nat := 0x807
/-- CN_SW_PWM_COMMIT, R116. -/
def CN_SW_PWM_COMMIT : Nat := 0x808
/-- CN_SW_PWM_CTL, R116. -/
def CN_SW_PWM_CTL : Nat := 0x809
/-- CN_SW_PWM_WORK, R116. -/
def CN_SW_PWM_WORK : Nat := 0x80A
/-- CN_SW_STICKY, R116. -/
def CN_SW_STICKY : Nat := 0x80B
/-- CN_SW_STICKY_CLR, R116. -/
def CN_SW_STICKY_CLR : Nat := 0x80C
/-- CN_SW_DROP_CNT, R116. -/
def CN_SW_DROP_CNT : Nat := 0x80D
/-- CN_SW_STR_CNT, R116. -/
def CN_SW_STR_CNT : Nat := 0x80E
/-- CN_SW_LATE_CNT, R116. -/
def CN_SW_LATE_CNT : Nat := 0x80F
/-- CN_SW_SELF_REF_CNT, R116. -/
def CN_SW_SELF_REF_CNT : Nat := 0x810
/-- CN_SW_INS_TIME, R116. -/
def CN_SW_INS_TIME : Nat := 0x811
/-- CN_SW_MISS_CNT, R116. -/
def CN_SW_MISS_CNT : Nat := 0x812
/-- CN_SW_OVR, R116. -/
def CN_SW_OVR : Nat := 0x813
/-- CN_SW_OVR_AT, R116. -/
def CN_SW_OVR_AT : Nat := 0x814
/-- CN_ADC_CODE_CFG, R117. -/
def CN_ADC_CODE_CFG : Nat := 0xC00
/-- CN_ADC_CAP, R117. -/
def CN_ADC_CAP : Nat := 0xC01
/-- CN_ADC_CODE, R117. -/
def CN_ADC_CODE : Nat := 0xC02
/-- CN_ADC_AUX, R117, 4 of them. -/
def CN_ADC_AUX (i : Nat) : Nat := 0xC03 + i * 0x1
/-- CN_ADC_CAL, R117. -/
def CN_ADC_CAL : Nat := 0xC07
/-- CN_ADC_STAT, R117. -/
def CN_ADC_STAT : Nat := 0xC08
/-- CN_PROT_CFG0, R117. -/
def CN_PROT_CFG0 : Nat := 0x1000
/-- CN_PROT_CFG1, R117. -/
def CN_PROT_CFG1 : Nat := 0x1001
/-- CN_PROT_OV, R117. -/
def CN_PROT_OV : Nat := 0x1002
/-- CN_PROT_UV, R117. -/
def CN_PROT_UV : Nat := 0x1003
/-- CN_PROT_TEMP, R117. -/
def CN_PROT_TEMP : Nat := 0x1004
/-- CN_PROT_INS, R117. -/
def CN_PROT_INS : Nat := 0x1005
/-- CN_PROT_BYP, R117. -/
def CN_PROT_BYP : Nat := 0x1006
/-- CN_PROT_STAT, R117. -/
def CN_PROT_STAT : Nat := 0x1007
/-- CN_PROT_CMD, R117. -/
def CN_PROT_CMD : Nat := 0x1008
/-- CN_PROT_FRZ, R117. -/
def CN_PROT_FRZ : Nat := 0x1009
/-- CN_PROT_LOSS_CNT, R117. -/
def CN_PROT_LOSS_CNT : Nat := 0x100A
/-- CN_HK_CTL, R117. -/
def CN_HK_CTL : Nat := 0x1800
/-- CN_HK_STAT, R117. -/
def CN_HK_STAT : Nat := 0x1801
/-- CN_HK_DENY_CNT, R117. -/
def CN_HK_DENY_CNT : Nat := 0x1802
/-- CN_HK_MBOX_IN, R117, 8 of them. -/
def CN_HK_MBOX_IN (i : Nat) : Nat := 0x1810 + i * 0x1
/-- CN_HK_MBOX_OUT, R117, 8 of them. -/
def CN_HK_MBOX_OUT (i : Nat) : Nat := 0x1818 + i * 0x1
/-- RING_EN, R155. -/
def RING_EN : Nat := 0x10060000
/-- RING_GSTAT, R155. -/
def RING_GSTAT : Nat := 0x10060004
/-- RING_TRIP_EN, R155. -/
def RING_TRIP_EN : Nat := 0x10060008
/-- RING_URG_CMD, R155. -/
def RING_URG_CMD : Nat := 0x1006000C
/-- RING_URG_STAT, R155. -/
def RING_URG_STAT : Nat := 0x10060010
/-- RING_URG_TIME0, R155. -/
def RING_URG_TIME0 : Nat := 0x10060014
/-- RING_URG_TIME1, R155. -/
def RING_URG_TIME1 : Nat := 0x10060018
/-- RING_MG_CFG, R155. -/
def RING_MG_CFG : Nat := 0x10060020
/-- RING_RETRAIN_CFG, R155. -/
def RING_RETRAIN_CFG : Nat := 0x10060024
/-- RING_PEER_DLY, R155. -/
def RING_PEER_DLY : Nat := 0x10060028
/-- RING_MG_REQ0, R155. -/
def RING_MG_REQ0 : Nat := 0x10060100
/-- RING_MG_REQ1, R155. -/
def RING_MG_REQ1 : Nat := 0x10060104
/-- RING_MG_GO, R155. -/
def RING_MG_GO : Nat := 0x10060108
/-- RING_MG_STAT, R155. -/
def RING_MG_STAT : Nat := 0x1006010C
/-- RING_MG_BUF, R155, 128 of them. -/
def RING_MG_BUF (i : Nat) : Nat := 0x10060400 + i * 0x4
/-- RING_CFG, R155, 16 of them. -/
def RING_CFG (i : Nat) : Nat := 0x10061000 + i * 0x100
/-- RING_ASYM, R155, 16 of them. -/
def RING_ASYM (i : Nat) : Nat := 0x10061004 + i * 0x100
/-- RING_STATE, R155, 16 of them. -/
def RING_STATE (i : Nat) : Nat := 0x10061008 + i * 0x100
/-- RING_TDN, R155, 16 of them. -/
def RING_TDN (i : Nat) : Nat := 0x1006100C + i * 0x100
/-- RING_TUP, R155, 16 of them. -/
def RING_TUP (i : Nat) : Nat := 0x10061010 + i * 0x100
/-- RING_TREP, R155, 16 of them. -/
def RING_TREP (i : Nat) : Nat := 0x10061014 + i * 0x100
/-- RING_TREP_MAX, R155, 16 of them. -/
def RING_TREP_MAX (i : Nat) : Nat := 0x10061018 + i * 0x100
/-- RING_BRK, R155, 16 of them. -/
def RING_BRK (i : Nat) : Nat := 0x1006101C + i * 0x100
/-- RING_WRAP, R155, 16 of them. -/
def RING_WRAP (i : Nat) : Nat := 0x10061020 + i * 0x100
/-- RING_STICKY, R155, 16 of them. -/
def RING_STICKY (i : Nat) : Nat := 0x10061024 + i * 0x100
/-- RING_STICKY_CLR, R155, 16 of them. -/
def RING_STICKY_CLR (i : Nat) : Nat := 0x10061028 + i * 0x100
/-- RING_CRC_CNT, R155, 16 of them. -/
def RING_CRC_CNT (i : Nat) : Nat := 0x1006102C + i * 0x100
/-- RING_LATE_CNT, R155, 16 of them. -/
def RING_LATE_CNT (i : Nat) : Nat := 0x10061030 + i * 0x100
/-- RING_RETRY, R155, 16 of them. -/
def RING_RETRY (i : Nat) : Nat := 0x10061034 + i * 0x100
/-- RING_CTL, R155, 16 of them. -/
def RING_CTL (i : Nat) : Nat := 0x10061038 + i * 0x100
/-- RING_DIFF_CNT, R155, 16 of them. -/
def RING_DIFF_CNT (i : Nat) : Nat := 0x1006103C + i * 0x100
/-- CN_LANE_POS, R157. -/
def CN_LANE_POS : Nat := 0x1400
/-- CN_LANE_STAT, R157. -/
def CN_LANE_STAT : Nat := 0x1401
/-- CN_LANE_CLOSE_AT, R157. -/
def CN_LANE_CLOSE_AT : Nat := 0x1402
/-- CN_LANE_CLOSE_CTL, R157. -/
def CN_LANE_CLOSE_CTL : Nat := 0x1403
/-- CN_LANE_CRC_CNT, R157. -/
def CN_LANE_CRC_CNT : Nat := 0x1404
/-- CN_LANE_MG_CNT, R157. -/
def CN_LANE_MG_CNT : Nat := 0x1405
/-- CN_LANE_TAG, R157. -/
def CN_LANE_TAG : Nat := 0x1406
/-- CN_LANE_URG_CNT, R157. -/
def CN_LANE_URG_CNT : Nat := 0x1407
/-- LANE_QPLL_STAT, R187. -/
def LANE_QPLL_STAT : Nat := 0x10070000
/-- LANE_SPREAD, R187. -/
def LANE_SPREAD : Nat := 0x10070004
/-- LANE_EYE_CFG, R187. -/
def LANE_EYE_CFG : Nat := 0x10070008
/-- LANE_PWR_CFG, R187. -/
def LANE_PWR_CFG : Nat := 0x1007000C
/-- LANE_PEER_CFG, R187. -/
def LANE_PEER_CFG : Nat := 0x10070010
/-- LANE_PEER_STAT, R187. -/
def LANE_PEER_STAT : Nat := 0x10070014
/-- LANE_CFG, R187, 40 of them. -/
def LANE_CFG (i : Nat) : Nat := 0x10071000 + i * 0x100
/-- LANE_TXEQ, R187, 40 of them. -/
def LANE_TXEQ (i : Nat) : Nat := 0x10071004 + i * 0x100
/-- LANE_RXCFG, R187, 40 of them. -/
def LANE_RXCFG (i : Nat) : Nat := 0x10071008 + i * 0x100
/-- LANE_STAT, R187, 40 of them. -/
def LANE_STAT (i : Nat) : Nat := 0x1007100C + i * 0x100
/-- LANE_COEF0, R187, 40 of them. -/
def LANE_COEF0 (i : Nat) : Nat := 0x10071010 + i * 0x100
/-- LANE_COEF1, R187, 40 of them. -/
def LANE_COEF1 (i : Nat) : Nat := 0x10071014 + i * 0x100
/-- LANE_STORE0, R187, 40 of them. -/
def LANE_STORE0 (i : Nat) : Nat := 0x10071018 + i * 0x100
/-- LANE_STORE1, R187, 40 of them. -/
def LANE_STORE1 (i : Nat) : Nat := 0x1007101C + i * 0x100
/-- LANE_EYE, R187, 40 of them. -/
def LANE_EYE (i : Nat) : Nat := 0x10071020 + i * 0x100
/-- LANE_PWR, R187, 40 of them. -/
def LANE_PWR (i : Nat) : Nat := 0x10071024 + i * 0x100
/-- LANE_LAT, R187, 40 of them. -/
def LANE_LAT (i : Nat) : Nat := 0x10071028 + i * 0x100
/-- LANE_STICKY, R187, 40 of them. -/
def LANE_STICKY (i : Nat) : Nat := 0x1007102C + i * 0x100
/-- LANE_STICKY_CLR, R187, 40 of them. -/
def LANE_STICKY_CLR (i : Nat) : Nat := 0x10071030 + i * 0x100
/-- LANE_HDR_CNT, R187, 40 of them. -/
def LANE_HDR_CNT (i : Nat) : Nat := 0x10071034 + i * 0x100
/-- LANE_LOS_CNT, R187, 40 of them. -/
def LANE_LOS_CNT (i : Nat) : Nat := 0x10071038 + i * 0x100
/-- LANE_PRBS_CNT, R187, 40 of them. -/
def LANE_PRBS_CNT (i : Nat) : Nat := 0x1007103C + i * 0x100
/-- CN_LANE_CFG, R189, 2 of them. -/
def CN_LANE_CFG (i : Nat) : Nat := 0x1500 + i * 0x40
/-- CN_LANE_TXEQ, R189, 2 of them. -/
def CN_LANE_TXEQ (i : Nat) : Nat := 0x1501 + i * 0x40
/-- CN_LANE_RXCFG, R189, 2 of them. -/
def CN_LANE_RXCFG (i : Nat) : Nat := 0x1502 + i * 0x40
/-- CN_LANE_LSTAT, R189, 2 of them. -/
def CN_LANE_LSTAT (i : Nat) : Nat := 0x1503 + i * 0x40
/-- CN_LANE_COEF0, R189, 2 of them. -/
def CN_LANE_COEF0 (i : Nat) : Nat := 0x1504 + i * 0x40
/-- CN_LANE_COEF1, R189, 2 of them. -/
def CN_LANE_COEF1 (i : Nat) : Nat := 0x1505 + i * 0x40
/-- CN_LANE_STORE0, R189, 2 of them. -/
def CN_LANE_STORE0 (i : Nat) : Nat := 0x1506 + i * 0x40
/-- CN_LANE_STORE1, R189, 2 of them. -/
def CN_LANE_STORE1 (i : Nat) : Nat := 0x1507 + i * 0x40
/-- CN_LANE_EYE, R189, 2 of them. -/
def CN_LANE_EYE (i : Nat) : Nat := 0x1508 + i * 0x40
/-- CN_LANE_PWR, R189, 2 of them. -/
def CN_LANE_PWR (i : Nat) : Nat := 0x1509 + i * 0x40
/-- CN_LANE_LAT, R189, 2 of them. -/
def CN_LANE_LAT (i : Nat) : Nat := 0x150A + i * 0x40
/-- CN_LANE_STICKY, R189, 2 of them. -/
def CN_LANE_STICKY (i : Nat) : Nat := 0x150B + i * 0x40
/-- CN_LANE_STICKY_CLR, R189, 2 of them. -/
def CN_LANE_STICKY_CLR (i : Nat) : Nat := 0x150C + i * 0x40
/-- CN_LANE_HDR_CNT, R189, 2 of them. -/
def CN_LANE_HDR_CNT (i : Nat) : Nat := 0x150D + i * 0x40
/-- CN_LANE_LOS_CNT, R189, 2 of them. -/
def CN_LANE_LOS_CNT (i : Nat) : Nat := 0x150E + i * 0x40
/-- CN_LANE_PRBS_CNT, R189, 2 of them. -/
def CN_LANE_PRBS_CNT (i : Nat) : Nat := 0x150F + i * 0x40
/-- CN_LANE_REFSEL, R189. -/
def CN_LANE_REFSEL : Nat := 0x1580
/-- CN_LANE_EYE_CFG, R189. -/
def CN_LANE_EYE_CFG : Nat := 0x1581
/-- CN_LANE_PWR_CFG, R189. -/
def CN_LANE_PWR_CFG : Nat := 0x1582
/-- TIME_NOW, R228, 4 of them. -/
def TIME_NOW (i : Nat) : Nat := 0x10020000 + i * 0x4
/-- TIME_INC0, R228. -/
def TIME_INC0 : Nat := 0x10020010
/-- TIME_INC1, R228. -/
def TIME_INC1 : Nat := 0x10020014
/-- TIME_STATE, R228. -/
def TIME_STATE : Nat := 0x10020018
/-- TIME_SRC_CFG, R228. -/
def TIME_SRC_CFG : Nat := 0x1002001C
/-- TIME_SERVO_PTP, R228. -/
def TIME_SERVO_PTP : Nat := 0x10020020
/-- TIME_SERVO_PPS, R228. -/
def TIME_SERVO_PPS : Nat := 0x10020024
/-- TIME_SERVO_PEER, R228. -/
def TIME_SERVO_PEER : Nat := 0x10020028
/-- TIME_WIN_PTP, R228. -/
def TIME_WIN_PTP : Nat := 0x1002002C
/-- TIME_WIN_PPS, R228. -/
def TIME_WIN_PPS : Nat := 0x10020030
/-- TIME_WIN_PEER, R228. -/
def TIME_WIN_PEER : Nat := 0x10020034
/-- TIME_OFS, R228. -/
def TIME_OFS : Nat := 0x10020038
/-- TIME_OFS_PTP, R228. -/
def TIME_OFS_PTP : Nat := 0x1002003C
/-- TIME_OFS_PPS, R228. -/
def TIME_OFS_PPS : Nat := 0x10020040
/-- TIME_OFS_PEER, R228. -/
def TIME_OFS_PEER : Nat := 0x10020044
/-- TIME_PTP_MEAS0, R228. -/
def TIME_PTP_MEAS0 : Nat := 0x10020048
/-- TIME_PTP_MEAS1, R228. -/
def TIME_PTP_MEAS1 : Nat := 0x1002004C
/-- TIME_PTP_CFG, R228. -/
def TIME_PTP_CFG : Nat := 0x10020050
/-- TIME_TSQ_STAT, R228. -/
def TIME_TSQ_STAT : Nat := 0x10020054
/-- TIME_TSQ, R228, 4 of them. -/
def TIME_TSQ (i : Nat) : Nat := 0x10020058 + i * 0x4
/-- TIME_PPS_CFG, R228. -/
def TIME_PPS_CFG : Nat := 0x10020068
/-- TIME_PPS_IN_DLY, R228. -/
def TIME_PPS_IN_DLY : Nat := 0x1002006C
/-- TIME_PPS_OUT_OFS, R228. -/
def TIME_PPS_OUT_OFS : Nat := 0x10020070
/-- TIME_PEER_CFG, R228. -/
def TIME_PEER_CFG : Nat := 0x10020074
/-- TIME_PEER_DLY, R228. -/
def TIME_PEER_DLY : Nat := 0x10020078
/-- TIME_SET, R228, 4 of them. -/
def TIME_SET (i : Nat) : Nat := 0x10020080 + i * 0x4
/-- TIME_SET_CMD, R228. -/
def TIME_SET_CMD : Nat := 0x10020090
/-- TIME_FRAME_CFG, R228. -/
def TIME_FRAME_CFG : Nat := 0x10020094
/-- TIME_EPOCH0, R228. -/
def TIME_EPOCH0 : Nat := 0x10020098
/-- TIME_EPOCH1, R228. -/
def TIME_EPOCH1 : Nat := 0x1002009C
/-- TIME_FRAME_NO0, R228. -/
def TIME_FRAME_NO0 : Nat := 0x100200A0
/-- TIME_FRAME_NO1, R228. -/
def TIME_FRAME_NO1 : Nat := 0x100200A4
/-- TIME_SLEAD, R228. -/
def TIME_SLEAD : Nat := 0x100200A8
/-- TIME_SEQ_ERR, R228. -/
def TIME_SEQ_ERR : Nat := 0x100200AC
/-- TIME_SEQ_WHOLE, R228. -/
def TIME_SEQ_WHOLE : Nat := 0x100200B0
/-- TIME_STICKY, R228. -/
def TIME_STICKY : Nat := 0x100200B4
/-- TIME_STICKY_CLR, R228. -/
def TIME_STICKY_CLR : Nat := 0x100200B8
/-- TIME_ANOM_CNT, R228. -/
def TIME_ANOM_CNT : Nat := 0x100200BC
/-- TIME_STEP_CNT, R228. -/
def TIME_STEP_CNT : Nat := 0x100200C0
/-- TIME_STEP0, R228. -/
def TIME_STEP0 : Nat := 0x100200C4
/-- TIME_STEP1, R228. -/
def TIME_STEP1 : Nat := 0x100200C8
/-- TIME_STEP_AT0, R228. -/
def TIME_STEP_AT0 : Nat := 0x100200CC
/-- TIME_STEP_AT1, R228. -/
def TIME_STEP_AT1 : Nat := 0x100200D0
/-- TIME_APPLY, R228, 12 of them. -/
def TIME_APPLY (i : Nat) : Nat := 0x10020100 + i * 0x4
/-- TIME_RING_DIFF, R228, 16 of them. -/
def TIME_RING_DIFF (i : Nat) : Nat := 0x10020200 + i * 0x4
/-- CN_TIME_FRAME0, R230. -/
def CN_TIME_FRAME0 : Nat := 0x400
/-- CN_TIME_FRAME1, R230. -/
def CN_TIME_FRAME1 : Nat := 0x401
/-- CN_TIME_OFS, R230. -/
def CN_TIME_OFS : Nat := 0x402
/-- CN_TIME_FRAC, R230. -/
def CN_TIME_FRAC : Nat := 0x403
/-- CN_TIME_INC0, R230. -/
def CN_TIME_INC0 : Nat := 0x404
/-- CN_TIME_INC1, R230. -/
def CN_TIME_INC1 : Nat := 0x405
/-- CN_TIME_STAT, R230. -/
def CN_TIME_STAT : Nat := 0x406
/-- CN_TIME_CFG, R230. -/
def CN_TIME_CFG : Nat := 0x407
/-- CN_TIME_WIN, R230. -/
def CN_TIME_WIN : Nat := 0x408
/-- CN_TIME_A, R230. -/
def CN_TIME_A : Nat := 0x409
/-- CN_TIME_B, R230. -/
def CN_TIME_B : Nat := 0x40A
/-- CN_TIME_C, R230. -/
def CN_TIME_C : Nat := 0x40B
/-- CN_TIME_THETA, R230. -/
def CN_TIME_THETA : Nat := 0x40C
/-- CN_TIME_SUM, R230. -/
def CN_TIME_SUM : Nat := 0x40D
/-- CN_TIME_DA, R230. -/
def CN_TIME_DA : Nat := 0x40E
/-- CN_TIME_DB, R230. -/
def CN_TIME_DB : Nat := 0x40F
/-- CN_TIME_TRIM, R230. -/
def CN_TIME_TRIM : Nat := 0x410
/-- CN_TIME_PERIOD, R230. -/
def CN_TIME_PERIOD : Nat := 0x411
/-- CN_TIME_SLEAD, R230. -/
def CN_TIME_SLEAD : Nat := 0x412
/-- CN_TIME_APPLY, R230. -/
def CN_TIME_APPLY : Nat := 0x413
/-- CN_TIME_CHG_AT, R230. -/
def CN_TIME_CHG_AT : Nat := 0x414
/-- CN_TIME_STEP_CNT, R230. -/
def CN_TIME_STEP_CNT : Nat := 0x415
/-- CN_TIME_RENUM_CNT, R230. -/
def CN_TIME_RENUM_CNT : Nat := 0x416
/-- CN_TIME_DL, R230. -/
def CN_TIME_DL : Nat := 0x417
/-- CN_TIME_WRAPLAT, R230. -/
def CN_TIME_WRAPLAT : Nat := 0x418
/-- CN_TIME_STICKY, R230. -/
def CN_TIME_STICKY : Nat := 0x419
/-- CN_TIME_STICKY_CLR, R230. -/
def CN_TIME_STICKY_CLR : Nat := 0x41A
/-- LOOP_SLOT_CFG, R257, 512 of them. -/
def LOOP_SLOT_CFG (i : Nat) : Nat := 0x10040000 + i * 0x30
/-- LOOP_SLOT_SRC0, R257, 512 of them. -/
def LOOP_SLOT_SRC0 (i : Nat) : Nat := 0x10040004 + i * 0x30
/-- LOOP_SLOT_SRC1, R257, 512 of them. -/
def LOOP_SLOT_SRC1 (i : Nat) : Nat := 0x10040008 + i * 0x30
/-- LOOP_SLOT_OUT, R257, 512 of them. -/
def LOOP_SLOT_OUT (i : Nat) : Nat := 0x1004000C + i * 0x30
/-- LOOP_SLOT_INT, R257, 512 of them. -/
def LOOP_SLOT_INT (i : Nat) : Nat := 0x10040010 + i * 0x30
/-- LOOP_SLOT_X1, R257, 512 of them. -/
def LOOP_SLOT_X1 (i : Nat) : Nat := 0x10040014 + i * 0x30
/-- LOOP_SLOT_X2, R257, 512 of them. -/
def LOOP_SLOT_X2 (i : Nat) : Nat := 0x10040018 + i * 0x30
/-- LOOP_SLOT_Y1, R257, 512 of them. -/
def LOOP_SLOT_Y1 (i : Nat) : Nat := 0x1004001C + i * 0x30
/-- LOOP_SLOT_Y2, R257, 512 of them. -/
def LOOP_SLOT_Y2 (i : Nat) : Nat := 0x10040020 + i * 0x30
/-- LOOP_SLOT_RPREV, R257, 512 of them. -/
def LOOP_SLOT_RPREV (i : Nat) : Nat := 0x10040024 + i * 0x30
/-- LOOP_SLOT_STICKY, R257, 512 of them. -/
def LOOP_SLOT_STICKY (i : Nat) : Nat := 0x10040028 + i * 0x30
/-- LOOP_SLOT_STICKY_CLR, R257, 512 of them. -/
def LOOP_SLOT_STICKY_CLR (i : Nat) : Nat := 0x1004002C + i * 0x30
/-- LOOP_A_C0, R257, 512 of them. -/
def LOOP_A_C0 (i : Nat) : Nat := 0x10046000 + i * 0x20
/-- LOOP_A_C1, R257, 512 of them. -/
def LOOP_A_C1 (i : Nat) : Nat := 0x10046004 + i * 0x20
/-- LOOP_A_C2, R257, 512 of them. -/
def LOOP_A_C2 (i : Nat) : Nat := 0x10046008 + i * 0x20
/-- LOOP_A_C3, R257, 512 of them. -/
def LOOP_A_C3 (i : Nat) : Nat := 0x1004600C + i * 0x20
/-- LOOP_A_C4, R257, 512 of them. -/
def LOOP_A_C4 (i : Nat) : Nat := 0x10046010 + i * 0x20
/-- LOOP_A_C5, R257, 512 of them. -/
def LOOP_A_C5 (i : Nat) : Nat := 0x10046014 + i * 0x20
/-- LOOP_A_LIM, R257, 512 of them. -/
def LOOP_A_LIM (i : Nat) : Nat := 0x10046018 + i * 0x20
/-- LOOP_A_ILIM, R257, 512 of them. -/
def LOOP_A_ILIM (i : Nat) : Nat := 0x1004601C + i * 0x20
/-- LOOP_B_C0, R257, 512 of them. -/
def LOOP_B_C0 (i : Nat) : Nat := 0x1004A000 + i * 0x20
/-- LOOP_B_C1, R257, 512 of them. -/
def LOOP_B_C1 (i : Nat) : Nat := 0x1004A004 + i * 0x20
/-- LOOP_B_C2, R257, 512 of them. -/
def LOOP_B_C2 (i : Nat) : Nat := 0x1004A008 + i * 0x20
/-- LOOP_B_C3, R257, 512 of them. -/
def LOOP_B_C3 (i : Nat) : Nat := 0x1004A00C + i * 0x20
/-- LOOP_B_C4, R257, 512 of them. -/
def LOOP_B_C4 (i : Nat) : Nat := 0x1004A010 + i * 0x20
/-- LOOP_B_C5, R257, 512 of them. -/
def LOOP_B_C5 (i : Nat) : Nat := 0x1004A014 + i * 0x20
/-- LOOP_B_LIM, R257, 512 of them. -/
def LOOP_B_LIM (i : Nat) : Nat := 0x1004A018 + i * 0x20
/-- LOOP_B_ILIM, R257, 512 of them. -/
def LOOP_B_ILIM (i : Nat) : Nat := 0x1004A01C + i * 0x20
/-- LOOP_E_STAT, R257, 32 of them. -/
def LOOP_E_STAT (i : Nat) : Nat := 0x1004E000 + i * 0x40
/-- LOOP_E_SWAP, R257, 32 of them. -/
def LOOP_E_SWAP (i : Nat) : Nat := 0x1004E004 + i * 0x40
/-- LOOP_E_OVR_CNT, R257, 32 of them. -/
def LOOP_E_OVR_CNT (i : Nat) : Nat := 0x1004E008 + i * 0x40
/-- LOOP_E_TIME, R257, 32 of them. -/
def LOOP_E_TIME (i : Nat) : Nat := 0x1004E00C + i * 0x40
/-- LOOP_E_TUNE_CTL, R257, 32 of them. -/
def LOOP_E_TUNE_CTL (i : Nat) : Nat := 0x1004E010 + i * 0x40
/-- LOOP_E_TUNE_AMP, R257, 32 of them. -/
def LOOP_E_TUNE_AMP (i : Nat) : Nat := 0x1004E014 + i * 0x40
/-- LOOP_E_TUNE_HYST, R257, 32 of them. -/
def LOOP_E_TUNE_HYST (i : Nat) : Nat := 0x1004E018 + i * 0x40
/-- LOOP_E_TUNE_EMAX, R257, 32 of them. -/
def LOOP_E_TUNE_EMAX (i : Nat) : Nat := 0x1004E01C + i * 0x40
/-- LOOP_E_TUNE_CFG, R257, 32 of them. -/
def LOOP_E_TUNE_CFG (i : Nat) : Nat := 0x1004E020 + i * 0x40
/-- LOOP_E_TUNE_STAT, R257, 32 of them. -/
def LOOP_E_TUNE_STAT (i : Nat) : Nat := 0x1004E024 + i * 0x40
/-- LOOP_E_TUNE_A, R257, 32 of them. -/
def LOOP_E_TUNE_A (i : Nat) : Nat := 0x1004E028 + i * 0x40
/-- LOOP_E_TUNE_TU, R257, 32 of them. -/
def LOOP_E_TUNE_TU (i : Nat) : Nat := 0x1004E02C + i * 0x40
/-- LOOP_E_TUNE_KU, R257, 32 of them. -/
def LOOP_E_TUNE_KU (i : Nat) : Nat := 0x1004E030 + i * 0x40
/-- LOOP_CFG, R257. -/
def LOOP_CFG : Nat := 0x1004F000
/-- LOOP_SWAP, R257. -/
def LOOP_SWAP : Nat := 0x1004F004
/-- LOOP_REMOVED, R257. -/
def LOOP_REMOVED : Nat := 0x1004F008
/-- LOOP_STICKY, R257. -/
def LOOP_STICKY : Nat := 0x1004F00C
/-- LOOP_STICKY_CLR, R257. -/
def LOOP_STICKY_CLR : Nat := 0x1004F010
/-- LOOP_OVR_TOTAL, R257. -/
def LOOP_OVR_TOTAL : Nat := 0x1004F014
/-- LOOP_DONE_TIME, R257. -/
def LOOP_DONE_TIME : Nat := 0x1004F018
/-- LOOP_RT_LVL, R257, 12 of them. -/
def LOOP_RT_LVL (i : Nat) : Nat := 0x1004F100 + i * 0x10
/-- LOOP_RT_BIAS, R257, 12 of them. -/
def LOOP_RT_BIAS (i : Nat) : Nat := 0x1004F104 + i * 0x10
/-- LOOP_RT_SCALE, R257, 12 of them. -/
def LOOP_RT_SCALE (i : Nat) : Nat := 0x1004F108 + i * 0x10
/-- LOOP_RT_CUR, R257, 12 of them. -/
def LOOP_RT_CUR (i : Nat) : Nat := 0x1004F10C + i * 0x10
/-- LOOP_SP, R257, 128 of them. -/
def LOOP_SP (i : Nat) : Nat := 0x1004F400 + i * 0x4
/-- SCHED_CFG, R286. -/
def SCHED_CFG : Nat := 0x10030000
/-- SCHED_STAT, R286. -/
def SCHED_STAT : Nat := 0x10030004
/-- SCHED_POST, R286. -/
def SCHED_POST : Nat := 0x10030008
/-- SCHED_DIV0, R286. -/
def SCHED_DIV0 : Nat := 0x1003000C
/-- SCHED_DIV1, R286. -/
def SCHED_DIV1 : Nat := 0x10030010
/-- SCHED_TRC_CFG, R286. -/
def SCHED_TRC_CFG : Nat := 0x10030014
/-- SCHED_TRC_BASE, R286. -/
def SCHED_TRC_BASE : Nat := 0x10030018
/-- SCHED_TRC_WP, R286. -/
def SCHED_TRC_WP : Nat := 0x1003001C
/-- SCHED_TRC_RP, R286. -/
def SCHED_TRC_RP : Nat := 0x10030020
/-- SCHED_TRC_LOST, R286. -/
def SCHED_TRC_LOST : Nat := 0x10030024
/-- SCHED_STICKY, R286. -/
def SCHED_STICKY : Nat := 0x10030028
/-- SCHED_STICKY_CLR, R286. -/
def SCHED_STICKY_CLR : Nat := 0x1003002C
/-- SCHED_POST_CNT, R286. -/
def SCHED_POST_CNT : Nat := 0x10030030
/-- SCHED_COAL_CNT, R286. -/
def SCHED_COAL_CNT : Nat := 0x10030034
/-- SCHED_DROP_CNT, R286. -/
def SCHED_DROP_CNT : Nat := 0x10030038
/-- SCHED_OVR_CNT, R286. -/
def SCHED_OVR_CNT : Nat := 0x1003003C
/-- SCHED_AFF_CNT, R286. -/
def SCHED_AFF_CNT : Nat := 0x10030040
/-- SCHED_SELF_DONE, R286. -/
def SCHED_SELF_DONE : Nat := 0x10030080
/-- SCHED_SELF, R286. -/
def SCHED_SELF : Nat := 0x10030084
/-- SCHED_CORE_CFG, R286, 16 of them. -/
def SCHED_CORE_CFG (i : Nat) : Nat := 0x10030100 + i * 0x40
/-- SCHED_CORE_STAT, R286, 16 of them. -/
def SCHED_CORE_STAT (i : Nat) : Nat := 0x10030104 + i * 0x40
/-- SCHED_CORE_SP, R286, 16 of them. -/
def SCHED_CORE_SP (i : Nat) : Nat := 0x10030108 + i * 0x40
/-- SCHED_CORE_SPLIM, R286, 16 of them. -/
def SCHED_CORE_SPLIM (i : Nat) : Nat := 0x1003010C + i * 0x40
/-- SCHED_CORE_DISP_CNT, R286, 16 of them. -/
def SCHED_CORE_DISP_CNT (i : Nat) : Nat := 0x10030110 + i * 0x40
/-- SCHED_CORE_PRE_CNT, R286, 16 of them. -/
def SCHED_CORE_PRE_CNT (i : Nat) : Nat := 0x10030114 + i * 0x40
/-- SCHED_CORE_BUSY, R286, 16 of them. -/
def SCHED_CORE_BUSY (i : Nat) : Nat := 0x10030118 + i * 0x40
/-- SCHED_CORE_BUSY_MAX, R286, 16 of them. -/
def SCHED_CORE_BUSY_MAX (i : Nat) : Nat := 0x1003011C + i * 0x40
/-- SCHED_CORE_EXC_CAUSE, R286, 16 of them. -/
def SCHED_CORE_EXC_CAUSE (i : Nat) : Nat := 0x10030120 + i * 0x40
/-- SCHED_CORE_EXC_PC, R286, 16 of them. -/
def SCHED_CORE_EXC_PC (i : Nat) : Nat := 0x10030124 + i * 0x40
/-- SCHED_CORE_EXC_VAL, R286, 16 of them. -/
def SCHED_CORE_EXC_VAL (i : Nat) : Nat := 0x10030128 + i * 0x40
/-- SCHED_CORE_EXC_WI, R286, 16 of them. -/
def SCHED_CORE_EXC_WI (i : Nat) : Nat := 0x1003012C + i * 0x40
/-- SCHED_LOCK, R286, 64 of them. -/
def SCHED_LOCK (i : Nat) : Nat := 0x10030200 + i * 0x4
/-- SCHED_EV_CFG, R286, 256 of them. -/
def SCHED_EV_CFG (i : Nat) : Nat := 0x10030800 + i * 0x4
/-- SCHED_EV_CNT, R286, 256 of them. -/
def SCHED_EV_CNT (i : Nat) : Nat := 0x10030C00 + i * 0x4
/-- SCHED_WI_CFG, R286, 4096 of them. -/
def SCHED_WI_CFG (i : Nat) : Nat := 0x10032000 + i * 0x4
/-- SCHED_WI_ENTRY, R286, 4096 of them. -/
def SCHED_WI_ENTRY (i : Nat) : Nat := 0x10036000 + i * 0x4
/-- SCHED_WI_STAT, R286, 4096 of them. -/
def SCHED_WI_STAT (i : Nat) : Nat := 0x1003A000 + i * 0x4
/-- ADC_CH_EN, R312. -/
def ADC_CH_EN : Nat := 0x10080000
/-- ADC_MODE, R312. -/
def ADC_MODE : Nat := 0x10080004
/-- ADC_ROT_CFG, R312. -/
def ADC_ROT_CFG : Nat := 0x10080008
/-- ADC_ROT_STAT, R312. -/
def ADC_ROT_STAT : Nat := 0x1008000C
/-- ADC_CAL_CMD, R312. -/
def ADC_CAL_CMD : Nat := 0x10080010
/-- ADC_CAL_STAT, R312. -/
def ADC_CAL_STAT : Nat := 0x10080014
/-- ADC_INJ_REQ, R312. -/
def ADC_INJ_REQ : Nat := 0x10080018
/-- ADC_INJ_PEND, R312. -/
def ADC_INJ_PEND : Nat := 0x1008001C
/-- ADC_RES_NEW, R312. -/
def ADC_RES_NEW : Nat := 0x10080020
/-- ADC_RES_OVRUN, R312. -/
def ADC_RES_OVRUN : Nat := 0x10080024
/-- ADC_OVR_STICKY, R312. -/
def ADC_OVR_STICKY : Nat := 0x10080028
/-- ADC_OVR_CLR, R312. -/
def ADC_OVR_CLR : Nat := 0x1008002C
/-- ADC_STICKY, R312. -/
def ADC_STICKY : Nat := 0x10080030
/-- ADC_STICKY_CLR, R312. -/
def ADC_STICKY_CLR : Nat := 0x10080034
/-- ADC_INJ_CNT, R312. -/
def ADC_INJ_CNT : Nat := 0x10080038
/-- ADC_CAL_WAIT_CNT, R312. -/
def ADC_CAL_WAIT_CNT : Nat := 0x1008003C
/-- ADC_SEAM_CNT, R312. -/
def ADC_SEAM_CNT : Nat := 0x10080040
/-- ADC_INT_EN, R312. -/
def ADC_INT_EN : Nat := 0x10080044
/-- ADC_INT_STAT, R312. -/
def ADC_INT_STAT : Nat := 0x10080048
/-- ADC_CH_CFG, R312, 16 of them. -/
def ADC_CH_CFG (i : Nat) : Nat := 0x10081000 + i * 0x40
/-- ADC_CH_DLY, R312, 16 of them. -/
def ADC_CH_DLY (i : Nat) : Nat := 0x10081004 + i * 0x40
/-- ADC_CH_RES, R312, 16 of them. -/
def ADC_CH_RES (i : Nat) : Nat := 0x10081008 + i * 0x40
/-- ADC_CH_LAST, R312, 16 of them. -/
def ADC_CH_LAST (i : Nat) : Nat := 0x1008100C + i * 0x40
/-- ADC_INJ_RES, R312, 16 of them. -/
def ADC_INJ_RES (i : Nat) : Nat := 0x10081010 + i * 0x40
/-- ADC_INJ_TS, R312, 16 of them. -/
def ADC_INJ_TS (i : Nat) : Nat := 0x10081014 + i * 0x40
/-- ADC_STR_BASE, R312, 16 of them. -/
def ADC_STR_BASE (i : Nat) : Nat := 0x10081018 + i * 0x40
/-- ADC_STR_CFG, R312, 16 of them. -/
def ADC_STR_CFG (i : Nat) : Nat := 0x1008101C + i * 0x40
/-- ADC_STR_WP, R312, 16 of them. -/
def ADC_STR_WP (i : Nat) : Nat := 0x10081020 + i * 0x40
/-- ADC_STR_RP, R312, 16 of them. -/
def ADC_STR_RP (i : Nat) : Nat := 0x10081024 + i * 0x40
/-- ADC_STR_LOST, R312, 16 of them. -/
def ADC_STR_LOST (i : Nat) : Nat := 0x10081028 + i * 0x40
/-- ADC_SL_OFS, R312, 18 of them. -/
def ADC_SL_OFS (i : Nat) : Nat := 0x10083000 + i * 0x20
/-- ADC_SL_GAIN, R312, 18 of them. -/
def ADC_SL_GAIN (i : Nat) : Nat := 0x10083004 + i * 0x20
/-- ADC_SL_STAT, R312, 18 of them. -/
def ADC_SL_STAT (i : Nat) : Nat := 0x10083008 + i * 0x20
/-- ADC_SL_CAL_AT, R312, 18 of them. -/
def ADC_SL_CAL_AT (i : Nat) : Nat := 0x1008300C + i * 0x20
/-- ACQ_CFG, R340. -/
def ACQ_CFG : Nat := 0x10090000
/-- ACQ_STAT, R340. -/
def ACQ_STAT : Nat := 0x10090004
/-- ACQ_STICKY, R340. -/
def ACQ_STICKY : Nat := 0x10090008
/-- ACQ_STICKY_CLR, R340. -/
def ACQ_STICKY_CLR : Nat := 0x1009000C
/-- ACQ_INT_EN, R340. -/
def ACQ_INT_EN : Nat := 0x10090010
/-- ACQ_INT_STAT, R340. -/
def ACQ_INT_STAT : Nat := 0x10090014
/-- ACQ_MISS_CNT, R340. -/
def ACQ_MISS_CNT : Nat := 0x10090018
/-- ACQ_MISS_WP, R340. -/
def ACQ_MISS_WP : Nat := 0x1009001C
/-- ACQ_MQ_STAT, R340. -/
def ACQ_MQ_STAT : Nat := 0x10090020
/-- ACQ_DC_CFG, R340, 8 of them. -/
def ACQ_DC_CFG (i : Nat) : Nat := 0x10090100 + i * 0x10
/-- ACQ_DC_W, R340, 8 of them. -/
def ACQ_DC_W (i : Nat) : Nat := 0x10090104 + i * 0x10
/-- ACQ_DC_VAL, R340, 8 of them. -/
def ACQ_DC_VAL (i : Nat) : Nat := 0x10090108 + i * 0x10
/-- ACQ_TU_CFG, R340, 16 of them. -/
def ACQ_TU_CFG (i : Nat) : Nat := 0x10090200 + i * 0x20
/-- ACQ_TU_LEVEL, R340, 16 of them. -/
def ACQ_TU_LEVEL (i : Nat) : Nat := 0x10090204 + i * 0x20
/-- ACQ_TU_HYST, R340, 16 of them. -/
def ACQ_TU_HYST (i : Nat) : Nat := 0x10090208 + i * 0x20
/-- ACQ_TU_STAT, R340, 16 of them. -/
def ACQ_TU_STAT (i : Nat) : Nat := 0x1009020C + i * 0x20
/-- ACQ_TU_CNT, R340, 16 of them. -/
def ACQ_TU_CNT (i : Nat) : Nat := 0x10090210 + i * 0x20
/-- ACQ_P_CFG, R340, 16 of them. -/
def ACQ_P_CFG (i : Nat) : Nat := 0x10090600 + i * 0x40
/-- ACQ_P_BASE, R340, 16 of them. -/
def ACQ_P_BASE (i : Nat) : Nat := 0x10090604 + i * 0x40
/-- ACQ_P_HEAD, R340, 16 of them. -/
def ACQ_P_HEAD (i : Nat) : Nat := 0x10090608 + i * 0x40
/-- ACQ_P_TAIL, R340, 16 of them. -/
def ACQ_P_TAIL (i : Nat) : Nat := 0x1009060C + i * 0x40
/-- ACQ_P_CH, R340, 16 of them. -/
def ACQ_P_CH (i : Nat) : Nat := 0x10090610 + i * 0x40
/-- ACQ_P_SEG, R340, 16 of them. -/
def ACQ_P_SEG (i : Nat) : Nat := 0x10090614 + i * 0x40
/-- ACQ_P_STRIDE, R340, 16 of them. -/
def ACQ_P_STRIDE (i : Nat) : Nat := 0x10090618 + i * 0x40
/-- ACQ_P_STAT, R340, 16 of them. -/
def ACQ_P_STAT (i : Nat) : Nat := 0x1009061C + i * 0x40
/-- ACQ_P_FREE, R340, 16 of them. -/
def ACQ_P_FREE (i : Nat) : Nat := 0x10090620 + i * 0x40
/-- ACQ_P_LAST, R340, 16 of them. -/
def ACQ_P_LAST (i : Nat) : Nat := 0x10090624 + i * 0x40
/-- ACQ_P_REC_CNT, R340, 16 of them. -/
def ACQ_P_REC_CNT (i : Nat) : Nat := 0x10090628 + i * 0x40
/-- ACQ_MISS_E, R340, 64 of them. -/
def ACQ_MISS_E (i : Nat) : Nat := 0x10090A00 + i * 0x4
/-- ACQ_LOC_CFG, R340. -/
def ACQ_LOC_CFG : Nat := 0x10090C00
/-- ACQ_LOC_VEL, R340. -/
def ACQ_LOC_VEL : Nat := 0x10090C04
/-- ACQ_LOC_LEN, R340. -/
def ACQ_LOC_LEN : Nat := 0x10090C08
/-- ACQ_LOC_BLANK, R340. -/
def ACQ_LOC_BLANK : Nat := 0x10090C0C
/-- ACQ_LOC_LEVEL, R340. -/
def ACQ_LOC_LEVEL : Nat := 0x10090C10
/-- ACQ_LOC_TOL, R340. -/
def ACQ_LOC_TOL : Nat := 0x10090C14
/-- ACQ_LOC_STAT, R340. -/
def ACQ_LOC_STAT : Nat := 0x10090C18
/-- ACQ_LOC_T1, R340, 4 of them. -/
def ACQ_LOC_T1 (i : Nat) : Nat := 0x10090C20 + i * 0x4
/-- ACQ_LOC_CAND, R340, 4 of them. -/
def ACQ_LOC_CAND (i : Nat) : Nat := 0x10090C30 + i * 0x4
/-- ACQ_LOC_DIST, R340, 4 of them. -/
def ACQ_LOC_DIST (i : Nat) : Nat := 0x10090C40 + i * 0x4
/-- ACQ_LOC_REM, R340, 4 of them. -/
def ACQ_LOC_REM (i : Nat) : Nat := 0x10090C50 + i * 0x4
/-- ACQ_LOC_DE_DIST, R340. -/
def ACQ_LOC_DE_DIST : Nat := 0x10090C60
/-- GRID_STICKY, R358. -/
def GRID_STICKY : Nat := 0x100A0000
/-- GRID_STICKY_CLR, R358. -/
def GRID_STICKY_CLR : Nat := 0x100A0004
/-- GRID_INT_EN, R358. -/
def GRID_INT_EN : Nat := 0x100A0008
/-- GRID_INT_STAT, R358. -/
def GRID_INT_STAT : Nat := 0x100A000C
/-- GRID_PQ_STAT, R358. -/
def GRID_PQ_STAT : Nat := 0x100A0010
/-- GRID_PQ, R358, 16 of them. -/
def GRID_PQ (i : Nat) : Nat := 0x100A0040 + i * 0x4
/-- GRID_TR_CFG, R358, 4 of them. -/
def GRID_TR_CFG (i : Nat) : Nat := 0x100A0100 + i * 0x40
/-- GRID_TR_BW, R358, 4 of them. -/
def GRID_TR_BW (i : Nat) : Nat := 0x100A0104 + i * 0x40
/-- GRID_TR_THR, R358, 4 of them. -/
def GRID_TR_THR (i : Nat) : Nat := 0x100A0108 + i * 0x40
/-- GRID_TR_STAT, R358, 4 of them. -/
def GRID_TR_STAT (i : Nat) : Nat := 0x100A010C + i * 0x40
/-- GRID_TR_ANG, R358, 4 of them. -/
def GRID_TR_ANG (i : Nat) : Nat := 0x100A0110 + i * 0x40
/-- GRID_TR_FREQ, R358, 4 of them. -/
def GRID_TR_FREQ (i : Nat) : Nat := 0x100A0114 + i * 0x40
/-- GRID_TR_ROCOF, R358, 4 of them. -/
def GRID_TR_ROCOF (i : Nat) : Nat := 0x100A0118 + i * 0x40
/-- GRID_TR_MAG, R358, 4 of them. -/
def GRID_TR_MAG (i : Nat) : Nat := 0x100A011C + i * 0x40
/-- GRID_TR_ERR, R358, 4 of them. -/
def GRID_TR_ERR (i : Nat) : Nat := 0x100A0120 + i * 0x40
/-- GRID_TR_CNT, R358, 4 of them. -/
def GRID_TR_CNT (i : Nat) : Nat := 0x100A0124 + i * 0x40
/-- GRID_TLI_CFG, R358, 8 of them. -/
def GRID_TLI_CFG (i : Nat) : Nat := 0x100A0400 + i * 0x20
/-- GRID_TLI_DLY, R358, 8 of them. -/
def GRID_TLI_DLY (i : Nat) : Nat := 0x100A0404 + i * 0x20
/-- GRID_TLI_VAL, R358, 8 of them. -/
def GRID_TLI_VAL (i : Nat) : Nat := 0x100A0408 + i * 0x20
/-- GRID_TLI_META, R358, 8 of them. -/
def GRID_TLI_META (i : Nat) : Nat := 0x100A040C + i * 0x20
/-- GRID_TLI_TS, R358, 8 of them. -/
def GRID_TLI_TS (i : Nat) : Nat := 0x100A0410 + i * 0x20
/-- GRID_TLI_CNT, R358, 8 of them. -/
def GRID_TLI_CNT (i : Nat) : Nat := 0x100A0414 + i * 0x20
/-- GRID_TLI_CNT2, R358, 8 of them. -/
def GRID_TLI_CNT2 (i : Nat) : Nat := 0x100A0418 + i * 0x20
/-- GRID_TLO_CFG, R358, 4 of them. -/
def GRID_TLO_CFG (i : Nat) : Nat := 0x100A0600 + i * 0x10
/-- GRID_TLO_CNT, R358, 4 of them. -/
def GRID_TLO_CNT (i : Nat) : Nat := 0x100A0604 + i * 0x10
/-- HOST_CFG, R393. -/
def HOST_CFG : Nat := 0x100B0000
/-- HOST_MAX_AHEAD, R393. -/
def HOST_MAX_AHEAD : Nat := 0x100B0004
/-- HOST_TOKEN_TMO, R393. -/
def HOST_TOKEN_TMO : Nat := 0x100B0008
/-- HOST_STAT, R393. -/
def HOST_STAT : Nat := 0x100B000C
/-- HOST_EPOCH0, R393. -/
def HOST_EPOCH0 : Nat := 0x100B0010
/-- HOST_EPOCH1, R393. -/
def HOST_EPOCH1 : Nat := 0x100B0014
/-- HOST_STAGE, R393. -/
def HOST_STAGE : Nat := 0x100B0018
/-- HOST_SEAL, R393. -/
def HOST_SEAL : Nat := 0x100B001C
/-- HOST_TRIP, R393. -/
def HOST_TRIP : Nat := 0x100B0020
/-- HOST_STICKY, R393. -/
def HOST_STICKY : Nat := 0x100B0024
/-- HOST_STICKY_CLR, R393. -/
def HOST_STICKY_CLR : Nat := 0x100B0028
/-- HOST_INT_EN, R393. -/
def HOST_INT_EN : Nat := 0x100B002C
/-- HOST_INT_STAT, R393. -/
def HOST_INT_STAT : Nat := 0x100B0030
/-- HOST_JRNL_SUPP, R393. -/
def HOST_JRNL_SUPP : Nat := 0x100B0034
/-- HOST_P_CFG, R393, 4 of them. -/
def HOST_P_CFG (i : Nat) : Nat := 0x100B0100 + i * 0x40
/-- HOST_P_MAC0, R393, 4 of them. -/
def HOST_P_MAC0 (i : Nat) : Nat := 0x100B0104 + i * 0x40
/-- HOST_P_MAC1, R393, 4 of them. -/
def HOST_P_MAC1 (i : Nat) : Nat := 0x100B0108 + i * 0x40
/-- HOST_P_EVMASK0, R393, 4 of them. -/
def HOST_P_EVMASK0 (i : Nat) : Nat := 0x100B010C + i * 0x40
/-- HOST_P_EVMASK1, R393, 4 of them. -/
def HOST_P_EVMASK1 (i : Nat) : Nat := 0x100B0110 + i * 0x40
/-- HOST_P_STAT, R393, 4 of them. -/
def HOST_P_STAT (i : Nat) : Nat := 0x100B0114 + i * 0x40
/-- HOST_P_RX_CNT, R393, 4 of them. -/
def HOST_P_RX_CNT (i : Nat) : Nat := 0x100B0118 + i * 0x40
/-- HOST_P_REQ_CNT, R393, 4 of them. -/
def HOST_P_REQ_CNT (i : Nat) : Nat := 0x100B011C + i * 0x40
/-- HOST_P_EV_CNT, R393, 4 of them. -/
def HOST_P_EV_CNT (i : Nat) : Nat := 0x100B0120 + i * 0x40
/-- HOST_P_MSG_STAT, R393, 4 of them. -/
def HOST_P_MSG_STAT (i : Nat) : Nat := 0x100B0124 + i * 0x40
/-- HOST_P_MSG_ACK, R393, 4 of them. -/
def HOST_P_MSG_ACK (i : Nat) : Nat := 0x100B0128 + i * 0x40
/-- HOST_P_MSG_SEND, R393, 4 of them. -/
def HOST_P_MSG_SEND (i : Nat) : Nat := 0x100B012C + i * 0x40
/-- HOST_P_LAST, R393, 4 of them. -/
def HOST_P_LAST (i : Nat) : Nat := 0x100B0130 + i * 0x40
/-- HOST_P_MSG_RX, R393, 1024 of them. -/
def HOST_P_MSG_RX (i : Nat) : Nat := 0x100B1000 + i * 0x4
/-- HOST_P_MSG_TX, R393, 1024 of them. -/
def HOST_P_MSG_TX (i : Nat) : Nat := 0x100B2000 + i * 0x4
/-- SYS_FLT_AUTO, R433. -/
def SYS_FLT_AUTO : Nat := 0x10000400
/-- SYS_FATAL, R433. -/
def SYS_FATAL : Nat := 0x10000404
/-- SYS_JRNL, R433. -/
def SYS_JRNL : Nat := 0x10000408
/-- SYS_JRNL_SEQ, R433. -/
def SYS_JRNL_SEQ : Nat := 0x1000040C
/-- PEER_CFG, R434. -/
def PEER_CFG : Nat := 0x100C0000
/-- PEER_STAT, R434. -/
def PEER_STAT : Nat := 0x100C0004
/-- PEER_DIG, R434. -/
def PEER_DIG : Nat := 0x100C0008
/-- PEER_DIG_P, R434. -/
def PEER_DIG_P : Nat := 0x100C000C
/-- PEER_MIS_ARM, R434. -/
def PEER_MIS_ARM : Nat := 0x100C0010
/-- PEER_MIS_CNT, R434. -/
def PEER_MIS_CNT : Nat := 0x100C0014
/-- PEER_TAKE_CNT, R434. -/
def PEER_TAKE_CNT : Nat := 0x100C0018
/-- PEER_LATE_CNT, R434. -/
def PEER_LATE_CNT : Nat := 0x100C001C
/-- PEER_LOSS_AT0, R434. -/
def PEER_LOSS_AT0 : Nat := 0x100C0020
/-- PEER_LOSS_AT1, R434. -/
def PEER_LOSS_AT1 : Nat := 0x100C0024
/-- PEER_FWD_CNT, R434. -/
def PEER_FWD_CNT : Nat := 0x100C0028
/-- PEER_STICKY, R434. -/
def PEER_STICKY : Nat := 0x100C002C
/-- PEER_STICKY_CLR, R434. -/
def PEER_STICKY_CLR : Nat := 0x100C0030
/-- BOOT_STAT, R453. -/
def BOOT_STAT : Nat := 0x100D0000
/-- BOOT_VERSION, R453. -/
def BOOT_VERSION : Nat := 0x100D0004
/-- BOOT_IMG_CRC, R453. -/
def BOOT_IMG_CRC : Nat := 0x100D0008
/-- BOOT_TRY, R453. -/
def BOOT_TRY : Nat := 0x100D000C
/-- BOOT_IDENT, R453. -/
def BOOT_IDENT : Nat := 0x100D0010
/-- BOOT_FLASH, R453. -/
def BOOT_FLASH : Nat := 0x100D0014
/-- BOOT_ARMED, R453. -/
def BOOT_ARMED : Nat := 0x100D0018
/-- BOOT_T_READY, R453. -/
def BOOT_T_READY : Nat := 0x100D001C
/-- BOOT_T_ARMED, R453. -/
def BOOT_T_ARMED : Nat := 0x100D0020
/-- BOOT_RETMAP, R453. -/
def BOOT_RETMAP : Nat := 0x100D0024
/-- BOOT_RETCLR, R453. -/
def BOOT_RETCLR : Nat := 0x100D0028
/-- BOOT_OP_STAT, R453. -/
def BOOT_OP_STAT : Nat := 0x100D002C
/-- SYS_ID, R475. -/
def SYS_ID : Nat := 0x10000000
/-- SYS_RST_CAUSE, R475. -/
def SYS_RST_CAUSE : Nat := 0x10000004
/-- SYS_PINS, R475. -/
def SYS_PINS : Nat := 0x10000008
/-- SYS_PWR_CFG, R475. -/
def SYS_PWR_CFG : Nat := 0x10000010
/-- SYS_PWR_STAT, R475. -/
def SYS_PWR_STAT : Nat := 0x10000014
/-- SYS_STICKY, R475. -/
def SYS_STICKY : Nat := 0x10000018
/-- SYS_STICKY_CLR, R475. -/
def SYS_STICKY_CLR : Nat := 0x1000001C
/-- CLK_STAT, R476. -/
def CLK_STAT : Nat := 0x10010000
/-- CLK_RAMP, R476. -/
def CLK_RAMP : Nat := 0x10010004
/-- CLK_SYNC_CFG, R476. -/
def CLK_SYNC_CFG : Nat := 0x10010008
/-- CLK_SYNC_STAT, R476. -/
def CLK_SYNC_STAT : Nat := 0x1001000C
/-- CLK_GUARD_CNT, R476. -/
def CLK_GUARD_CNT : Nat := 0x10010010
/-- CLK_LOSS_CNT, R476. -/
def CLK_LOSS_CNT : Nat := 0x10010014
/-- CLK_OUT_CFG, R476, 4 of them. -/
def CLK_OUT_CFG (i : Nat) : Nat := 0x10010020 + i * 0x4
/-- CLK_SSC_PROF, R476, 4 of them. -/
def CLK_SSC_PROF (i : Nat) : Nat := 0x10010040 + i * 0x4
/-- CLK_STICKY, R476. -/
def CLK_STICKY : Nat := 0x10010050
/-- CLK_STICKY_CLR, R476. -/
def CLK_STICKY_CLR : Nat := 0x10010054
/-- CN_SYS_PWR, R470. -/
def CN_SYS_PWR : Nat := 0x6

/-- The base of register block `b` (R37). -/
def blockBase (b : Nat) : Nat := 0x10000000 + b * 0x10000
/-- `<BLK>_FLT_STAT` of block `b` (R9). -/
def FLT_STAT (b : Nat) : Nat := blockBase b + 0xFF00
/-- `<BLK>_FLT_FIRST`i of block `b` (R9). -/
def FLT_FIRST (b i : Nat) : Nat := blockBase b + 0xFF04 + i * 4
/-- `<BLK>_FLT_ACK` of block `b` (R9). -/
def FLT_ACK (b : Nat) : Nat := blockBase b + 0xFF14

end Reg

/-- The register table of block SYS. -/
def rowsSys : List RegRow := [
  ⟨0x400, 0x4, 1, .rws, 0x640000, 0xFFFFFFFF⟩,
  ⟨0x404, 0x4, 1, .ro, 0x0, 0xFFFF⟩,
  ⟨0x408, 0x4, 1, .ro, 0x0, 0xFFFF1FFF⟩,
  ⟨0x40C, 0x4, 1, .ro, 0x0, 0xFFFFFFFF⟩,
  ⟨0x0, 0x4, 1, .ro, 0xA10B01, 0xFFFFFF⟩,
  ⟨0x4, 0x4, 1, .ro, 0x1, 0x0⟩,
  ⟨0x8, 0x4, 1, .ro, 0x0, 0xFF⟩,
  ⟨0x10, 0x4, 1, .rws, 0xFFFF, 0xFFFF⟩,
  ⟨0x14, 0x4, 1, .ro, 0xFFFF, 0xFFFFFFFF⟩,
  ⟨0x18, 0x4, 1, .ros, 0x0, 0x3⟩,
  ⟨0x1C, 0x4, 1, .wo, 0x0, 0xFFFFFFFF⟩]

/-- The register table of block CLK. -/
def rowsClk : List RegRow := [
  ⟨0x0, 0x4, 1, .ro, 0x0, 0x1FFF000F⟩,
  ⟨0x4, 0x4, 1, .rws, 0x1F4, 0x3FF⟩,
  ⟨0x8, 0x4, 1, .rws, 0x0, 0x3⟩,
  ⟨0xC, 0x4, 1, .ro, 0x0, 0xFFFFFFFF⟩,
  ⟨0x10, 0x4, 1, .ro, 0x0, 0xFFFFFFFF⟩,
  ⟨0x14, 0x4, 1, .ro, 0x0, 0xFF⟩,
  ⟨0x20, 0x4, 4, .rws, 0x14, 0x3FF07FF⟩,
  ⟨0x40, 0x4, 4, .rws, 0xF32, 0x1F3F⟩,
  ⟨0x50, 0x4, 1, .ros, 0x0, 0x0⟩,
  ⟨0x54, 0x4, 1, .wo, 0x0, 0xFFFFFFFF⟩]

/-- The register table of block TIME. -/
def rowsTime : List RegRow := [
  ⟨0x0, 0x4, 4, .ro, 0x0, 0x0⟩,
  ⟨0x10, 0x4, 1, .ro, 0x0, 0xFFFFFFFF⟩,
  ⟨0x14, 0x4, 1, .ro, 0x4, 0xFFFFFFFF⟩,
  ⟨0x18, 0x4, 1, .ro, 0x30, 0x0⟩,
  ⟨0x1C, 0x4, 1, .rws, 0x303F, 0xF13F⟩,
  ⟨0x20, 0x4, 1, .rws, 0xC80462, 0xFFFFFFFF⟩,
  ⟨0x24, 0x4, 1, .rws, 0x640462, 0xFFFFFFFF⟩,
  ⟨0x28, 0x4, 1, .rws, 0x21083, 0xFFFFFFFF⟩,
  ⟨0x2C, 0x4, 1, .rws, 0x3E8, 0xFFFFFF⟩,
  ⟨0x30, 0x4, 1, .rws, 0x1F4, 0xFFFFFF⟩,
  ⟨0x34, 0x4, 1, .rws, 0x32, 0xFFFFFF⟩,
  ⟨0x38, 0x4, 1, .ro, 0x0, 0xFFFFFFFF⟩,
  ⟨0x3C, 0x4, 1, .ro, 0x0, 0xFFFFFFFF⟩,
  ⟨0x40, 0x4, 1, .ro, 0x0, 0xFFFFFFFF⟩,
  ⟨0x44, 0x4, 1, .ro, 0x0, 0xFFFFFFFF⟩,
  ⟨0x48, 0x4, 1, .rw, 0x0, 0xFFFFFFFF⟩,
  ⟨0x4C, 0x4, 1, .rw, 0x0, 0xFFFFFFFF⟩,
  ⟨0x50, 0x4, 1, .rws, 0x10, 0xFF3F⟩,
  ⟨0x54, 0x4, 1, .ro, 0x0, 0x7F⟩,
  ⟨0x58, 0x4, 4, .ro, 0x0, 0xF⟩,
  ⟨0x68, 0x4, 1, .rws, 0x5006400, 0xF0FFF07⟩,
  ⟨0x6C, 0x4, 1, .rws, 0x0, 0xFFFFFFFF⟩,
  ⟨0x70, 0x4, 1, .rws, 0x0, 0xFFFFFFFF⟩,
  ⟨0x74, 0x4, 1, .rws, 0x0, 0xFFFF0003⟩,
  ⟨0x78, 0x4, 1, .ro, 0x0, 0xFFFFFFFF⟩,
  ⟨0x80, 0x4, 4, .rws, 0x0, 0xFFFFFFFF⟩,
  ⟨0x90, 0x4, 1, .wo, 0x0, 0x1⟩,
  ⟨0x94, 0x4, 1, .ro, 0x3, 0xF⟩,
  ⟨0x98, 0x4, 1, .ro, 0x0, 0xFFFFFFFF⟩,
  ⟨0x9C, 0x4, 1, .ro, 0x0, 0xFFFFFFFF⟩,
  ⟨0xA0, 0x4, 1, .ro, 0x0, 0xFFFFFFFF⟩,
  ⟨0xA4, 0x4, 1, .ro, 0x0, 0xFFFFFFFF⟩,
  ⟨0xA8, 0x4, 1, .rws, 0x3E8, 0xFFF⟩,
  ⟨0xAC, 0x4, 1, .ro, 0x0, 0xFFFFFFFF⟩,
  ⟨0xB0, 0x4, 1, .ro, 0x0, 0xFFFFFFFF⟩,
  ⟨0xB4, 0x4, 1, .ros, 0x0, 0x0⟩,
  ⟨0xB8, 0x4, 1, .wo, 0x0, 0xFFFFFFFF⟩,
  ⟨0xBC, 0x4, 1, .ro, 0x0, 0xFFFFFFFF⟩,
  ⟨0xC0, 0x4, 1, .ro, 0x0, 0xFFFFFFFF⟩,
  ⟨0xC4, 0x4, 1, .ro, 0x0, 0xFFFFFFFF⟩,
  ⟨0xC8, 0x4, 1, .ro, 0x0, 0xFFFFFFFF⟩,
  ⟨0xCC, 0x4, 1, .ro, 0x0, 0x0⟩,
  ⟨0xD0, 0x4, 1, .ro, 0x0, 0x0⟩,
  ⟨0x100, 0x4, 12, .rws, 0x2134, 0xFFFF⟩,
  ⟨0x200, 0x4, 16, .ro, 0x0, 0xFFFFFFFF⟩]

/-- The register table of block SCHED. -/
def rowsSched : List RegRow := [
  ⟨0x0, 0x4, 1, .rws, 0x640000, 0xFFFF0001⟩,
  ⟨0x4, 0x4, 1, .ro, 0x0, 0xFFFF1FFF⟩,
  ⟨0x8, 0x4, 1, .wo, 0x0, 0xFFF⟩,
  ⟨0xC, 0x4, 1, .rws, 0x1, 0xFFFFFFFF⟩,
  ⟨0x10, 0x4, 1, .rws, 0x1, 0xFFFFFFFF⟩,
  ⟨0x14, 0x4, 1, .rws, 0xFFFF0000, 0xFFFF00F3⟩,
  ⟨0x18, 0x4, 1, .rws, 0x13F0000, 0xFFFFFFFF⟩,
  ⟨0x1C, 0x4, 1, .ro, 0x0, 0xFFFFFFFF⟩,
  ⟨0x20, 0x4, 1, .rw, 0x0, 0xFFFFF⟩,
  ⟨0x24, 0x4, 1, .ro, 0x0, 0xFFFFFFFF⟩,
  ⟨0x28, 0x4, 1, .ros, 0x0, 0x0⟩,
  ⟨0x2C, 0x4, 1, .wo, 0x0, 0xFFFFFFFF⟩,
  ⟨0x30, 0x4, 1, .ro, 0x0, 0xFFFFFFFF⟩,
  ⟨0x34, 0x4, 1, .ro, 0x0, 0xFFFFFFFF⟩,
  ⟨0x38, 0x4, 1, .ro, 0x0, 0xFFFFFFFF⟩,
  ⟨0x3C, 0x4, 1, .ro, 0x0, 0xFFFFFFFF⟩,
  ⟨0x40, 0x4, 1, .ro, 0x0, 0x7F⟩,
  ⟨0x80, 0x4, 1, .wo, 0x0, 0xFFFFFFFF⟩,
  ⟨0x84, 0x4, 1, .ro, 0x0, 0x7FFFF1F⟩,
  ⟨0x100, 0x40, 16, .rws, 0x1, 0x1⟩,
  ⟨0x104, 0x40, 16, .ro, 0x0, 0x0⟩,
  ⟨0x108, 0x40, 16, .rws, 0x601F700, 0xFFFFFFFF⟩,
  ⟨0x10C, 0x40, 16, .rws, 0x601B700, 0xFFFFFFFF⟩,
  ⟨0x110, 0x40, 16, .ro, 0x0, 0xFFFFFFFF⟩,
  ⟨0x114, 0x40, 16, .ro, 0x0, 0xFFFFFFFF⟩,
  ⟨0x118, 0x40, 16, .ro, 0x0, 0xFFFFFF⟩,
  ⟨0x11C, 0x40, 16, .ro, 0x0, 0xFFFFFF⟩,
  ⟨0x120, 0x40, 16, .ro, 0x0, 0xFFFFFFFF⟩,
  ⟨0x124, 0x40, 16, .ro, 0x0, 0xFFFFFFFF⟩,
  ⟨0x128, 0x40, 16, .ro, 0x0, 0xFFFFFFFF⟩,
  ⟨0x12C, 0x40, 16, .ro, 0x0, 0xFFFF0FFF⟩,
  ⟨0x200, 0x4, 64, .rw, 0x0, 0x1⟩,
  ⟨0x800, 0x4, 256, .rws, 0x1, 0x1⟩,
  ⟨0xC00, 0x4, 256, .ro, 0x0, 0xFFFFFFFF⟩,
  ⟨0x2000, 0x4, 4096, .rws, 0x0, 0xFFFFFF7F⟩,
  ⟨0x6000, 0x4, 4096, .rws, 0x0, 0xFFFFFFFE⟩,
  ⟨0xA000, 0x4, 4096, .ro, 0x1F4, 0xFFFFFFFF⟩]

/-- The register table of block LOOP. -/
def rowsLoop : List RegRow := [
  ⟨0x0, 0x30, 512, .rws, 0x0, 0x7C7F⟩,
  ⟨0x4, 0x30, 512, .rws, 0x0, 0x3FF03FF⟩,
  ⟨0x8, 0x30, 512, .rws, 0x0, 0xFFFF1FFF⟩,
  ⟨0xC, 0x30, 512, .ro, 0x0, 0xFFFFFFFF⟩,
  ⟨0x10, 0x30, 512, .rws, 0x0, 0xFFFFFFFF⟩,
  ⟨0x14, 0x30, 512, .ro, 0x0, 0xFFFFFFFF⟩,
  ⟨0x18, 0x30, 512, .ro, 0x0, 0xFFFFFFFF⟩,
  ⟨0x1C, 0x30, 512, .ro, 0x0, 0xFFFFFFFF⟩,
  ⟨0x20, 0x30, 512, .ro, 0x0, 0xFFFFFFFF⟩,
  ⟨0x24, 0x30, 512, .ro, 0x0, 0xFFFFFFFF⟩,
  ⟨0x28, 0x30, 512, .ros, 0x0, 0x0⟩,
  ⟨0x2C, 0x30, 512, .wo, 0x0, 0xFFFFFFFF⟩,
  ⟨0x6000, 0x20, 512, .rws, 0x0, 0xFFFFFFFF⟩,
  ⟨0x6004, 0x20, 512, .rws, 0x0, 0xFFFFFFFF⟩,
  ⟨0x6008, 0x20, 512, .rws, 0x0, 0xFFFFFFFF⟩,
  ⟨0x600C, 0x20, 512, .rws, 0x0, 0xFFFFFFFF⟩,
  ⟨0x6010, 0x20, 512, .rws, 0x0, 0xFFFFFFFF⟩,
  ⟨0x6014, 0x20, 512, .rws, 0x0, 0xFFFFFFFF⟩,
  ⟨0x6018, 0x20, 512, .rws, 0x7FFF8000, 0xFFFFFFFF⟩,
  ⟨0x601C, 0x20, 512, .rws, 0x7FFF8000, 0xFFFFFFFF⟩,
  ⟨0xA000, 0x20, 512, .rws, 0x0, 0xFFFFFFFF⟩,
  ⟨0xA004, 0x20, 512, .rws, 0x0, 0xFFFFFFFF⟩,
  ⟨0xA008, 0x20, 512, .rws, 0x0, 0xFFFFFFFF⟩,
  ⟨0xA00C, 0x20, 512, .rws, 0x0, 0xFFFFFFFF⟩,
  ⟨0xA010, 0x20, 512, .rws, 0x0, 0xFFFFFFFF⟩,
  ⟨0xA014, 0x20, 512, .rws, 0x0, 0xFFFFFFFF⟩,
  ⟨0xA018, 0x20, 512, .rws, 0x7FFF8000, 0xFFFFFFFF⟩,
  ⟨0xA01C, 0x20, 512, .rws, 0x7FFF8000, 0xFFFFFFFF⟩,
  ⟨0xE000, 0x40, 32, .ro, 0x0, 0xFFFF000F⟩,
  ⟨0xE004, 0x40, 32, .wo, 0x0, 0xFFFF⟩,
  ⟨0xE008, 0x40, 32, .ro, 0x0, 0xFFFFFFFF⟩,
  ⟨0xE00C, 0x40, 32, .ro, 0x0, 0xFFFFFFFF⟩,
  ⟨0xE010, 0x40, 32, .rws, 0x0, 0x30F⟩,
  ⟨0xE014, 0x40, 32, .rws, 0x0, 0xFFFFFFFF⟩,
  ⟨0xE018, 0x40, 32, .rws, 0x0, 0xFFFFFFFF⟩,
  ⟨0xE01C, 0x40, 32, .rws, 0x40000000, 0xFFFFFFFF⟩,
  ⟨0xE020, 0x40, 32, .rws, 0x13880042, 0xFFFF00FF⟩,
  ⟨0xE024, 0x40, 32, .ro, 0x0, 0xFFF7⟩,
  ⟨0xE028, 0x40, 32, .ro, 0x0, 0xFFFFFFFF⟩,
  ⟨0xE02C, 0x40, 32, .ro, 0x0, 0xFFFFFFFF⟩,
  ⟨0xE030, 0x40, 32, .ro, 0x0, 0xFFFFFFFF⟩,
  ⟨0xF000, 0x4, 1, .rws, 0x4B0, 0x1FFFF⟩,
  ⟨0xF004, 0x4, 1, .wo, 0x0, 0xFFFFFFFF⟩,
  ⟨0xF008, 0x4, 1, .ro, 0x0, 0xFFFFFFFF⟩,
  ⟨0xF00C, 0x4, 1, .ros, 0x0, 0x0⟩,
  ⟨0xF010, 0x4, 1, .wo, 0x0, 0x0⟩,
  ⟨0xF014, 0x4, 1, .ro, 0x0, 0xFFFFFFFF⟩,
  ⟨0xF018, 0x4, 1, .ro, 0x0, 0xFFFFFFFF⟩,
  ⟨0xF100, 0x10, 12, .rws, 0x20000, 0x303FF⟩,
  ⟨0xF104, 0x10, 12, .rws, 0x0, 0xFFFFFFF⟩,
  ⟨0xF108, 0x10, 12, .rws, 0x0, 0xFFFFFFF⟩,
  ⟨0xF10C, 0x10, 12, .rws, 0x0, 0x303FF⟩,
  ⟨0xF400, 0x4, 128, .rw, 0x0, 0xFFFFFFFF⟩]

/-- The register table of block ARM. -/
def rowsArm : List RegRow := [
  ⟨0x0, 0x100, 12, .rws, 0x4100402, 0xFFFF1F3F⟩,
  ⟨0x4, 0x100, 12, .rws, 0x0, 0xFFFF⟩,
  ⟨0x8, 0x100, 12, .rws, 0x100000, 0x7FFFFFFF⟩,
  ⟨0xC, 0x100, 12, .ro, 0x0, 0x7⟩,
  ⟨0x10, 0x100, 12, .ro, 0x0, 0xFFFFFFF⟩,
  ⟨0x14, 0x100, 12, .ro, 0x0, 0xFFFFFFFF⟩,
  ⟨0x18, 0x100, 12, .ro, 0x0, 0xFFFFFFFF⟩,
  ⟨0x1C, 0x100, 12, .ro, 0x0, 0xFFFFFFFF⟩,
  ⟨0x20, 0x100, 12, .ro, 0x0, 0xFFF0FFF⟩,
  ⟨0x24, 0x100, 12, .ro, 0x0, 0xFFF0FFF⟩,
  ⟨0x28, 0x100, 12, .ro, 0x0, 0xFFF003F⟩,
  ⟨0x2C, 0x100, 12, .ro, 0x0, 0xFFF1FFF⟩,
  ⟨0x30, 0x100, 12, .ros, 0x0, 0x0⟩,
  ⟨0x34, 0x100, 12, .wo, 0x0, 0xFFFFFFFF⟩,
  ⟨0x38, 0x100, 12, .ro, 0x0, 0xFFFFFFFF⟩,
  ⟨0x3C, 0x100, 12, .ro, 0x0, 0xFFFFFFFF⟩,
  ⟨0x40, 0x100, 12, .ro, 0x0, 0xFFF⟩,
  ⟨0x44, 0x100, 12, .rws, 0x0, 0x9FFE0000⟩,
  ⟨0x48, 0x100, 12, .rws, 0x0, 0x8FFFFFFF⟩,
  ⟨0x1000, 0x4, 1, .rw, 0x0, 0xF⟩,
  ⟨0x1004, 0x4, 1, .ro, 0x0, 0xFFFF⟩,
  ⟨0x1008, 0x4, 1, .wo, 0x0, 0xFFFFFFFF⟩,
  ⟨0x1100, 0x4, 64, .rws, 0x0, 0x3FFF⟩,
  ⟨0x2000, 0x4, 1024, .ro, 0x0, 0xFFF⟩]

/-- The register table of block RING. -/
def rowsRing : List RegRow := [
  ⟨0x0, 0x4, 1, .rws, 0x0, 0xFFFF⟩,
  ⟨0x4, 0x4, 1, .ro, 0x0, 0xFFFFFFFF⟩,
  ⟨0x8, 0x4, 1, .rws, 0xF, 0xF⟩,
  ⟨0xC, 0x4, 1, .wo, 0x0, 0x1⟩,
  ⟨0x10, 0x4, 1, .ros, 0x0, 0x1FF3F⟩,
  ⟨0x14, 0x4, 1, .ro, 0x0, 0x0⟩,
  ⟨0x18, 0x4, 1, .ro, 0x0, 0xFFFFFFFF⟩,
  ⟨0x20, 0x4, 1, .rws, 0x3, 0x7⟩,
  ⟨0x24, 0x4, 1, .rws, 0x19000064, 0xFFFFFFFF⟩,
  ⟨0x28, 0x4, 1, .ro, 0x0, 0xFFFF⟩,
  ⟨0x100, 0x4, 1, .rw, 0x0, 0xFFFFFFFF⟩,
  ⟨0x104, 0x4, 1, .rw, 0x0, 0x1FF⟩,
  ⟨0x108, 0x4, 1, .wo, 0x0, 0xFFFFFFFF⟩,
  ⟨0x10C, 0x4, 1, .ro, 0x0, 0xFFFFFF01⟩,
  ⟨0x400, 0x4, 128, .rw, 0x0, 0xFFFFFFFF⟩,
  ⟨0x1000, 0x100, 16, .rws, 0x100, 0x83FF01FF⟩,
  ⟨0x1004, 0x100, 16, .rws, 0x0, 0xFFFF⟩,
  ⟨0x1008, 0x100, 16, .ro, 0x0, 0x0⟩,
  ⟨0x100C, 0x100, 16, .ro, 0xFFFFFF, 0xFFFFFF⟩,
  ⟨0x1010, 0x100, 16, .ro, 0xFFFFFF, 0xFFFFFF⟩,
  ⟨0x1014, 0x100, 16, .ro, 0x0, 0xFFFFFF⟩,
  ⟨0x1018, 0x100, 16, .ro, 0x0, 0xFFFFFF⟩,
  ⟨0x101C, 0x100, 16, .ro, 0x0, 0x0⟩,
  ⟨0x1020, 0x100, 16, .ro, 0x0, 0x3FFFF⟩,
  ⟨0x1024, 0x100, 16, .ros, 0x0, 0x0⟩,
  ⟨0x1028, 0x100, 16, .wo, 0x0, 0xFFFFFFFF⟩,
  ⟨0x102C, 0x100, 16, .ro, 0x0, 0xFFFFFFFF⟩,
  ⟨0x1030, 0x100, 16, .ro, 0x0, 0xFFFFFFFF⟩,
  ⟨0x1034, 0x100, 16, .ro, 0x0, 0xFFFFFFFF⟩,
  ⟨0x1038, 0x100, 16, .rws, 0x0, 0x3⟩,
  ⟨0x103C, 0x100, 16, .ro, 0x0, 0xFFFFFFFF⟩]

/-- The register table of block LANE. -/
def rowsLane : List RegRow := [
  ⟨0x0, 0x4, 1, .ro, 0x0, 0x7FF⟩,
  ⟨0x4, 0x4, 1, .rws, 0x0, 0xF⟩,
  ⟨0x8, 0x4, 1, .rws, 0x10A0C, 0xFFFFFF⟩,
  ⟨0xC, 0x4, 1, .rws, 0x3E80064, 0xFFFFFFFF⟩,
  ⟨0x10, 0x4, 1, .rws, 0x0, 0x1F⟩,
  ⟨0x14, 0x4, 1, .ro, 0x0, 0x1FFFF⟩,
  ⟨0x1000, 0x100, 40, .rws, 0x0, 0xFF⟩,
  ⟨0x1004, 0x100, 40, .rws, 0x1B80, 0x7FFF⟩,
  ⟨0x1008, 0x100, 40, .rws, 0x112001, 0xFFFF7F⟩,
  ⟨0x100C, 0x100, 40, .ro, 0x0, 0x0⟩,
  ⟨0x1010, 0x100, 40, .ro, 0x0, 0x3F3F3F1F⟩,
  ⟨0x1014, 0x100, 40, .ro, 0x0, 0x3F3F⟩,
  ⟨0x1018, 0x100, 40, .ro, 0x0, 0xFFFFFFFF⟩,
  ⟨0x101C, 0x100, 40, .ro, 0x0, 0xFFFFFFFF⟩,
  ⟨0x1020, 0x100, 40, .ro, 0x0, 0xFFFFFFFF⟩,
  ⟨0x1024, 0x100, 40, .rws, 0xF0, 0xF⟩,
  ⟨0x1028, 0x100, 40, .ro, 0x0, 0xFFF⟩,
  ⟨0x102C, 0x100, 40, .ros, 0x0, 0x0⟩,
  ⟨0x1030, 0x100, 40, .wo, 0x0, 0xFFFFFFFF⟩,
  ⟨0x1034, 0x100, 40, .ro, 0x0, 0xFFFFFFFF⟩,
  ⟨0x1038, 0x100, 40, .ro, 0x0, 0xFFFFFFFF⟩,
  ⟨0x103C, 0x100, 40, .ro, 0x0, 0xFFFFFFFF⟩]

/-- The register table of block ADC. -/
def rowsAdc : List RegRow := [
  ⟨0x0, 0x4, 1, .rws, 0x0, 0xFFFF⟩,
  ⟨0x4, 0x4, 1, .rws, 0x4012, 0xFFFFFFF3⟩,
  ⟨0x8, 0x4, 1, .rws, 0x100000, 0xFFFFFF⟩,
  ⟨0xC, 0x4, 1, .ro, 0x0, 0x0⟩,
  ⟨0x10, 0x4, 1, .wo, 0x0, 0x1F03⟩,
  ⟨0x14, 0x4, 1, .ro, 0x0, 0x1F07⟩,
  ⟨0x18, 0x4, 1, .wo, 0x0, 0xFFFF⟩,
  ⟨0x1C, 0x4, 1, .ro, 0x0, 0xFFFF⟩,
  ⟨0x20, 0x4, 1, .w1c, 0x0, 0xFFFF⟩,
  ⟨0x24, 0x4, 1, .w1c, 0x0, 0xFFFF⟩,
  ⟨0x28, 0x4, 1, .ros, 0x0, 0xFFFFFFFF⟩,
  ⟨0x2C, 0x4, 1, .wo, 0x0, 0xFFFFFFFF⟩,
  ⟨0x30, 0x4, 1, .ros, 0x0, 0x0⟩,
  ⟨0x34, 0x4, 1, .wo, 0x0, 0xFFFFFFFF⟩,
  ⟨0x38, 0x4, 1, .ro, 0x0, 0xFFFFFFFF⟩,
  ⟨0x3C, 0x4, 1, .ro, 0x0, 0xFFFFFF⟩,
  ⟨0x40, 0x4, 1, .ro, 0x0, 0xFFFFFFFF⟩,
  ⟨0x44, 0x4, 1, .rw, 0x0, 0x1FF⟩,
  ⟨0x48, 0x4, 1, .w1c, 0x0, 0x1FF⟩,
  ⟨0x1000, 0x40, 16, .rws, 0x0, 0x7⟩,
  ⟨0x1004, 0x40, 16, .rws, 0x0, 0xFFFF⟩,
  ⟨0x1008, 0x40, 16, .ro, 0x0, 0xFFFFFF⟩,
  ⟨0x100C, 0x40, 16, .ro, 0x0, 0x1FFFFF⟩,
  ⟨0x1010, 0x40, 16, .ro, 0x0, 0x3FFFFF⟩,
  ⟨0x1014, 0x40, 16, .ro, 0x0, 0x3FFFFFFF⟩,
  ⟨0x1018, 0x40, 16, .rws, 0x2000000, 0xFFFFFFFF⟩,
  ⟨0x101C, 0x40, 16, .rws, 0x0, 0x1F⟩,
  ⟨0x1020, 0x40, 16, .ro, 0x0, 0xFFFFFFFF⟩,
  ⟨0x1024, 0x40, 16, .rw, 0x0, 0xFFFFF⟩,
  ⟨0x1028, 0x40, 16, .ro, 0x0, 0xFFFFFFFF⟩,
  ⟨0x3000, 0x20, 18, .rws, 0x0, 0xFFFF⟩,
  ⟨0x3004, 0x20, 18, .rws, 0x8000, 0xFFFF⟩,
  ⟨0x3008, 0x20, 18, .ro, 0x2, 0x0⟩,
  ⟨0x300C, 0x20, 18, .ro, 0x0, 0x0⟩]

/-- The register table of block ACQ. -/
def rowsAcq : List RegRow := [
  ⟨0x0, 0x4, 1, .rws, 0x0, 0x1⟩,
  ⟨0x4, 0x4, 1, .ro, 0x0, 0xFFFFFFFF⟩,
  ⟨0x8, 0x4, 1, .ros, 0x0, 0x0⟩,
  ⟨0xC, 0x4, 1, .wo, 0x0, 0xFFFFFFFF⟩,
  ⟨0x10, 0x4, 1, .rw, 0x0, 0xFF⟩,
  ⟨0x14, 0x4, 1, .w1c, 0x0, 0xFF⟩,
  ⟨0x18, 0x4, 1, .ro, 0x0, 0xFFFFFFFF⟩,
  ⟨0x1C, 0x4, 1, .ro, 0x0, 0xFFFF000F⟩,
  ⟨0x20, 0x4, 1, .ro, 0x0, 0xFFFF001F⟩,
  ⟨0x100, 0x10, 8, .rws, 0x0, 0x1FFFFF⟩,
  ⟨0x104, 0x10, 8, .rws, 0x0, 0xFFFFFF⟩,
  ⟨0x108, 0x10, 8, .ro, 0x0, 0x7FFFF⟩,
  ⟨0x200, 0x20, 16, .rws, 0x0, 0xFFF⟩,
  ⟨0x204, 0x20, 16, .rws, 0x0, 0xFFFF⟩,
  ⟨0x208, 0x20, 16, .rws, 0x10, 0x7FFF⟩,
  ⟨0x20C, 0x20, 16, .ro, 0x0, 0x7⟩,
  ⟨0x210, 0x20, 16, .ro, 0x0, 0xFFFFFFFF⟩,
  ⟨0x600, 0x40, 16, .rws, 0x0, 0x7F⟩,
  ⟨0x604, 0x40, 16, .rws, 0x2000000, 0xFFFFFFFF⟩,
  ⟨0x608, 0x40, 16, .rws, 0x0, 0xFFFFF⟩,
  ⟨0x60C, 0x40, 16, .rws, 0x1, 0x3FFFFF⟩,
  ⟨0x610, 0x40, 16, .rws, 0x0, 0xFFFFFF⟩,
  ⟨0x614, 0x40, 16, .rws, 0x10000, 0x7FF03FF⟩,
  ⟨0x618, 0x40, 16, .ro, 0x0, 0xFFFFFFFF⟩,
  ⟨0x61C, 0x40, 16, .ro, 0x0, 0x3FFF⟩,
  ⟨0x620, 0x40, 16, .wo, 0x0, 0x3FF⟩,
  ⟨0x624, 0x40, 16, .ro, 0x3FF, 0x3FF⟩,
  ⟨0x628, 0x40, 16, .ro, 0x0, 0xFFFFFFFF⟩,
  ⟨0xA00, 0x4, 64, .ro, 0x0, 0xFFFFFFFF⟩,
  ⟨0xC00, 0x4, 1, .rws, 0x0, 0x1FFF⟩,
  ⟨0xC04, 0x4, 1, .rws, 0x0, 0xFFFFFFFF⟩,
  ⟨0xC08, 0x4, 1, .rws, 0x0, 0xFFFFFFFF⟩,
  ⟨0xC0C, 0x4, 1, .rws, 0x32, 0xFFFF⟩,
  ⟨0xC10, 0x4, 1, .rws, 0x0, 0x7FFF7FFF⟩,
  ⟨0xC14, 0x4, 1, .rws, 0x3E8, 0xFFFFFFFF⟩,
  ⟨0xC18, 0x4, 1, .ro, 0x0, 0x0⟩,
  ⟨0xC20, 0x4, 4, .ro, 0x0, 0xFFFFFFFF⟩,
  ⟨0xC30, 0x4, 4, .ro, 0x0, 0xFFFFFFFF⟩,
  ⟨0xC40, 0x4, 4, .ro, 0x0, 0xFFFFFFFF⟩,
  ⟨0xC50, 0x4, 4, .rw, 0x0, 0xFFFFFFFF⟩,
  ⟨0xC60, 0x4, 1, .ro, 0x0, 0xFFFFFFFF⟩]

/-- The register table of block GRID. -/
def rowsGrid : List RegRow := [
  ⟨0x0, 0x4, 1, .ros, 0x0, 0xF⟩,
  ⟨0x4, 0x4, 1, .wo, 0x0, 0xFFFFFFFF⟩,
  ⟨0x8, 0x4, 1, .rw, 0x0, 0xFF⟩,
  ⟨0xC, 0x4, 1, .w1c, 0x0, 0xFF⟩,
  ⟨0x10, 0x4, 1, .ro, 0x0, 0xFFFF003F⟩,
  ⟨0x40, 0x4, 16, .ro, 0x0, 0xFFFFFFFF⟩,
  ⟨0x100, 0x40, 4, .rws, 0x0, 0x77FFFF⟩,
  ⟨0x104, 0x40, 4, .rws, 0x14, 0x7F⟩,
  ⟨0x108, 0x40, 4, .rws, 0xB60666, 0xFFFFFFFF⟩,
  ⟨0x10C, 0x40, 4, .ro, 0x0, 0x0⟩,
  ⟨0x110, 0x40, 4, .ro, 0x0, 0xFFFFFFFF⟩,
  ⟨0x114, 0x40, 4, .ro, 0x0, 0xFFFFFFFF⟩,
  ⟨0x118, 0x40, 4, .ro, 0x0, 0xFFFFFFFF⟩,
  ⟨0x11C, 0x40, 4, .ro, 0x0, 0xFFFFFFFF⟩,
  ⟨0x120, 0x40, 4, .ro, 0x0, 0xFFFFFFFF⟩,
  ⟨0x124, 0x40, 4, .ro, 0x0, 0xFFFFFFFF⟩,
  ⟨0x400, 0x20, 8, .rws, 0x640000, 0xFFFF003F⟩,
  ⟨0x404, 0x20, 8, .rws, 0x0, 0xFFFFFF⟩,
  ⟨0x408, 0x20, 8, .ro, 0x0, 0xFFFFFFFF⟩,
  ⟨0x40C, 0x20, 8, .ro, 0x0, 0x7FFF⟩,
  ⟨0x410, 0x20, 8, .ro, 0x0, 0x3FFFFFFF⟩,
  ⟨0x414, 0x20, 8, .ro, 0x0, 0xFFFFFFFF⟩,
  ⟨0x418, 0x20, 8, .ro, 0x0, 0xFFFFFFFF⟩,
  ⟨0x600, 0x10, 4, .rws, 0x0, 0x3FFF⟩,
  ⟨0x604, 0x10, 4, .ro, 0x0, 0xFFFFFFFF⟩]

/-- The register table of block HOST. -/
def rowsHost : List RegRow := [
  ⟨0x0, 0x4, 1, .rws, 0x88B5, 0xFFFF⟩,
  ⟨0x4, 0x4, 1, .rws, 0x186A0, 0xFFFFFF⟩,
  ⟨0x8, 0x4, 1, .rws, 0x3E8, 0xFFFF⟩,
  ⟨0xC, 0x4, 1, .ro, 0x0, 0x3FF⟩,
  ⟨0x10, 0x4, 1, .ro, 0x0, 0xFFFFFFFF⟩,
  ⟨0x14, 0x4, 1, .ro, 0x0, 0xFFFFFFFF⟩,
  ⟨0x18, 0x4, 1, .ro, 0x0, 0xFFF003F⟩,
  ⟨0x1C, 0x4, 1, .ro, 0x0, 0x0⟩,
  ⟨0x20, 0x4, 1, .ro, 0x0, 0xFFFF000F⟩,
  ⟨0x24, 0x4, 1, .ros, 0x0, 0x0⟩,
  ⟨0x28, 0x4, 1, .wo, 0x0, 0xFFFFFFFF⟩,
  ⟨0x2C, 0x4, 1, .rw, 0x0, 0x7F⟩,
  ⟨0x30, 0x4, 1, .w1c, 0x0, 0x7F⟩,
  ⟨0x34, 0x4, 1, .ro, 0x0, 0xFFFFFFFF⟩,
  ⟨0x100, 0x40, 4, .rws, 0x0, 0x1F⟩,
  ⟨0x104, 0x40, 4, .rws, 0x0, 0xFFFFFFFF⟩,
  ⟨0x108, 0x40, 4, .rws, 0x0, 0xFFFF⟩,
  ⟨0x10C, 0x40, 4, .rws, 0x0, 0xFFFF⟩,
  ⟨0x110, 0x40, 4, .rws, 0x0, 0xFFFF⟩,
  ⟨0x114, 0x40, 4, .ro, 0x0, 0x1FFFF07⟩,
  ⟨0x118, 0x40, 4, .ro, 0x0, 0xFFFFFFFF⟩,
  ⟨0x11C, 0x40, 4, .ro, 0x0, 0xFFFFFFFF⟩,
  ⟨0x120, 0x40, 4, .ro, 0x0, 0xFFFFFFFF⟩,
  ⟨0x124, 0x40, 4, .ro, 0x0, 0x1FFF⟩,
  ⟨0x128, 0x40, 4, .wo, 0x0, 0xFFFFFFFF⟩,
  ⟨0x12C, 0x40, 4, .wo, 0x0, 0x7FF⟩,
  ⟨0x130, 0x40, 4, .ro, 0x0, 0xFFFF⟩,
  ⟨0x1000, 0x4, 1024, .ro, 0x0, 0xFFFFFFFF⟩,
  ⟨0x2000, 0x4, 1024, .rw, 0x0, 0xFFFFFFFF⟩]

/-- The register table of block PEER. -/
def rowsPeer : List RegRow := [
  ⟨0x0, 0x4, 1, .rws, 0x36A00, 0xFFF00⟩,
  ⟨0x4, 0x4, 1, .ro, 0x0, 0x0⟩,
  ⟨0x8, 0x4, 1, .ro, 0x0, 0xFFFFFFFF⟩,
  ⟨0xC, 0x4, 1, .ro, 0x0, 0xFFFFFFFF⟩,
  ⟨0x10, 0x4, 1, .ro, 0x0, 0xFFF0FFF⟩,
  ⟨0x14, 0x4, 1, .ro, 0x0, 0xFFFFFFFF⟩,
  ⟨0x18, 0x4, 1, .ro, 0x0, 0xFFFFFFFF⟩,
  ⟨0x1C, 0x4, 1, .ro, 0x0, 0xFFFFFFFF⟩,
  ⟨0x20, 0x4, 1, .ro, 0x0, 0x0⟩,
  ⟨0x24, 0x4, 1, .ro, 0x0, 0x0⟩,
  ⟨0x28, 0x4, 1, .ro, 0x0, 0xFFFFFFFF⟩,
  ⟨0x2C, 0x4, 1, .ros, 0x0, 0x0⟩,
  ⟨0x30, 0x4, 1, .wo, 0x0, 0xFFFFFFFF⟩]

/-- The register table of block BOOT. -/
def rowsBoot : List RegRow := [
  ⟨0x0, 0x4, 1, .ro, 0x3, 0x0⟩,
  ⟨0x4, 0x4, 1, .ro, 0x0, 0xFFFFFFFF⟩,
  ⟨0x8, 0x4, 1, .ro, 0x0, 0xFFFFFFFF⟩,
  ⟨0xC, 0x4, 1, .rws, 0x0, 0x3⟩,
  ⟨0x10, 0x4, 1, .ro, 0x0, 0xF13F⟩,
  ⟨0x14, 0x4, 1, .ro, 0x0, 0xFF03FFFF⟩,
  ⟨0x18, 0x4, 1, .ro, 0x0, 0x10FFF⟩,
  ⟨0x1C, 0x4, 1, .ro, 0x0, 0xFFFFFF⟩,
  ⟨0x20, 0x4, 1, .ro, 0x0, 0xFFFFFF⟩,
  ⟨0x24, 0x4, 1, .ro, 0x0, 0xFFFFFFFF⟩,
  ⟨0x28, 0x4, 1, .wo, 0x0, 0xFFF⟩,
  ⟨0x2C, 0x4, 1, .ro, 0x0, 0xFFFFFFF3⟩]

/-- The register table of block CN_SYS, at word addresses. -/
def rowsCnSys : List RegRow := [
  ⟨0x0, 0x1, 1, .ro, 0xA10C02, 0xFFFFFF⟩,
  ⟨0x1, 0x1, 1, .ro, 0x0, 0x3FFFF⟩,
  ⟨0x2, 0x1, 1, .ro, 0x18, 0x0⟩,
  ⟨0x3, 0x1, 1, .ro, 0x0, 0xF⟩,
  ⟨0x4, 0x1, 1, .ro, 0x0, 0x7⟩,
  ⟨0x5, 0x1, 1, .ro, 0x0, 0xFFFFFFFF⟩,
  ⟨0x6, 0x1, 1, .ro, 0x0, 0xFFFFFFFF⟩]

/-- The register table of block CN_TIME, at word addresses. -/
def rowsCnTime : List RegRow := [
  ⟨0x400, 0x1, 1, .ro, 0x0, 0xFFFFFFFF⟩,
  ⟨0x401, 0x1, 1, .ro, 0x0, 0xFFFFFFFF⟩,
  ⟨0x402, 0x1, 1, .ro, 0x0, 0xFFFFFF⟩,
  ⟨0x403, 0x1, 1, .ro, 0x0, 0xFFFFFFFF⟩,
  ⟨0x404, 0x1, 1, .ro, 0x0, 0xFFFFFFFF⟩,
  ⟨0x405, 0x1, 1, .ro, 0x4, 0xFFFFFFFF⟩,
  ⟨0x406, 0x1, 1, .ro, 0x0, 0x0⟩,
  ⟨0x407, 0x1, 1, .rws, 0x14141083, 0xFFFFFFFF⟩,
  ⟨0x408, 0x1, 1, .rws, 0x64, 0xFFFF⟩,
  ⟨0x409, 0x1, 1, .ro, 0x0, 0xFFFFFF⟩,
  ⟨0x40A, 0x1, 1, .ro, 0x0, 0xFFFFFF⟩,
  ⟨0x40B, 0x1, 1, .ro, 0x0, 0xFFFFFF⟩,
  ⟨0x40C, 0x1, 1, .ro, 0x0, 0xFFFFFFFF⟩,
  ⟨0x40D, 0x1, 1, .ro, 0x0, 0xFFFFFFFF⟩,
  ⟨0x40E, 0x1, 1, .ro, 0x0, 0xFFFFFFFF⟩,
  ⟨0x40F, 0x1, 1, .ro, 0x0, 0xFFFFFFFF⟩,
  ⟨0x410, 0x1, 1, .rws, 0x0, 0xFFFF⟩,
  ⟨0x411, 0x1, 1, .rws, 0x3, 0xF⟩,
  ⟨0x412, 0x1, 1, .rws, 0x3E8, 0xFFF⟩,
  ⟨0x413, 0x1, 1, .rws, 0x2134, 0xFFFF⟩,
  ⟨0x414, 0x1, 1, .rws, 0x0, 0xFFFFFFFF⟩,
  ⟨0x415, 0x1, 1, .ro, 0x0, 0xFFFFFFFF⟩,
  ⟨0x416, 0x1, 1, .ro, 0x0, 0xFFFFFFFF⟩,
  ⟨0x417, 0x1, 1, .ro, 0x0, 0x3FF⟩,
  ⟨0x418, 0x1, 1, .ro, 0x0, 0xFFF⟩,
  ⟨0x419, 0x1, 1, .ros, 0x0, 0x0⟩,
  ⟨0x41A, 0x1, 1, .wo, 0x0, 0xFFFFFFFF⟩]

/-- The register table of block CN_SW, at word addresses. -/
def rowsCnSw : List RegRow := [
  ⟨0x800, 0x1, 1, .rws, 0x0, 0x1F⟩,
  ⟨0x801, 0x1, 1, .rws, 0x3E80, 0x7FFF⟩,
  ⟨0x802, 0x1, 1, .rws, 0x12C0, 0x1FFFF⟩,
  ⟨0x803, 0x1, 1, .rws, 0x7D0, 0x1FFFF⟩,
  ⟨0x804, 0x1, 1, .rws, 0x10, 0xFF⟩,
  ⟨0x805, 0x1, 1, .ro, 0x0, 0x30000⟩,
  ⟨0x806, 0x1, 1, .rws, 0x0, 0x3⟩,
  ⟨0x807, 0x1, 1, .rws, 0x0, 0xFFFF⟩,
  ⟨0x808, 0x1, 1, .wo, 0x0, 0xFFFFFFFF⟩,
  ⟨0x809, 0x1, 1, .rws, 0x0, 0x1⟩,
  ⟨0x80A, 0x1, 1, .ro, 0x0, 0x30000⟩,
  ⟨0x80B, 0x1, 1, .ros, 0x0, 0x3F⟩,
  ⟨0x80C, 0x1, 1, .wo, 0x0, 0xFFFFFFFF⟩,
  ⟨0x80D, 0x1, 1, .ro, 0x0, 0xFFFFFFFF⟩,
  ⟨0x80E, 0x1, 1, .ro, 0x0, 0xFFFFFFFF⟩,
  ⟨0x80F, 0x1, 1, .ro, 0x0, 0xFFFFFFFF⟩,
  ⟨0x810, 0x1, 1, .ro, 0x0, 0xFFFFFFFF⟩,
  ⟨0x811, 0x1, 1, .ro, 0x0, 0xFFFFFFFF⟩,
  ⟨0x812, 0x1, 1, .ro, 0x0, 0xFFFFFFFF⟩,
  ⟨0x813, 0x1, 1, .rw, 0x0, 0x3⟩,
  ⟨0x814, 0x1, 1, .rw, 0x0, 0xFFFFFFFF⟩]

/-- The register table of block CN_ADC, at word addresses. -/
def rowsCnAdc : List RegRow := [
  ⟨0xC00, 0x1, 1, .rws, 0x40000000, 0xFFFF3FFF⟩,
  ⟨0xC01, 0x1, 1, .ro, 0x0, 0x7FFF⟩,
  ⟨0xC02, 0x1, 1, .ro, 0x0, 0xFF0003FF⟩,
  ⟨0xC03, 0x1, 4, .ro, 0x0, 0x3FFF⟩,
  ⟨0xC07, 0x1, 1, .wo, 0x0, 0xFFFFFFFF⟩,
  ⟨0xC08, 0x1, 1, .ros, 0x0, 0xF⟩]

/-- The register table of block CN_PROT, at word addresses. -/
def rowsCnProt : List RegRow := [
  ⟨0x1000, 0x1, 1, .rws, 0x28040A32, 0x3FFFFFFF⟩,
  ⟨0x1001, 0x1, 1, .rws, 0x9C4, 0xFFFF⟩,
  ⟨0x1002, 0x1, 1, .rws, 0x3FFF3FFF, 0x3FFF3FFF⟩,
  ⟨0x1003, 0x1, 1, .rws, 0x0, 0x3FFF⟩,
  ⟨0x1004, 0x1, 1, .rws, 0x3FFF3FFF, 0x3FFF3FFF⟩,
  ⟨0x1005, 0x1, 1, .rws, 0x0, 0x3FFF⟩,
  ⟨0x1006, 0x1, 1, .rws, 0x3E80, 0x3FF7FFF⟩,
  ⟨0x1007, 0x1, 1, .ros, 0x0, 0x0⟩,
  ⟨0x1008, 0x1, 1, .wo, 0x0, 0x3⟩,
  ⟨0x1009, 0x1, 1, .rws, 0x0, 0x3FF0001⟩,
  ⟨0x100A, 0x1, 1, .ro, 0x0, 0xFFFFFFFF⟩]

/-- The register table of block CN_LANE, at word addresses. -/
def rowsCnLane : List RegRow := [
  ⟨0x1400, 0x1, 1, .ro, 0x1FF, 0x3FF⟩,
  ⟨0x1401, 0x1, 1, .ro, 0x0, 0x3F⟩,
  ⟨0x1402, 0x1, 1, .rw, 0x0, 0xFFFFFFFF⟩,
  ⟨0x1403, 0x1, 1, .rw, 0x0, 0x3⟩,
  ⟨0x1404, 0x1, 1, .ro, 0x0, 0xFFFFFFFF⟩,
  ⟨0x1405, 0x1, 1, .ro, 0x0, 0xFFFFFFFF⟩,
  ⟨0x1406, 0x1, 1, .ro, 0x0, 0xFFFF⟩,
  ⟨0x1407, 0x1, 1, .ro, 0x0, 0xFFFFFFFF⟩,
  ⟨0x1500, 0x40, 2, .rws, 0x1, 0xFE⟩,
  ⟨0x1501, 0x40, 2, .rws, 0x1B80, 0x7FFF⟩,
  ⟨0x1502, 0x40, 2, .rws, 0x112001, 0xFFFF7F⟩,
  ⟨0x1503, 0x40, 2, .ro, 0x0, 0xFFFFFFFF⟩,
  ⟨0x1504, 0x40, 2, .ro, 0x0, 0xFFFFFFFF⟩,
  ⟨0x1505, 0x40, 2, .ro, 0x0, 0xFFFFFFFF⟩,
  ⟨0x1506, 0x40, 2, .ro, 0x0, 0xFFFFFFFF⟩,
  ⟨0x1507, 0x40, 2, .ro, 0x0, 0xFFFFFFFF⟩,
  ⟨0x1508, 0x40, 2, .ro, 0x0, 0xFFFFFFFF⟩,
  ⟨0x1509, 0x40, 2, .ro, 0x0, 0xFFFFFFFF⟩,
  ⟨0x150A, 0x40, 2, .ro, 0x0, 0xFFF⟩,
  ⟨0x150B, 0x40, 2, .ros, 0x0, 0xFFFFFFFF⟩,
  ⟨0x150C, 0x40, 2, .wo, 0x0, 0xFFFFFFFF⟩,
  ⟨0x150D, 0x40, 2, .ro, 0x0, 0xFFFFFFFF⟩,
  ⟨0x150E, 0x40, 2, .ro, 0x0, 0xFFFFFFFF⟩,
  ⟨0x150F, 0x40, 2, .ro, 0x0, 0xFFFFFFFF⟩,
  ⟨0x1580, 0x1, 1, .ro, 0x0, 0xFF03⟩,
  ⟨0x1581, 0x1, 1, .rws, 0x10A0C, 0xFFFFFF⟩,
  ⟨0x1582, 0x1, 1, .rws, 0x3E80000, 0xFFFF0000⟩]

/-- The register table of block CN_HK, at word addresses. -/
def rowsCnHk : List RegRow := [
  ⟨0x1800, 0x1, 1, .rws, 0x0, 0x3⟩,
  ⟨0x1801, 0x1, 1, .ro, 0x0, 0xFF01⟩,
  ⟨0x1802, 0x1, 1, .ro, 0x0, 0xFFFFFFFF⟩,
  ⟨0x1810, 0x1, 8, .rw, 0x0, 0xFFFFFFFF⟩,
  ⟨0x1818, 0x1, 8, .rw, 0x0, 0xFFFFFFFF⟩]

/-- The fault registers that every block holds (R9, R399). -/
def rowsFlt : List RegRow := [
  ⟨0xFF00, 4, 1, .ro, 0, 0⟩,
  ⟨0xFF04, 4, 4, .ro, 0, 0⟩,
  ⟨0xFF14, 4, 1, .wo, 0, 0x7⟩]

/-- The register tables of the VP by block number (R37). -/
def blockRows (b : Nat) : List RegRow :=
  match b with
  | 0 => rowsSys
  | 1 => rowsClk
  | 2 => rowsTime
  | 3 => rowsSched
  | 4 => rowsLoop
  | 5 => rowsArm
  | 6 => rowsRing
  | 7 => rowsLane
  | 8 => rowsAdc
  | 9 => rowsAcq
  | 10 => rowsGrid
  | 11 => rowsHost
  | 12 => rowsPeer
  | 13 => rowsBoot
  | _ => []

/-- Does the row describe offset `o`? -/
def RegRow.hits (r : RegRow) (o : Nat) : Bool :=
  decide (r.off ≤ o) && (o - r.off) % r.stride == 0 && decide ((o - r.off) / r.stride < r.cnt)

/-- The row of VP byte address `a`, if a register is defined there (R6, R9, R37). -/
def regRow (a : Nat) : Option RegRow :=
  if a / 0x100000 = 0x100 then
    let b := a / 0x10000 % 16
    let o := a % 0x10000
    if 0xFF00 ≤ o then (if b = 14 then none else rowsFlt.find? (·.hits o)) else (blockRows b).find? (·.hits o)
  else none

/-- The reset value of the VP register at `a`; 0 where no register is defined (R6). -/
def regReset (a : Nat) : Word :=
  match regRow a with
  | some r => BitVec.ofNat 32 r.reset
  | none => 0

/-- The row of CN word address `a` (R114). -/
def cnRow (a : Nat) : Option RegRow :=
  match a / 0x400 with
  | 0 => rowsCnSys.find? (·.hits a)
  | 1 => rowsCnTime.find? (·.hits a)
  | 2 => rowsCnSw.find? (·.hits a)
  | 3 => rowsCnAdc.find? (·.hits a)
  | 4 => rowsCnProt.find? (·.hits a)
  | 5 => rowsCnLane.find? (·.hits a)
  | 6 => rowsCnHk.find? (·.hits a)
  | _ => none

/-- The reset value of the CN register at word address `a`. -/
def cnReset (a : Nat) : Word :=
  match cnRow a with
  | some r => BitVec.ofNat 32 r.reset
  | none => 0

end Sys2Proof.Machine
end

