-- ==== Sys2Proof/Machine/Parts.lean ====
section
/-!
DEFINITION. The parts of the state as plain data.
-/

namespace Sys2Proof.Machine

/-- An input that waits to be taken by the parts of the VP that act on events (R270, R396, R409). -/
inductive Input where
  /-- A fatal fault removes instance `inst` of block `blk` (R396, R407). -/
  | removal (blk inst : Nat)
  /-- A device-level fatal fault in block `blk` against `inst` (R409). -/
  | deviceFatal (blk inst : Nat)
  /-- Core `k` completes its top item (R275). -/
  | complete (k : Nat)
  /-- Core `k` may take a ready item (R272). -/
  | take (k : Nat)
  /-- Event source `n` occurs (R266). -/
  | event (n : Nat)
  /-- Core `k`, 16 for the MC, posts item `w` directly (R268). -/
  | post (k w : Nat)
  /-- Port `p` has lost event entries (R386, R394). -/
  | hostLost (p : Nat)
  deriving DecidableEq, Repr

/-- The registers of a control core as the hardware sets and saves them (R274, R276). -/
structure Ctx where
  pc : Word := 0
  x : List Word := []
  f : List Word := []
  fcsr : Word := 0
  deriving DecidableEq, Repr

/-- The post that readied an item (R274). -/
structure PostInfo where
  ev : Nat := 0
  src : Nat := 0
  frame : Nat := 0
  deriving DecidableEq, Repr

/-- The scheduler's state beside its registers (R263 to R284). -/
structure Sched where
  /-- Ready items in the order in which they joined their lists. -/
  ready : List Nat := []
  /-- Per core, the items on its stack, top first. -/
  coreStack : List (Nat × List Nat) := []
  /-- Per core, its registers as last set by the hardware. -/
  cpu : List (Nat × Ctx) := []
  /-- Per item, the post that readied it. -/
  info : List (Nat × PostInfo) := []
  /-- Per item, the event of the post that set PEND. -/
  pendEv : List (Nat × Nat) := []
  /-- Per item, posts merged into the coming run (R269). -/
  merged : List (Nat × Nat) := []
  /-- Per item, boundaries since its dispatch (R279). -/
  wdog : List (Nat × Nat) := []
  /-- Items at an overrun boundary that has not been dealt with (R279). -/
  wdogDue : List Nat := []
  /-- Cores halted by the debug port, one bit each (R261). -/
  halted : Nat := 0
  /-- Cores removed, one bit each (R281). -/
  removed : Nat := 0
  /-- Items for which NO_CORE has been raised (R287). -/
  noCore : List Nat := []
  /-- Wake records lost since the last record written, and those put to the writer's queue in the tick `burstAt`
  (R284). -/
  lost : Nat := 0
  burst : Nat := 0
  burstAt : Nat := 0
  /-- Per core, ns not idle in the frame so far (R286). -/
  busy : List (Nat × Nat) := []
  /-- The test-and-set locks, one bit each (R262). -/
  locks : Nat := 0
  deriving DecidableEq, Repr

/-- One conversion of a channel before the factors are applied (R292, R303): the raw output of the slice that serves the
channel, whether it reached its limit, and whether that slice is the moon; in a crossfade (`k` from 1 to 768) also the raw
output of the incoming slice. -/
structure RawConv where
  raw : Int
  limit : Bool
  moon : Bool := false
  k : Nat := 0
  rawIn : Int := 0
  limitIn : Bool := false
  deriving DecidableEq, Repr

/-- One analogue input as the loop engines see it at I_n (R235, R237): the latest code, its over-range bit, and the sum
and number of the conversions since the last latch. -/
structure AinSample where
  code : Int
  ovr : Bool
  sum : Int
  n : Nat
  deriving DecidableEq, Repr

/-- The inputs that a slot latched at I_n (R236). -/
structure SlotLatch where
  r : Int := 0
  y : Int := 0
  m : Int := 0
  deriving DecidableEq, Repr

/-- A relay tuner while it holds a slot (R252 to R254). -/
structure Tuner where
  slot : Nat
  u0 : Int
  high : Bool
  /-- The relay state and the frozen state have been taken (in the first frame of the tune). -/
  started : Bool
  ePrev : Int
  /-- Frames run. -/
  t : Nat
  /-- Frames since the relay last changed. -/
  idle : Nat
  /-- The instant of the last change to high, in frames, once there is one. -/
  lastHigh : Option Rat
  /-- Cycles completed. -/
  cycles : Nat
  /-- The extremes of e in the cycle so far. -/
  eMax : Int
  eMin : Int
  /-- Sums over the measured cycles. -/
  sumT : Rat
  sumA : Int
  deriving DecidableEq, Repr

/-- An error found in a memory of the VP: its block and its row of the block's table of faults, the instance, what within
it (a slot of an engine, a bundle, a queue or a set of messages), and the address shown. -/
structure MemErr where
  blk : Nat
  cause : Nat
  inst : Nat
  sub : Nat
  addr : Nat
  deriving DecidableEq, Repr

/-- The loop engines' state beside their registers (R231 to R255). -/
structure LoopSt where
  /-- Counts slot runs and writes of waited sources, to tell which came first (R238). -/
  seq : Nat := 0
  /-- Per source code, `seq` at its last write. -/
  wrote : List (Nat × Nat) := []
  /-- Per slot, `seq` at the start of its last run. -/
  ran : List (Nat × Nat) := []
  /-- Slots whose first run is to come (R242). -/
  first : List Nat := []
  /-- Per slot, its latched inputs. -/
  latch : List (Nat × SlotLatch) := []
  /-- Per route (arm, then 16 + arm for currents), the value of a direct source latched at I_n (R244). -/
  direct : List (Nat × Int) := []
  /-- Per engine, the next slot to run (16 when complete) in the frame under way. -/
  at_ : List (Nat × Nat) := []
  /-- Per engine, the tuner while it holds a slot. -/
  tuner : List (Nat × Option Tuner) := []
  /-- Slots abandoned in the frame under way (R249). -/
  abandoned : List Nat := []
  /-- The engines have latched in the frame under way. -/
  latched : Bool := false
  /-- LOOP_DONE has occurred in the frame under way (R251). -/
  done : Bool := false
  /-- A TUNE_START waits for the boundary: per engine. -/
  startPend : List Nat := []
  /-- Per engine, how long after I_n the slot under way started or the last one completed, in ns; per slot, what memory
  corrections add to its time in this frame (R249). -/
  time : List (Nat × Nat) := []
  delay : List (Nat × Nat) := []
  /-- Slots held by an uncorrectable error, with the registers of their banks and state still to be rewritten (R258). -/
  ecc : List (Nat × List Nat) := []
  deriving DecidableEq, Repr

/-- One arm engine's state beside its registers (R39 to R70). -/
structure ArmSt where
  /-- The engine is in the running state (R41). -/
  running : Bool := false
  /-- The level and current last delivered by the routes (R42, R243, R244). -/
  lvl : Nat := 0
  cur : Int := 0
  /-- L and i_arm as latched at the last D_n (R42, R422). -/
  lvlLat : Nat := 0
  curLat : Int := 0
  /-- The histogram of the last decision and that of the closed epoch, per bin (R49). -/
  hist : List (Nat × Nat) := []
  histClosed : List (Nat × Nat) := []
  /-- W0, W1 and W2 of the decision under way, until it is written (R69). -/
  w0 : Nat := 0
  w1 : Nat := 0
  w2 : Nat := 0
  /-- The commands that the decision gives its acknowledged cells, by cell, as `Vp.cmds` holds them. -/
  next : List (Nat × Nat) := []
  /-- The cells granted a refresh by the decision. -/
  grants : List Nat := []
  /-- The decision is under way (from D_n until its record is written or the reserve ends). -/
  busy : Bool := false
  /-- The record has been written for the next train (R69). -/
  written : Bool := false
  /-- The decision under way: its deviation exceeds DEV_LIMIT, a cell has entered the lost class, and the histogram's memory
  has failed, so that no record can be written (R77, R397). -/
  devOver : Bool := false
  newLost : Bool := false
  badHist : Bool := false
  /-- The cells lost, by frames unacknowledged, at the last decision (R45, R77). -/
  lost : List Nat := []
  /-- W0, W1 and W2 of the last two records launched, newest first (R67). -/
  past : List (Nat × Nat × Nat) := []
  deriving DecidableEq, Repr

/-- A report held at the VP in the frame under way (R134). -/
structure Held where
  /-- The 64-bit slot as first held. -/
  val : Nat := 0
  /-- The time after B_n at which it was first held, in ns. -/
  arr : Nat := 0
  /-- Held by D_n. -/
  inTime : Bool := true
  deriving DecidableEq, Repr

/-- A returned copy of a train (R150, R210). -/
structure Copy where
  /-- Return latency in units of 62.5 ps. -/
  t : Nat
  /-- HOP as the copy carried it. -/
  hop : Nat
  deriving DecidableEq, Repr

/-- An RFH message, as sent or as received (R419, R420). -/
structure Rfh where
  up : Bool
  wrapped : Bool
  t : Nat
  first : Bool
  sent : Nat
  held : Nat
  deriving DecidableEq, Repr

/-- A block of a lane (R121): data, or a control block with its type and content (R122). -/
inductive Block where
  | data (w : Nat)
  | ctrl (typ content : Nat)
  deriving DecidableEq, Repr

/-- The control block types of the ring link, and the deskew marker of the peer lanes (R122, R183). -/
def tIdle : Nat := 0x1E
def tSot : Nat := 0x2D
def tEmpty : Nat := 0x33
def tEot : Nat := 0x4B
def tMgs : Nat := 0x55
def tMge : Nat := 0x66
def tUrgent : Nat := 0x78
def tTrain : Nat := 0x87
def tDsk : Nat := 0x99

/-- What a management packet was sent for. -/
inductive MgUse where
  /-- A request through RING_MG_GO (R155). -/
  | user
  /-- Override table entry `e` (R73), and its cancellation. -/
  | ovr (e : Nat)
  | ovrCancel (e : Nat)
  /-- The close of a hop (R153), and its cancellation. -/
  | close (hop : Nat)
  | closeCancel (hop : Nat)
  /-- Configuration (R141), with the CRC that CONFIG_END carries. -/
  | config
  | configEnd (cell : Nat)
  /-- A change of SAMPLE_LEAD and APPLY_OFFSET (R31), and its cancellation. -/
  | timeChange
  | timeCancel
  /-- A write that a host command or the seal causes (R378, R389). -/
  | prot
  deriving DecidableEq, Repr

/-- A management packet as the VP sends it (R137). -/
structure MgPkt where
  dest : Nat
  bcast : Bool
  opc : Nat
  addr : Nat
  /-- The data words, two to a block. -/
  words : List Word
  /-- The high word of the last block is not written. -/
  odd : Bool
  first : Bool
  use : MgUse
  /-- SRC, the direction on which the packet leaves first, whether the partner launches it, and the blocks launched (R137,
  R139). -/
  src : Bool := false
  up : Bool := false
  byPeer : Bool := false
  out : List Block := []
  /-- Retries used, copies awaited, and what the copies that returned so far say (R140). -/
  tries : Nat := 0
  await : Nat := 1
  status : Nat := 0
  resp : Nat := 0
  deriving DecidableEq, Repr

/-- A hop as the VP knows it (R151, R153). -/
structure HopSt where
  /-- Its training has been started, and has been confirmed at its end nearer the downstream transmitter and at the
  other (R173). -/
  started : Bool := false
  near : Bool := false
  far : Bool := false
  broken : Bool := false
  /-- The wait to the next attempt in ms (R153). -/
  wait : Nat := 0
  /-- A close under way: the boundary named, 0 for none, and the writes needed and confirmed. -/
  closeAt : Nat := 0
  need : Nat := 0
  got : Nat := 0
  /-- The close took effect at this boundary, 0 for none, and the reports have not yet shown it good (R153). -/
  check : Nat := 0
  deriving DecidableEq, Repr

/-- One ring's state at the VP beside its registers (R118 to R154). -/
structure RingSt where
  hops : List (Nat × HopSt) := []
  /-- Copies returned in the frame under way: key 2 * (upstream-launched) + (turned). -/
  copies : List (Nat × Copy) := []
  /-- Per copy, the positions whose slot it carried good, one bit each. -/
  copyHeld : List (Nat × Nat) := []
  /-- The RFHs of the frame, own and the partner's, oldest first (R420). -/
  rfhOwn : List Rfh := []
  rfhPeer : List Rfh := []
  /-- The partner's PST of this frame: received, and its own direction did not return unturned (R420). -/
  pst : Option Bool := none
  /-- The own PST of this frame made the ring eager. -/
  pstOwn : Bool := false
  /-- The classification last evaluated, the one seen in the last frame, and for how many frames (R150). -/
  evalTopo : Nat := 0
  seenTopo : Nat := 0
  seenFor : Nat := 0
  /-- Per position, 0 before a configured report has been held, then 1 and the frames without one since (R150). -/
  gone : List (Nat × Nat) := []
  /-- Positions known dark. -/
  dark : List Nat := []
  /-- Positions whose slot carried data in the frame under way, one bit each, and those with a CRC16 error. -/
  seen : Nat := 0
  crcBad : Nat := 0
  /-- A copy of a report has differed in this frame (R134). -/
  diffNow : Bool := false
  /-- R26 or R27 has failed in this frame; a failure waits for an evaluation, with the register that shows it (0 for
  none); and the fault of the run of failures has been raised (R29). -/
  failNow : Bool := false
  failWait : Nat := 0
  failing : Bool := false
  /-- The slot buffer has failed in this frame: its reports are not acknowledged (R156). -/
  bufBad : Bool := false
  /-- Enumeration: under way, its frames so far, consecutive good frames per position, ENUM_ERR seen (R152). -/
  enumOn : Bool := false
  enumFrames : Nat := 0
  enumGood : List (Nat × Nat) := []
  enumErr : Bool := false
  enumFailed : Bool := false
  /-- Positions whose last held report showed ENUM_ERR, one bit each (R155). -/
  enumBad : Nat := 0
  /-- Positions that have ended their configuration (R141). -/
  cfgDone : List Nat := []
  /-- The path changes at this boundary (R126). -/
  topoChg : Bool := false
  /-- The check of R28 has passed, and is to be made again after a close. -/
  checked : Bool := false
  recheck : Bool := false
  /-- Management packets under way by TAG, those waiting for a TAG, and the next TAG (R140). -/
  mg : List (Nat × MgPkt) := []
  mgWait : List MgPkt := []
  mgTag : Nat := 0
  /-- The ring's acknowledge and grant bitmaps for the next train. -/
  ackBits : Nat := 0
  grantBits : Nat := 0
  /-- The last trains launched, downstream and upstream: their blocks from SOT to EOT (R124). -/
  trainDn : List Block := []
  trainUp : List Block := []
  deriving DecidableEq, Repr

/-- The urgent burst and the trip sources (R142, R143, R415, R416). -/
structure TripSt where
  /-- Filtered trip inputs active, one bit each, before RING_TRIP_EN. -/
  pins : Nat := 0
  /-- The host trip source. -/
  host : Bool := false
  /-- URG_SEQ of the next burst. -/
  seq : Nat := 0
  /-- The content of the URGENT blocks of the last burst, without CRC-8; 0 before the first. -/
  last : Nat := 0
  /-- TRIP_OUT_N is driven low. -/
  out : Bool := false
  /-- The sources of the last TRIP message to the partner (R142). -/
  toPeer : Option Nat := none
  deriving DecidableEq, Repr

/-- What the hardware inserts into a PTP event message that leaves in one-step operation (R199): the origin time-stamp of a
Sync, or the turnaround time that it adds to the correctionField of a Pdelay_Resp, in units of 2^-16 ns. -/
structure OneStep where
  mtype : Nat
  seq : Nat
  sec : Nat
  ns : Nat
  turn : Int
  deriving DecidableEq, Repr

/-- The time state beside its registers (R190 to R208). -/
structure TimeSt where
  /-- The servo's integral term in ns per tick (R193). -/
  freq : Rat := 0
  /-- Per source (0 PTP, 1 PPS, 2 peer): it has delivered a measurement and has not timed out (R196). -/
  alive : List (Nat × Bool) := []
  /-- Per source, consecutive in-window measurements (R196). -/
  run : List (Nat × Nat) := []
  /-- Consecutive used measurements within LOCK_THR (R195). -/
  lock : Nat := 0
  /-- Per source, the first anomaly of the current series in units of 2^-8 ns, and its length (R206). -/
  series : List (Nat × (Int × Nat)) := []
  /-- TAI time at which time became ready (R197). -/
  readyAt : Nat := 0
  /-- The TAI grid minus the sequencer, and what the frame under way closes of it, in units of 2^-32 ns (R20). -/
  seqErr : Int := 0
  slew : Int := 0
  /-- TAI time of the last boundary (R18). -/
  boundary : Nat := 0
  /-- The tick of the last step of the time, and by how much (R207). -/
  stepAt : Option Nat := none
  stepBy : Int := 0
  /-- The number and the length of the frame before the one under way (R18, R20). -/
  prevNo : Nat := 0
  prevLen : Nat := 0
  /-- The time-stamp queue, oldest first (R199). -/
  tsq : List (List Word) := []
  /-- A qualified pulse held for 900 ms, in units of 2^-8 ns (R201); the input counts as absent after chatter. -/
  ppsHeld : Option Int := none
  ppsAbsent : Bool := false
  /-- PPS_OUT, and the TAI time of its last rise (R202). -/
  ppsOut : Bool := false
  ppsRise : Option Nat := none
  /-- The last residual in units of 62.5 ps (R204). -/
  res : Option Int := none
  /-- The content of the last marker sent, the TAI time at which it was due, and the peer lane that it left on (R203). -/
  ptm : Nat := 0
  ptmDue : Option Nat := none
  ptmLane : Nat := 0
  /-- The stamps of the Pdelay_Req messages received, by sequenceId, and what the hardware last inserted into a message
  that left in one-step operation (R199). -/
  pdelay : List (Nat × Nat) := []
  oneStep : Option OneStep := none
  deriving DecidableEq, Repr

/-- One entry of a host event frame (R385). -/
structure EvEntry where
  code : Nat
  src : Nat
  frame : Nat
  data : Nat
  sec : Nat
  ns : Nat
  deriving DecidableEq, Repr

/-- The pending faults and removed scopes (R396, R399, R405, R407). -/
structure Faults where
  /-- Per scope (block * 256 + instance), bit k set when a fault of class k is pending. -/
  pend : List (Nat × Nat) := []
  /-- Per block, the class of the last fault raised (bits 1:0) and its instance (bits 9:2) (R403). -/
  last : List (Nat × Nat) := []
  /-- Per block, the class that the capture holds, 0 for none (R402). -/
  cap : List (Nat × Nat) := []
  /-- Scopes removed by a per-instance fatal fault (R407). -/
  removed : List Nat := []
  deriving DecidableEq, Repr

/-- One item of a WRITE frame (R373): in MODE 1 the data are pairs of mask and value. -/
structure WItem where
  addr : Nat
  mode : Nat
  data : List Word
  deriving DecidableEq, Repr

/-- One command of a COMMAND frame (R378). -/
structure HCmd where
  op : Nat
  arg : Nat
  val : Word
  deriving DecidableEq, Repr

/-- A bundle of writes or of commands (R372, R378). -/
structure Bundle where
  port : Nat
  tag : Nat
  target : Nat
  cmd : Bool
  items : List WItem
  cmds : List HCmd
  /-- Taken on a port of this VP, not forwarded by the partner; and it waits for the partner's confirmation (R377). -/
  own : Bool := true
  waiting : Bool := false
  /-- An uncorrectable error stands in it (R394). -/
  ecc : Bool := false
  deriving DecidableEq, Repr

/-- The payload of a host frame by its TYPE (R363). -/
inductive HBody where
  | read (items : List (Nat × Nat))
  | write (target : Nat) (items : List WItem)
  | command (target : Nat) (cmds : List HCmd)
  | token (op : Nat)
  | cancel (of : Nat)
  | post (j : Nat)
  | msg (len : Nat) (data : List Word)
  | image (op slot ofs len : Nat) (data : List Nat)
  | trip (op : Nat) (key : Nat)
  /-- A frame that R361 answers BAD_FRAME. -/
  | bad (typ : Nat)
  deriving DecidableEq, Repr

/-- A host frame as a port takes it: its TAG, source MAC and VLAN tag (0 for none), and body (R361, R362). -/
structure HFrame where
  tag : Nat
  src : Nat
  vlan : Nat
  body : HBody
  deriving DecidableEq, Repr

/-- One entry of a response (R370). -/
structure RItem where
  addr : Nat
  count : Nat
  istat : Nat
  words : List Word
  deriving DecidableEq, Repr

/-- A response as sent (R362, R364). -/
structure Resp where
  dst : Nat
  vlan : Nat
  typ : Nat
  tag : Nat
  status : Nat
  epoch : Nat
  now : Nat
  pair : Nat
  role : Nat
  token : Nat
  sealBits : Nat
  items : List RItem
  /-- The data of an IMAGE response, as bytes. -/
  data : List Nat
  deriving DecidableEq, Repr

/-- A message of the kind HOSTX (R369, R377, R419). -/
inductive HostX where
  | forward (b : Bundle)
  | confirm (port tag : Nat)
  | refuse (port tag : Nat)
  | withdraw (port tag : Nat)
  /-- A TOKEN request of VP-B's port, and VP-A's decision with the holder. -/
  | tokenReq (port op : Nat)
  | tokenIs (port : Nat) (ok : Bool) (holder : Option (Nat × Bool))
  deriving DecidableEq, Repr

/-- One host port beside its registers (R360 to R386). -/
structure PortSt where
  /-- The last 16 responses, newest first (R365). -/
  saved : List Resp := []
  /-- The response last sent. -/
  sent : Option Resp := none
  /-- The frame being served, and those queued behind it, oldest first (R366). -/
  serving : Option HFrame := none
  queue : List HFrame := []
  /-- Source MAC and VLAN tag of the last host frame (R361). -/
  dst : Nat := 0
  dstVlan : Nat := 0
  /-- The entries of the last event frame, and the last message sent: its length and words (R383, R386). -/
  evSent : List EvEntry := []
  msgSent : Option (Nat × List Word) := none
  /-- The headers that those two frames carried (R362). -/
  evHead : Option Resp := none
  msgHead : Option Resp := none
  /-- The tick by which that message has left. -/
  msgEnd : Nat := 0
  deriving DecidableEq, Repr

/-- An image operation under way (R392). -/
structure ImageOp where
  port : Nat
  op : Nat
  slot : Nat
  ofs : Nat
  len : Nat
  data : List Nat
  deriving DecidableEq, Repr

/-- The HOST block beside its registers (R360 to R392). -/
structure HostSt where
  ports : List (Nat × PortSt) := []
  /-- Bundles in staging, in the order in which they were accepted (R374, R375). -/
  staged : List Bundle := []
  /-- The token's holder: port, and whether on VP-B (R368, R369). -/
  token : Option (Nat × Bool) := none
  /-- The shadow bank: the registers as captured for the last closed epoch (R370), before the first one none. -/
  shadow : Option (List (Nat × Word)) := none
  /-- The last HOSTX sent. -/
  hostx : Option HostX := none
  image : Option ImageOp := none
  /-- Since when the seal pins have indicated open, in ticks (R388). -/
  openSince : Option Nat := none
  /-- Per kind of seal entry, 1 + the TAI second of its last journal entry (R390). -/
  sealJrnl : List (Nat × Nat) := []
  /-- Words of the shadow bank with an uncorrectable error; and the seal logic has met one (R394). -/
  shadowBad : List Nat := []
  sealBad : Bool := false
  deriving DecidableEq, Repr

/-- The instruction that acts in a test access port of IEEE 1149.1 (R493). -/
inductive Tap where
  | bypass | idcode | sample | extest | extestPulse | extestTrain | debug
  deriving DecidableEq, Repr

/-- The clock tree (R455 to R464) (log entry 118). -/
structure ClkSt where
  /-- The root PLL has locked since power-on, and has not lost lock since. -/
  locked : Bool := false
  lost : Bool := false
  /-- The alignment origins of the dividers and of the clock outputs, in ticks (R456, R463). -/
  origin : Nat := 0
  outOrigin : Nat := 0
  /-- When the last sync was taken, in ticks (R463). -/
  syncAt : Option Nat := none
  /-- The depth ramp: the depth at its start, its target, in ppm, and its start in ticks (R462). -/
  from_ : Nat := 0
  target : Nat := 0
  since : Nat := 0
  /-- The test access port (R493). -/
  tap : Tap := .idcode
  deriving DecidableEq, Repr

/-- Where a VP stands between its resets (R446, R471). -/
inductive RunSt where
  /-- `PORESET_N` has been released; the root PLL has not locked. -/
  | waitRoot
  /-- A warm reset is held. -/
  | warmHeld
  | on
  deriving DecidableEq, Repr

/-- Start-up beside its registers (R437 to R450). -/
structure BootSt where
  run : RunSt := .waitRoot
  /-- The tick at which the last reset was released. -/
  rel : Nat := 0
  /-- The last release followed a warm reset. -/
  warm : Bool := false
  /-- `PAIR_ROLE` as sampled, and the sampled inputs of `SYS_PINS` (R32, R475). -/
  role : Bool := false
  partnerFail : Bool := false
  /-- The slot being tried, and whether the flash has been discovered for it (R442). -/
  slot : Nat := 0
  found : Bool := false
  /-- Slots erased or programmed since the start, one bit each (R444). -/
  written : Nat := 0
  /-- Start of the bounds of R447 when the VP starts solo, in ticks. -/
  soloAt : Option Nat := none
  /-- `FAIL_N` is driven low (R416). -/
  failN : Bool := true
  deriving DecidableEq, Repr

/-- What the calibrator's work is for (R300, R302, R306). -/
inductive CalKind where
  | none | all | one | rot
  deriving DecidableEq, Repr

/-- A handover of a moon slice's channel (R303): its stage 1 settle, 2 compare, 3 crossfade, and whether the moon gives
the channel back. -/
structure Handover where
  ch : Nat
  stage : Nat
  back : Bool
  deriving DecidableEq, Repr

/-- The conversions that a channel made in the frame that ends, oldest first, and the ticks from the sample instant of the
last to the boundary (R296). -/
structure AdcFrame where
  ch : Nat
  raws : List RawConv
  age : Nat
  deriving DecidableEq, Repr

/-- The conversions of a channel in the frame that ended last: their codes and over-range bits, oldest first, and the tick
of the last sample instant (R296, R347). -/
structure FrameCodes where
  ch : Nat
  codes : List (Int × Bool)
  at_ : Nat
  deriving DecidableEq, Repr

/-- A run of conversions: the tick of the first sample instant, the ticks between two, and how many there are (R290,
R307). -/
structure ConvRun where
  start : Nat
  step : Nat
  n : Nat
  deriving DecidableEq, Repr

/-- The ADC block beside its registers (R288 to R310). -/
structure AdcSt where
  /-- Channels that a moon slice serves, one bit each (R302, R304). -/
  onMoon : Nat := 0
  /-- Removed slices, one bit each (R301, R304). -/
  removed : Nat := 0
  /-- Per moon, the handover under way. -/
  ho : List (Nat × Handover) := []
  /-- The calibrator: its kind of work, the slice, and whether it is calibrating that slice now. -/
  kind : CalKind := .none
  slice : Nat := 31
  busy : Bool := false
  /-- The slice waits for an injected conversion since this tick (R305). -/
  waitAt : Option Nat := none
  /-- Slices to be calibrated again before the next step (R304), and those whose first hand-back was cancelled. -/
  again : List Nat := []
  failed : List Nat := []
  /-- Steps done of the pass; the rotation has begun (R302). -/
  step : Nat := 0
  rotating : Bool := false
  /-- The step made ready while the calibrator is at the one before: its slice, and its place in the order (none for a
  slice that is calibrated again) (R302 to R304). -/
  next : Option (Nat × Option Nat) := none
  /-- Per channel with an injected conversion pending, the slice that makes it (R298). -/
  injSlice : List (Nat × Nat) := []
  /-- The runs of conversions, the latest first (R290, R300, R307). -/
  runs : List ConvRun := [⟨0, 2, 2 ^ 64⟩]
  /-- Per channel, its last over-range excursion: the ticks of its first and last over-range conversion, and whether it was
  hard (R293 to R295). -/
  ovrAt : List (Nat × (Nat × Nat × Bool)) := []
  /-- Channels found over range by conversions of the frame under way, and of the frame that ended last, one bit each
  (R296). -/
  frameOvr : Nat := 0
  lateOvr : Nat := 0
  /-- The tick of the last boundary, and the conversions of the frame that ended at it (R296). -/
  frameUp : Nat := 0
  frame : List FrameCodes := []
  /-- The end of the low-power burst last started, in ticks (R307). -/
  burstEnd : Nat := 0
  /-- Channels whose next stream line carries GAP (R310). -/
  gap : Nat := 0
  /-- The loop sources' last values, for channels that hold them (R300, R313). -/
  held : List (Nat × AinSample) := []
  deriving DecidableEq, Repr

/-- One conversion as a stream line carries it (R309). -/
structure Conv where
  code : Int
  ovr : Bool
  setl : Bool
  deriving DecidableEq, Repr

/-- A sample of a raw or derived channel (R315, R323). -/
structure Smp where
  val : Int
  ovr : Bool
  setl : Bool
  sat : Bool
  deriving DecidableEq, Repr

/-- What the recorder knows of a record beside its samples (R325): the ticks from its first to its last sample, which
samples follow a gap (ranks of the raw conversions handed over), and whether any came from bursts or from a crossfade. -/
structure RecFacts where
  span : Nat
  breaks : List Nat
  lp : Bool
  handover : Bool
  deriving DecidableEq, Repr

/-- A record from its trigger on (R324 to R329). -/
structure AcqRec where
  seg : Nat
  seq : Nat
  head : Nat
  tail : Nat
  mask : Nat
  measCh : Nat
  base : Nat
  hv : Nat
  hwrap : Nat
  trigSrc : Nat
  lateSrc : Nat
  retrig : Nat
  /-- TS in units of 2^-32 ns, and the crossing that set it was falling. -/
  ts : Nat
  falling : Bool
  uofs : List (Nat × Int)
  frame : Nat
  ofs : Nat
  tstate : Nat
  align : Bool
  clamp : Bool
  /-- Closed early (R329). -/
  short : Bool
  /-- The tick of the trigger sample. -/
  at_ : Nat := 0
  /-- Once closed: valid tail samples, first and last time, flags, and conversion spacing in ticks. -/
  tv : Nat := 0
  tfirst : Nat := 0
  tlast : Nat := 0
  flags : Nat := 0
  spacing : Nat := 2
  deriving DecidableEq, Repr

/-- The ACQ block beside its registers (R314 to R338). -/
structure AcqSt where
  /-- Per pool, the record under way. -/
  cur : List (Nat × AcqRec) := []
  /-- Closed records that wait for measurement, with their pools, in order (R333). -/
  queue : List (Nat × AcqRec) := []
  /-- Segments of STOP pools that hold a record not released, and those whose record is COMPLETE (R330). -/
  heldSegs : List Nat := []
  complete : List Nat := []
  /-- Per pool, TS of the latest COMPLETE record (R337). -/
  lastTs : List (Nat × Nat) := []
  /-- Records that wait for the locator, the first being searched (R335, R336). -/
  loc : List AcqRec := []
  deriving DecidableEq, Repr

/-- A sample set of a tracker with the tracker's angle, frequency and rate of change at it (R347, R348, R354): times in
units of 2^-32 ns, angles in units of 2^-64 turn, values in Q1.30; the flags of R356 that held at it. -/
structure GSet where
  t : Int
  a : Int
  b : Int
  c : Int
  th : Int
  w : Int
  acc : Int
  flags : Nat
  deriving DecidableEq, Repr

/-- A grid tracker beside its registers (R347 to R352). -/
structure Tracker where
  th : Int := 0
  w : Int := 0
  acc : Int := 0
  /-- The time of the last set, and whether one has been taken since the entry into Start. -/
  t : Int := 0
  has : Bool := false
  /-- arg(v) at the last set, and the detection window of a reversal: its first set and ω there (R350). -/
  arg : Int := 0
  revT : Option Int := none
  revW : Int := 0
  /-- The entry into the present state, the last |e| above VAL_THR, and since when |v| has been low, an input bad, and
  all good (R351). -/
  since : Int := 0
  big : Int := 0
  low : Option Int := none
  bad : Option Int := none
  good : Option Int := none
  /-- The end of FREQ_TR, and the frequency held while it is set (R349). -/
  trEnd : Int := 0
  heldW : Int := 0
  /-- 3 α and 3 β' / √3 of the last set, and the magnitude of the opposite sequence, Q1.30. -/
  al : Int := 0
  be : Int := 0
  neg : Int := 0
  /-- The sets of the phasor windows, newest first; a frame without a set since the last one. -/
  sets : List GSet := []
  gap : Bool := false
  /-- Per transducer input, the number of the newest good word that a set has used (R347). -/
  used : List (Nat × Nat) := []
  deriving DecidableEq, Repr

/-- A good word of a transducer input: its number among the input's good words, SEQ, VALUE and stamp (R344). -/
structure TliWord where
  no : Nat
  seq : Nat
  val : Int
  stamp : Int
  deriving DecidableEq, Repr

/-- The GRID block beside its registers (R342 to R356). -/
structure GridSt where
  trackers : List (Nat × Tracker) := []
  /-- Per input, its latest good words, newest first, and the SEQ of the last word taken. -/
  words : List (Nat × List TliWord) := []
  lastSeq : List (Nat × Nat) := []
  /-- Per output, the last word sent. -/
  sent : List (Nat × Nat) := []
  /-- The phasor queue, oldest first (R356). -/
  pq : List (List Word) := []
  deriving DecidableEq, Repr

/-- A lane beside its registers (R164 to R181). -/
structure LaneSt where
  /-- Consecutive eye measurements below a threshold, and above both (R169). -/
  low : Nat := 0
  high : Nat := 0
  /-- The coefficients in force come from a completed training (R167). -/
  trained : Bool := false
  /-- 4,096-bit windows since the last step: key 0 the CTLE, 1 to 5 the DFE taps; none before the first step (R166). -/
  gaps : List (Nat × Nat) := []
  /-- The TRAIN content last sent; none while none has been sent; and the TSEQ of the next block (R172). -/
  sent : Option Nat := none
  tseq : Nat := 0
  /-- The receiver is at the signal stage for a loss at stage 5 (R171). -/
  back5 : Bool := false
  deriving DecidableEq, Repr

/-- The lanes of the VP and the peer bundle beside their registers (R158 to R185). -/
structure LanesSt where
  lanes : List (Nat × LaneSt) := []
  /-- Bundle: MSEQ of the next marker, lanes aligned by the last markers received, markers for which a lane outside
  ACTIVE has been clear, and the markers last sent (R183, R184). -/
  mseq : Nat := 0
  aligned : Nat := 0
  clear : List (Nat × Nat) := []
  dsk : List (Nat × Nat) := []
  /-- Removed quads, one bit each (R188). -/
  quadsGone : Nat := 0
  deriving DecidableEq, Repr

/-- What a PST says of one enabled ring (R419). -/
structure PstRing where
  ring : Nat
  t : Nat
  wrap : Nat
  wrapV : Bool
  deriving DecidableEq, Repr

/-- A PST (R419). -/
structure Pst where
  frame : Nat
  gen : Nat
  active : Bool
  role : Bool
  formed : Bool
  solo : Bool
  sealOpen : Bool
  arms : Nat
  rings : List PstRing
  deriving DecidableEq, Repr

/-- A snapshot of an arm (R427): DIR, the boundary at which it applies, and per cell words 2, 3, 4 and 7. -/
structure Snap where
  arm : Nat
  at_ : Nat
  dir : Bool
  cells : List (Nat × List Word)
  deriving DecidableEq, Repr

/-- A message to the partner (R419); a forwarded report stands among them (R420). -/
inductive PeerMsg where
  | trip (src : Nat)
  | fwd (blk : Nat)
  | rfh (ring : Nat) (f : Rfh)
  | rtv (xs : List (Nat × Nat × Int))
  | dig (ds : List (Nat × Nat))
  | pst (p : Pst)
  | snap (s : Snap)
  | hostx (x : HostX)
  /-- A management packet that the partner launches (R139). -/
  | packet (ring : Nat) (blocks : List Block)
  | cfgd (digest : Nat) (role : Bool)
  deriving DecidableEq, Repr

/-- A message in the stream to the partner, its blocks that have not left, and whether one has (R419, R421). -/
structure PeerOut where
  msg : PeerMsg
  left : List Block
  begun : Bool := false
  deriving DecidableEq, Repr

/-- The resynchronisation of an arm at the standby (R427): frames since it started, and the snapshot received. -/
structure Resync where
  frames : Nat
  snap : Option Snap
  deriving DecidableEq, Repr

/-- The pair beside the PEER registers (R417 to R432). -/
structure PeerSt where
  /-- The CFGD last sent: digest and ROLE; and whether one has been received. -/
  cfgdOut : Option (Nat × Bool) := none
  cfgdIn : Bool := false
  /-- This VP joins a partner that runs solo (R432); the pair could not form. -/
  joining : Bool := false
  failed : Bool := false
  /-- Messages last sent: RTV as (arm, L, i), DIG and PST; forwarded reports of the frame under way as data blocks. -/
  rtvOut : List (Nat × Nat × Int) := []
  digOut : List (Nat × Nat) := []
  pstOut : Option Pst := none
  fwdOut : List Nat := []
  /-- The partner's RTV and digests of this frame, and its last PST. -/
  rtvIn : List (Nat × Nat × Int) := []
  rtvGot : Bool := false
  digIn : List (Nat × Nat) := []
  pstIn : Option Pst := none
  /-- The partner's PST of the boundary under way has arrived; boundaries in a row without one. -/
  pstGot : Bool := false
  pstMiss : Nat := 0
  /-- The boundary at which this standby takes the active role (R430). -/
  takeAt : Option Nat := none
  /-- The boundary from which a joined partner runs (R432). -/
  joinAt : Option Nat := none
  /-- Reports received through the partner in the frame under way. -/
  fwdIn : Nat := 0
  /-- VP-B gives up the active role at the next boundary (R431). -/
  giveUp : Bool := false
  /-- Per arm, consecutive mismatches, and the resynchronisation under way. -/
  mis : List (Nat × Nat) := []
  resync : List (Nat × Option Resync) := []
  /-- Arms whose next train of the standby is void (R426, R427). -/
  void : List Nat := []
  /-- At the active VP: the SNAPs last sent. -/
  snapOut : List Snap := []
  /-- ACK_SHORT has raised its fault (R424). -/
  short : Bool := false
  /-- The stream to the partner: what has not left, in the order in which it leaves (R421). -/
  out : List PeerOut := []
  deriving DecidableEq, Repr

/-- The valve processor (log entries 21, 141). -/
structure Vp where
  /-- Every register, by byte address; an unlisted one stands at its reset value. -/
  regs : List (Nat × Word) := []
  /-- Shared SRAM, acquisition SRAM and the core memories at their addresses of R34 and R35. -/
  mem : List Host.Cell := []
  /-- Retention SRAM, which survives a warm reset (R411, R472). -/
  ret : List Host.Cell := []
  /-- 250 MHz ticks since the power-on reset was released. -/
  up : Nat := 0
  /-- TAI time in units of 2^-32 ns: the nanosecond counter of R10 and R191. -/
  tai : Nat := 0
  /-- FRAME_NO of the frame under way (R16). -/
  frameNo : Nat := 0
  /-- Time since the boundary that began the frame, in units of 2^-32 ns. -/
  frameOfs : Nat := 0
  /-- The first frame has been launched (R17). -/
  launched : Bool := false
  time : TimeSt := {}
  /-- The words latched by a read of the lowest word of a wide value (R8), and the last word that a read returned. -/
  latch : List (Nat × Word) := []
  lastRead : Word := 0
  /-- The words written to a wide value below its highest, which wait for the write of that one (R8). -/
  wlatch : List (Nat × Word) := []
  flt : Faults := {}
  sched : Sched := {}
  loop : LoopSt := {}
  /-- Per arm engine. -/
  arms : List (Nat × ArmSt) := []
  /-- Per ring. -/
  rings : List (Nat × RingSt) := []
  trip : TripSt := {}
  /-- The words that the grid trackers publish, key 8 * tracker + word (R352). -/
  gridWords : List (Nat × Word) := []
  /-- The cell state table, key 16 * cell index + word: the bank being filled and that of the last closed epoch (R36). -/
  cst : List (Nat × Word) := []
  cstClosed : List (Nat × Word) := []
  /-- Reports held in the frame under way, by cell index (R134). -/
  held : List (Nat × Held) := []
  /-- The calibration of R300 has ended. -/
  adcDone : Bool := false
  /-- D_n of the frame under way has passed. -/
  decided : Bool := false
  /-- Per cell, the state that the last broadcast commanded (R46): 0 blocked, 1 bypassed, 2 inserted, 3 + duty trim. -/
  cmds : List (Nat × Nat) := []
  /-- Per cell, the override action in force (R73), 0 for none. -/
  ovr : List (Nat × Nat) := []
  /-- Per override entry, the boundary of the change under way, 0 for none, the cell and action it names, and the entries
  whose change the cell has confirmed. -/
  ovrAt : List (Nat × Nat) := []
  ovrWas : List (Nat × Nat) := []
  ovrGot : List Nat := []
  /-- Per cell, whether its last three acknowledged reports showed it retired or locally blocked: bit 0 the last. -/
  loc : List (Nat × Nat) := []
  /-- DEAD_TIME (key 2 * cell) and MIN_PULSE (key 2 * cell + 1) in force in the cells (R88). -/
  dtKept : List (Nat × Nat) := []
  /-- Cells held as retired (R104, R445), one bit each. -/
  retired : Nat := 0
  /-- The journal, by address (R412), and the TAI second of its limit with the entries written in it (R414). -/
  jrnl : List Host.Cell := []
  jrnlSec : Nat := 0
  jrnlCnt : Nat := 0
  /-- The flash, by address; an unlisted byte is erased (R438). -/
  flash : List Host.Cell := []
  /-- The retire map's sector in use and the place of the next copy in it (R445). -/
  retSector : Nat := 0
  retNext : Nat := 0
  /-- A change of SAMPLE_LEAD and APPLY_OFFSET sent to the cells (R31): its boundary, 0 for none, and the writes needed
  and confirmed. -/
  timeAt : Nat := 0
  timeNeed : Nat := 0
  timeGot : Nat := 0
  /-- Common configuration words of the rings, key 0x10000 * ring + CN word address (R440, R441). -/
  cnCfg : List (Nat × Word) := []
  /-- Arm engines that have written or held in the frame under way, one bit each (R266). -/
  armDone : Nat := 0
  /-- Every ring, peer and host transmitter is off (R409, R473). -/
  txOff : Bool := false
  /-- Inputs not yet acted on, oldest first. -/
  inbox : List Input := []
  /-- Per host port, event entries queued (R386). -/
  evq : List (Nat × List EvEntry) := []
  /-- Per host port, entries lost since the last LOST entry (R386). -/
  evLost : List (Nat × Nat) := []
  host : HostSt := {}
  adc : AdcSt := {}
  grid : GridSt := {}
  acq : AcqSt := {}
  clk : ClkSt := {}
  boot : BootSt := {}
  lanes : LanesSt := {}
  peer : PeerSt := {}
  /-- Writes by cores to staged registers that wait for the boundary, in order: address and value (R72). -/
  coreWrites : List (Nat × Word) := []
  /-- The count of free values read so far; the model's own field. -/
  free : Nat := 0
  deriving DecidableEq, Repr

end Sys2Proof.Machine
end

