-- ==== Sys2Proof/Machine/Link.lean ====
section
/-!
DEFINITION. The words that the two parts exchange: node identifiers and the hash (R12, R53), reports (R130, R131),
the decision record and the frame train (R56, R124 to R128), management packets (R137) and the URGENT block (R143).
-/

namespace Sys2Proof.Machine

/-! ### Identifiers and the hash -/

/-- The node identifier of a cell (R12). -/
def nodeId (chip ring pos : Nat) : Nat := chip % 64 * 4096 + ring % 16 * 256 + pos % 256

/-- The seed of the frame (R53). -/
def hashSeed (frame : Nat) : Nat := (frame % 2 ^ 18) ^^^ (frame / 2 ^ 18 % 2 ^ 18)

/-- The hash of a cell for the decision of a frame (R53). -/
def hash (node frame : Nat) : Nat :=
  let x := ((node ^^^ hashSeed frame) * 40503) % 65536
  x ^^^ (x / 128)

/-! ### Checksums of the ring -/

/-- The CRC-8 of a control block content (R123): over bytes 1 to 6, the content bits [47:0]. -/
def crc8 (content : Nat) : Nat := crcBytes 8 0x07 0 (leBytes 6 (content % 2 ^ 48))

/-- A control block content with its CRC-8 (R123). -/
def withCrc8 (content : Nat) : Nat := content % 2 ^ 48 + crc8 content * 2 ^ 48

/-- Does a control block content carry its CRC-8? -/
def crc8Ok (content : Nat) : Bool := content / 2 ^ 48 % 256 == crc8 content

/-- The CRC16 of a report (R131): six report bytes, the node identifier, and FRAME_NO[23:0]. -/
def crc16 (rep node frame : Nat) : Nat :=
  crcBytes 16 0x1021 0xFFFF (leBytes 6 (rep % 2 ^ 48) ++ leBytes 3 (node % 2 ^ 18) ++ leBytes 3 (frame % 2 ^ 24))

/-- A report slot: 48 bits with their CRC16 above. -/
def withCrc16 (rep node frame : Nat) : Nat := rep % 2 ^ 48 + crc16 rep node frame * 2 ^ 48

/-- Is the slot a good report of that node in that frame (R131)? -/
def crc16Ok (slot node frame : Nat) : Bool := slot / 2 ^ 48 % 65536 == crc16 slot node frame

/-! ### Reports (R130) -/

/-- A field of a report. -/
def rfld (rep lo len : Nat) : Nat := rep / 2 ^ lo % 2 ^ len

/-- CODE. -/
def repCode (rep : Nat) : Nat := rfld rep 0 10
/-- STATE. -/
def repState (rep : Nat) : Nat := rfld rep 10 3
/-- GSTATE. -/
def repGstate (rep : Nat) : Nat := rfld rep 13 2
/-- The missed flag. -/
def repMiss (rep : Nat) : Bool := rep.testBit 15
/-- Refresh-due. -/
def repRfd (rep : Nat) : Bool := rep.testBit 16
/-- SREF. -/
def repSref (rep : Nat) : Nat := rfld rep 17 3
/-- BLK_CAUSE. -/
def repBlk (rep : Nat) : Nat := rfld rep 20 9
/-- TIME_OK. -/
def repTimeOk (rep : Nat) : Bool := rep.testBit 40
/-- LOS_P and LOS_S. -/
def repLosP (rep : Nat) : Bool := rep.testBit 43
def repLosS (rep : Nat) : Bool := rep.testBit 44
/-- ENUM_ERR of an Unconfigured cell's slot. -/
def repEnumErr (rep : Nat) : Bool := rep.testBit 31

/-- The cell reports a block cause that R45 calls local: gate supply, over-temperature or configuration parity. -/
def repLocalBlock (rep : Nat) : Bool :=
  repState rep == 1 && ((repBlk rep).testBit 4 || (repBlk rep).testBit 5 || (repBlk rep).testBit 6)

/-! ### The decision record (R56, R57) -/

/-- MODE values of W0. -/
def modeNormal : Nat := 0
def modeAll : Nat := 1
def modeHold : Nat := 2
def modeBlock : Nat := 3
/-- The void record's MODE (R426). -/
def modeVoid : Nat := 7

/-- W0. -/
def recW0 (mode : Nat) (dir : Bool) (b c : Nat) : Nat := mode * 2 ^ 29 + b2n dir * 2 ^ 28 + b * 2 ^ 16 + c
/-- W1. -/
def recW1 (seq nFull : Nat) : Nat := seq % 256 * 2 ^ 24 + nFull % 4096
/-- W2 of a named trim cell. -/
def recW2 (ksel idx duty : Nat) : Nat := 2 ^ 31 + ksel % 4 * 2 ^ 29 + idx % 4096 * 2 ^ 17 + duty % 65536

/-- MODE of W0. -/
def w0Mode (w : Nat) : Nat := w / 2 ^ 29 % 8
/-- DIR of W0. -/
def w0Dir (w : Nat) : Bool := w.testBit 28
/-- B of W0. -/
def w0B (w : Nat) : Nat := w / 2 ^ 16 % 1024
/-- C of W0. -/
def w0C (w : Nat) : Nat := w % 65536
/-- SEQ of W1. -/
def w1Seq (w : Nat) : Nat := w / 2 ^ 24 % 256
/-- N_FULL of W1. -/
def w1Full (w : Nat) : Nat := w % 4096
/-- TRIM_V of W2. -/
def w2TrimV (w : Nat) : Bool := w.testBit 31
/-- KSEL of W2. -/
def w2Ksel (w : Nat) : Nat := w / 2 ^ 29 % 4
/-- TRIM_IDX of W2. -/
def w2Idx (w : Nat) : Nat := w / 2 ^ 17 % 4096
/-- TRIM_DUTY of W2. -/
def w2Duty (w : Nat) : Nat := w % 65536

/-- Does a cell with this code and hash insert under a record in normal mode (R59)? -/
def inserts (dir : Bool) (b c code h : Nat) : Bool :=
  if dir then decide (b < code) || (code == b && decide (h < c)) else decide (code < b) || (code == b && decide (h < c))

/-! ### The frame train (R124 to R128) -/

/-- SOT content as launched (R125). -/
def sotContent (ring : Nat) (up src active paired : Bool) (gen chip : Nat) : Nat :=
  withCrc8 (ring % 16 + b2n up * 2 ^ 4 + b2n src * 2 ^ 5 + b2n active * 2 ^ 6 + b2n paired * 2 ^ 7 + gen % 256 * 2 ^ 8
    + chip % 64 * 2 ^ 16)

/-- A 256-bit bitmap as four data blocks (R124). -/
def bitmapBlocks (m : Nat) : List Nat := [m % 2 ^ 64, m / 2 ^ 64 % 2 ^ 64, m / 2 ^ 128 % 2 ^ 64, m / 2 ^ 192 % 2 ^ 64]

/-- TRAIN_CRC over blocks 1 to 13 (R127). -/
def trainCrc (blocks : List Nat) : Nat := crc32 (blocks.flatMap (leBytes 8))

/-- Blocks 1 to 14 of a train: FRAME_NO, H1, H2, the record, the bitmaps and TRAIN_CRC (R124). -/
def trainBlocks (frame h1 h2 w0 w1 w2 ack grant : Nat) : List Nat :=
  let b := [frame % 2 ^ 64, h1, h2, w0 + w1 * 2 ^ 32, w2] ++ bitmapBlocks ack ++ bitmapBlocks grant
  b ++ [trainCrc b]

/-- The content of an EMPTY slot block of position `p`, and of EOT (R122, R128). -/
def emptyContent (p : Nat) : Nat := p % 256 + (255 - p % 256) * 2 ^ 8
def eotContent (nslot : Nat) : Nat := withCrc8 (nslot % 512)

/-- The report slots as launched: in the downstream-launched train in rising position order, in the other reversed
(R128). -/
def slotBlocks (ncell : Nat) (up : Bool) : List Block :=
  let ps := List.range ncell
  (if up then ps.reverse else ps).map (fun p => .ctrl tEmpty (emptyContent p))

/-- A whole train from its SOT content and blocks 1 to 14 (R124). -/
def wholeTrain (ncell : Nat) (up : Bool) (sot : Nat) (blocks : List Nat) : List Block :=
  .ctrl tSot sot :: blocks.map .data ++ slotBlocks ncell up ++ [.ctrl tEot (eotContent ncell)]

/-- MGS content (R137). -/
def mgsContent (dest : Nat) (bcast : Bool) (opc : Nat) (first odd src : Bool) (addr len tag : Nat) : Nat :=
  withCrc8 (dest % 256 + b2n bcast * 2 ^ 8 + opc % 8 * 2 ^ 9 + b2n first * 2 ^ 12 + b2n odd * 2 ^ 13 + b2n src * 2 ^ 14
    + addr % 65536 * 2 ^ 16 + len % 128 * 2 ^ 32 + tag % 256 * 2 ^ 40)

/-- Data blocks of words, the low word first. -/
def pairWords : List Nat → List Nat
  | lo :: hi :: ws => (lo + hi * 2 ^ 32) :: pairWords ws
  | [lo] => [lo]
  | [] => []

/-- The blocks of a packet (R137): MGS, the data, DCRC, and MGE with STATUS and RESP 0. -/
def packetBlocks (mgs : Nat) (words : List Nat) : List Block :=
  .ctrl tMgs mgs :: (pairWords words).map .data ++ [.data (crc32Words words), .ctrl tMge (withCrc8 0)]

/-- The transmitted time of one block in units of 6.25 ps (R121: 6.4 ns). -/
def blk6 : Nat := 1024

/-- The slot index of position `p` in a copy (R128). -/
def slotIndex (ncell : Nat) (up : Bool) (p : Nat) : Nat := if up then 15 + ncell - 1 - p else 15 + p

/-! ### The URGENT block (R143) -/

/-- The content of the URGENT blocks of a burst. -/
def urgentContent (sources seq : Nat) : Nat := withCrc8 (sources % 64 + seq % 256 * 2 ^ 8 + 0x5A5A5A5A * 2 ^ 16)

/-- Is an URGENT block one that a cell acts on (R144)? -/
def urgentOk (content : Nat) : Bool := crc8Ok content && content / 2 ^ 16 % 2 ^ 32 == 0x5A5A5A5A

end Sys2Proof.Machine
end

