-- ==== Sys2Proof/Machine/Flags.lean ====
section
/-!
DEFINITION. Reading and writing the registers' storage, sticky flags, interrupt causes and faults: classes, escalation,
first-error capture and acknowledgement (R395 to R406).
-/

namespace Sys2Proof.Machine

/-! ### Register storage -/

/-- The register at byte address `a`. -/
def Vp.reg (v : Vp) (a : Nat) : Word := sget regReset v.regs a
/-- `v` with the register at `a` holding `w`. -/
def Vp.setReg (v : Vp) (a : Nat) (w : Word) : Vp := { v with regs := sset regReset v.regs a w }
/-- A field of a register. -/
def Vp.fld (v : Vp) (a lo len : Nat) : Nat := Machine.fld (v.reg a) lo len
/-- A bit of a register. -/
def Vp.bit (v : Vp) (a i : Nat) : Bool := Machine.bit (v.reg a) i
/-- `v` with a field of a register set. -/
def Vp.setFld (v : Vp) (a lo len x : Nat) : Vp := v.setReg a (Machine.setFld (v.reg a) lo len x)
/-- `v` with a bit of a register set to `b`. -/
def Vp.setBit (v : Vp) (a i : Nat) (b : Bool) : Vp := v.setFld a i 1 (b2n b)
/-- `v` with the bits of `mask` set in a register. -/
def Vp.orReg (v : Vp) (a : Nat) (mask : Nat) : Vp := v.setReg a (v.reg a ||| w32 mask)
/-- `v` with the bits of `mask` cleared in a register. -/
def Vp.clrReg (v : Vp) (a : Nat) (mask : Nat) : Vp := v.setReg a (v.reg a &&& ~~~ (w32 mask))
/-- `v` with `n` added to a field that wraps. -/
def Vp.addFld (v : Vp) (a lo len n : Nat) : Vp := v.setFld a lo len (v.fld a lo len + n)
/-- `v` with 1 added to a field that saturates. -/
def Vp.satFld (v : Vp) (a lo len : Nat) : Vp := v.setFld a lo len (min (v.fld a lo len + 1) (2 ^ len - 1))
/-- `v` with 1 added to a 32-bit counter that wraps. -/
def Vp.inc (v : Vp) (a : Nat) : Vp := v.setReg a (v.reg a + 1)

/-- One second in units of 2^-32 ns. -/
def nsUnit : Nat := 0x100000000
/-- TAI seconds of a time in units of 2^-32 ns (R10). -/
def secOf (t : Nat) : Nat := t / (1000000000 * nsUnit)
/-- Nanoseconds of a time (R10). -/
def nsOf (t : Nat) : Nat := t / nsUnit % 1000000000
/-- TAI seconds now. -/
def Vp.sec (v : Vp) : Nat := secOf v.tai
/-- Nanoseconds now. -/
def Vp.ns (v : Vp) : Nat := nsOf v.tai

/-- A device-level fatal fault has been raised and no reset has followed (R409). -/
def Vp.fatal (v : Vp) : Bool := v.bit Reg.SYS_FATAL 0

/-- `v` with an input queued. -/
def Vp.post (v : Vp) (i : Input) : Vp := { v with inbox := v.inbox ++ [i] }

/-! ### Host event entries -/

/-- Has scope (`blk`, `inst`) been removed (R407)? -/
def Vp.isRemoved (v : Vp) (blk inst : Nat) : Bool := v.flt.removed.contains (blk * 256 + inst)

/-- The port queues an entry, or loses it when 256 are queued (R386). A port that has taken no frame yet knows no
destination, and takes no entry (R362) (log entries 7, 75). -/
def Vp.portEntry (v : Vp) (p : Nat) (e : EvEntry) : Vp :=
  if v.bit (Reg.HOST_P_CFG p) 0 && v.bit (Reg.HOST_P_STAT p) 2 && !v.isRemoved 11 p then
    let q := sget (fun _ => []) v.evq p
    if q.length < 256 then { v with evq := sset (fun _ => []) v.evq p (q ++ [e]) }
    else
      let v := v.addFld (Reg.HOST_P_EV_CNT p) 16 16 1
      let v := if sget (fun _ => 0) v.evLost p = 0 then v.post (.hostLost p) else v
      { v with evLost := sset (fun _ => 0) v.evLost p (sget (fun _ => 0) v.evLost p + 1) }
  else v

/-- The entry of an event now. -/
def Vp.entry (v : Vp) (code src data : Nat) : EvEntry :=
  { code := code, src := src, frame := v.frameNo % 0x10000, data := data % 0x100000000,
    sec := v.sec % 0x100000000, ns := v.ns }

/-- Does port `p` enable an entry of this code and source (R385)? (log entry 75) -/
def Vp.enablesEntry (v : Vp) (p code src : Nat) : Bool :=
  if code = 1 ∨ code = 2 then v.bit (Reg.HOST_P_EVMASK0 p) src else v.bit (Reg.HOST_P_EVMASK1 p) code

/-- An entry for every port that enables it (R385). -/
def Vp.hostEntry (v : Vp) (code src data : Nat) : Vp :=
  [0, 1, 2, 3].foldl (fun v p => if v.enablesEntry p code src then v.portEntry p (v.entry code src data) else v) v

/-- An interrupt cause of block `blk` becomes set: the status bit, and, when it is enabled and was clear, event
EV32 + blk (R266) and an INT entry (R385). -/
def Vp.intCause (v : Vp) (blk en stat i : Nat) : Vp :=
  if v.bit stat i then v
  else
    let v := v.setBit stat i true
    if v.bit en i then (v.post (.event (32 + blk))).hostEntry 1 blk (2 ^ i) else v

/-! ### Faults -/

/-- Corrected (R395). -/
def cor : Nat := 1
/-- Uncorrected-contained (R395). -/
def unc : Nat := 2
/-- Fatal (R395). -/
def fat : Nat := 3

/-- Is a fatal fault at this scope device-level (R396)? -/
def deviceLevel (blk inst : Nat) : Bool :=
  match blk with
  | 0 => decide (16 ≤ inst)
  | 1 | 2 | 12 | 5 => true
  | 13 | 15 => false
  | _ => inst == 0xFF

/-- Is a fault of class `k` pending in the scope? -/
def Vp.pending (v : Vp) (blk inst k : Nat) : Bool := (sget (fun _ => 0) v.flt.pend (blk * 256 + inst)).testBit k

/-- The class that a fault of class `k` is raised as, by the escalation rule (R405). -/
def Vp.escalate (v : Vp) (blk inst k : Nat) : Nat :=
  if k = 1 ∧ v.pending blk inst 1 then (if v.pending blk inst 2 then 3 else 2)
  else if k = 2 ∧ v.pending blk inst 2 then 3
  else k

/-- One condition found by a block: its row in the fault table, its class, and what its capture would hold (R400). -/
structure Cond where
  cause : Nat
  cls : Nat
  addr : Nat
  access : Nat
  master : Nat
  deriving DecidableEq, Repr

/-- An access that is none: ACCESS 0b101, internal (R400). -/
def accInternal : Nat := 5

/-- A condition shown by a register, found by the block's own logic (R400, R401). -/
def Cond.own (blk cause cls addr : Nat) : Cond :=
  { cause := cause, cls := cls, addr := addr, access := accInternal, master := 0x30 + blk }

/-- FIRST1 of a capture (R400). -/
def first1 (c : Cond) (cls : Nat) (esc repl : Bool) (inst : Nat) : Nat :=
  c.master % 256 + c.access % 8 * 2 ^ 8 + cls * 2 ^ 11 + b2n esc * 2 ^ 13 + b2n repl * 2 ^ 14
    + inst % 256 * 2 ^ 16 + c.cause % 256 * 2 ^ 24

/-- The capture of a fault (R402): filled while CAP_V is 0; a fatal fault replaces a lower class and sets REPL. -/
def Vp.capture (v : Vp) (blk inst : Nat) (c : Cond) (cls : Nat) (esc : Bool) : Vp :=
  let held := sget (fun _ => 0) v.flt.cap blk
  let full := v.bit (Reg.FLT_STAT blk) 5
  if !full || (cls == 3 && decide (held < 3)) then
    let v := v.setReg (Reg.FLT_FIRST blk 0) (w32 c.addr)
    let v := v.setReg (Reg.FLT_FIRST blk 1) (w32 (first1 c cls esc full inst))
    let v := v.setReg (Reg.FLT_FIRST blk 2) (w32 v.sec)
    let v := v.setReg (Reg.FLT_FIRST blk 3) (w32 v.ns)
    let v := v.setBit (Reg.FLT_STAT blk) 5 true
    { v with flt := { v.flt with cap := sset (fun _ => 0) v.flt.cap blk cls } }
  else v

/-- What a fatal fault takes away waits in the inbox (R396, R407, R409) (log entry 92). -/
def Vp.fatalInput (v : Vp) (blk inst : Nat) : Vp :=
  if deviceLevel blk inst then v.post (.deviceFatal blk inst)
  else
    let v := { v with flt := { v.flt with removed := v.flt.removed ++ [blk * 256 + inst] } }
    v.post (.removal blk inst)

/-- A fault of class `cls` (after escalation) is raised with the condition `c` (R398, R399). -/
def Vp.raiseAs (v : Vp) (blk inst : Nat) (c : Cond) (cls : Nat) (esc : Bool) : Vp :=
  let st := Reg.FLT_STAT blk
  let key := blk * 256 + inst
  let v := { v with flt := { v.flt with
    pend := sset (fun _ => 0) v.flt.pend key (sget (fun _ => 0) v.flt.pend key ||| 2 ^ cls)
    last := sset (fun _ => 0) v.flt.last blk (cls + 4 * (inst % 256)) } }
  let v := v.setBit st (cls - 1) true
  let v := v.setBit st 3 esc
  let v := if cls == 3 && deviceLevel blk inst then v.setBit st 4 true else v
  let v := v.satFld st (8 * cls) 8
  let v := v.capture blk inst c cls esc
  let v := v.post (.event (32 + blk))
  let v := v.hostEntry 2 blk (v.reg st).toNat
  if cls = 3 then v.fatalInput blk inst else v

/-- Conditions of one scope found together count as one fault: the highest class after escalation, the lowest row
(R397). A removed instance raises no further fault (R407). -/
def Vp.raiseAll (v : Vp) (blk inst : Nat) (cs : List Cond) : Vp :=
  match cs with
  | [] => v
  | c0 :: rest =>
    if v.isRemoved blk inst then v
    else
      let low := rest.foldl (fun c d => if d.cause < c.cause then d else c) c0
      let cls := cs.foldl (fun k d => max k (v.escalate blk inst d.cls)) 0
      let esc := cs.any (fun d => v.escalate blk inst d.cls == cls && decide (d.cls < cls))
      v.raiseAs blk inst low cls esc

/-- One fault, found by the block's own logic and shown by the register at `addr` (R398) (log entry 140). -/
def Vp.raise (v : Vp) (blk inst cause cls addr : Nat) : Vp :=
  v.raiseAll blk inst [Cond.own blk cause cls addr]

/-- Does any scope of the block hold a pending fault of class `k`? -/
def Vp.anyPending (v : Vp) (blk k : Nat) : Bool :=
  v.flt.pend.any (fun p => p.1 / 256 == blk && p.2.testBit k)

/-- The status and the capture after the class `k` has been acknowledged where `sel` says (R403). A device-level fatal
fault is acknowledged only by reset (log entry 70). -/
def Vp.ackClass (v : Vp) (blk k : Nat) (sel : Nat → Bool) : Vp :=
  let clr := fun (p : Nat × Nat) =>
    if p.1 / 256 == blk && sel (p.1 % 256) && !(k == 3 && deviceLevel blk (p.1 % 256)) then (p.1, putBit p.2 k false)
    else p
  let v := { v with flt := { v.flt with pend := (v.flt.pend.map clr).filter (fun p => p.2 != 0) } }
  let v := v.setBit (Reg.FLT_STAT blk) (k - 1) (v.anyPending blk k)
  let gone := fun inst => sel inst && !(k == 3 && deviceLevel blk inst)
  let l := sget (fun _ => 0) v.flt.last blk
  let v := if l % 4 = k ∧ gone (l / 4) then v.setBit (Reg.FLT_STAT blk) 3 false else v
  if sget (fun _ => 0) v.flt.cap blk = k ∧ gone (v.fld (Reg.FLT_FIRST blk 1) 16 8) then
    let v := { v with flt := { v.flt with cap := sset (fun _ => 0) v.flt.cap blk 0 } }
    let v := v.setBit (Reg.FLT_STAT blk) 5 false
    [0, 1, 2, 3].foldl (fun v i => v.setReg (Reg.FLT_FIRST blk i) 0) v
  else v

/-- A write to `<BLK>_FLT_ACK` (R403). -/
def Vp.fltAck (v : Vp) (blk : Nat) (w : Word) : Vp :=
  [1, 2, 3].foldl (fun v k => if Machine.bit w (k - 1) then v.ackClass blk k (fun _ => true) else v) v

end Sys2Proof.Machine
end

