-- ==== Sys2Proof/Machine/Loop.lean ====
section
/-!
DEFINITION. The loop engines (R231 to R258): input latch, the loop laws with their saturation, routes, bank swaps,
overruns and the relay tuner.
-/

namespace Sys2Proof.Machine

/-! ### Frame timing used by several blocks -/

/-- FRAME_PERIOD in ns of a PERIOD_SEL code (R14); codes 11 to 15 are reserved and never loaded. -/
def periodNs (sel : Nat) : Nat :=
  match sel with
  | 0 => 5000 | 1 => 6250 | 2 => 8000 | 3 => 10000 | 4 => 12500 | 5 => 16000 | 6 => 20000 | 7 => 25000
  | 8 => 31250 | 9 => 40000 | _ => 50000

/-- FRAME_PERIOD of the VP in ns. -/
def Vp.fp (v : Vp) : Nat := periodNs (v.fld Reg.TIME_FRAME_CFG 0 4)

/-- D_n after B_n in ns (R42). -/
def Vp.dOfs (v : Vp) : Nat := v.fp - 1800

/-- I_n after B_n in ns (R232). -/
def Vp.iOfs (v : Vp) : Nat := v.dOfs - v.fld Reg.LOOP_CFG 0 16

/-- Arm engine `k`'s state. -/
def Vp.arm (v : Vp) (k : Nat) : ArmSt := sget (fun _ => {}) v.arms k
/-- `v` with arm engine `k`'s state set. -/
def Vp.setArm (v : Vp) (k : Nat) (a : ArmSt) : Vp := { v with arms := sset (fun _ => {}) v.arms k a }

/-- The arm engine is enabled: its EN is 1 and it has rings (R40, R41). -/
def Vp.armOn (v : Vp) (k : Nat) : Bool := v.bit (Reg.ARM_CFG k) 0 && v.reg (Reg.ARM_RINGMAP k) != 0

/-- The arm engine is in the running state. -/
def Vp.armRuns (v : Vp) (k : Nat) : Bool := v.armOn k && (v.arm k).running

/-- The arm engines. -/
def armIds : List Nat := List.range 12

/-! ### Numbers (R233, R234) -/

/-- A register as a signed 32-bit number. -/
def Vp.int (v : Vp) (a : Nat) : Int := sgn 32 (v.reg a).toNat

/-- The Q1.30 range. -/
def sat32 (x : Int) : Int := clampI (-2147483648) 2147483647 x
/-- The 40-bit accumulator's range. -/
def sat40 (x : Int) : Int := clampI (-549755813888) 549755813887 x
/-- The product of two Q1.30 values, rounded to 30 fraction bits (R233). -/
def qmul (a b : Int) : Int := (a * b + 536870912) / 1073741824

/-- A value with the saturation flags met on the way, one bit each. -/
structure Flagged where
  val : Int
  flags : Nat

/-- A difference clamped to Q1.30; SAT_IN. -/
def subIn (a b : Int) : Flagged := ⟨sat32 (a - b), if sat32 (a - b) = a - b then 0 else 1⟩
/-- A value clamped to the accumulator; SAT_ACC. -/
def acc (x : Int) (fl : Nat) : Flagged := ⟨sat40 x, fl ||| (if sat40 x = x then 0 else 2)⟩
/-- A gain applied to a value, shifted by the gain exponent (R233). -/
def gain (g x : Int) (gexp : Nat) (fl : Nat) : Flagged := acc (qmul g x * 2 ^ gexp) fl

/-! ### Slots -/

/-- The base of the slot's active bank. -/
def Vp.bankBase (v : Vp) (i : Nat) : Nat :=
  if v.bit (Reg.LOOP_SLOT_CFG i) 8 then Reg.LOOP_B_C0 i else Reg.LOOP_A_C0 i
/-- Coefficient Cj of the active bank. -/
def Vp.coef (v : Vp) (i j : Nat) : Int := v.int (v.bankBase i + 4 * j)
/-- A limit field of Q1.14 as a Q1.30 value (R245). -/
def Vp.limit (v : Vp) (i off lo : Nat) : Int := sgn 16 (v.fld (v.bankBase i + off) lo 16) * 65536
/-- The slot's output limits. -/
def Vp.outLo (v : Vp) (i : Nat) : Int := v.limit i 0x18 0
def Vp.outHi (v : Vp) (i : Nat) : Int := v.limit i 0x18 16
/-- The slot's integrator limits. -/
def Vp.ilimLo (v : Vp) (i : Nat) : Int := v.limit i 0x1C 0
def Vp.ilimHi (v : Vp) (i : Nat) : Int := v.limit i 0x1C 16

/-- `v` with a signed value in a register. -/
def Vp.setInt (v : Vp) (a : Nat) (x : Int) : Vp := v.setReg a (w32 (twos 32 x))

/-- `v` with flags set in the slot's sticky register. -/
def Vp.slotSticky (v : Vp) (i fl : Nat) : Vp := v.orReg (Reg.LOOP_SLOT_STICKY i) fl

/-- The feed-forward term of a slot (R239, R240, R241). -/
def Vp.feedFwd (v : Vp) (i : Nat) (l : SlotLatch) : Flagged :=
  let c := Reg.LOOP_SLOT_CFG i
  let ge := v.fld c 4 3
  let rp := v.int (Reg.LOOP_SLOT_RPREV i)
  let biq := v.bit c 1
  let fm := if v.bit c 2 then gain (v.coef i (if biq then 5 else 2)) l.m ge 0 else ⟨0, 0⟩
  let fr := if v.bit c 3 then
      let d := subIn l.r rp
      gain (v.coef i (if biq then 5 else 3)) d.val ge d.flags
    else ⟨0, 0⟩
  acc (fm.val + fr.val) (fm.flags ||| fr.flags)

/-- The output clamped to OUT_LO and OUT_HI; SAT_OUT. -/
def Vp.outClamp (v : Vp) (i : Nat) (x : Int) : Flagged :=
  let u := clampI (v.outLo i) (v.outHi i) x
  ⟨u, if u = x then 0 else 4⟩

/-- The PI law (R239). -/
def Vp.runPi (v : Vp) (i : Nat) (l : SlotLatch) : Vp :=
  let ge := v.fld (Reg.LOOP_SLOT_CFG i) 4 3
  let integ := v.int (Reg.LOOP_SLOT_INT i)
  let e := subIn l.r l.y
  let kie := gain (v.coef i 1) e.val ge e.flags
  let p := gain (v.coef i 0) e.val ge kie.flags
  let f := v.feedFwd i l
  let sum := acc (integ + kie.val) (p.flags ||| f.flags)
  let itry := clampI (v.ilimLo i) (v.ilimHi i) sum.val
  let fi := if itry = sum.val then 0 else 8
  let s := acc (p.val + itry + f.val) sum.flags
  let wind := (decide (v.outHi i < s.val) && decide (0 < kie.val)) || (decide (s.val < v.outLo i) && decide (kie.val < 0))
  let integ' := if wind then integ else itry
  let fw := if wind then 8 else 0
  let t := acc (p.val + integ' + f.val) s.flags
  let u := v.outClamp i t.val
  let v := (v.setInt (Reg.LOOP_SLOT_INT i) integ').setInt (Reg.LOOP_SLOT_OUT i) u.val
  (v.setInt (Reg.LOOP_SLOT_RPREV i) l.r).slotSticky i (t.flags ||| fi ||| fw ||| u.flags)

/-- The biquad law (R240). -/
def Vp.runBiquad (v : Vp) (i : Nat) (l : SlotLatch) : Vp :=
  let ge := v.fld (Reg.LOOP_SLOT_CFG i) 4 3
  let x1 := v.int (Reg.LOOP_SLOT_X1 i)
  let x2 := v.int (Reg.LOOP_SLOT_X2 i)
  let y1 := v.int (Reg.LOOP_SLOT_Y1 i)
  let y2 := v.int (Reg.LOOP_SLOT_Y2 i)
  let e := subIn l.r l.y
  let fwd := acc ((qmul (v.coef i 0) e.val + qmul (v.coef i 1) x1 + qmul (v.coef i 2) x2) * 2 ^ ge) e.flags
  let a := acc (fwd.val - qmul (v.coef i 3) y1 - qmul (v.coef i 4) y2) fwd.flags
  let f := v.feedFwd i l
  let t := acc (a.val + f.val) (a.flags ||| f.flags)
  let u := v.outClamp i t.val
  let v := (v.setInt (Reg.LOOP_SLOT_X2 i) x1).setInt (Reg.LOOP_SLOT_X1 i) e.val
  let v := (v.setInt (Reg.LOOP_SLOT_Y2 i) y1).setInt (Reg.LOOP_SLOT_Y1 i) u.val
  ((v.setInt (Reg.LOOP_SLOT_OUT i) u.val).setInt (Reg.LOOP_SLOT_RPREV i) l.r).slotSticky i (t.flags ||| u.flags)

/-- The tuner of engine `e`, while it holds a slot. -/
def Vp.tuner (v : Vp) (e : Nat) : Option Tuner := sget (fun _ => none) v.loop.tuner e
/-- `v` with the tuner of engine `e` set. -/
def Vp.setTuner (v : Vp) (e : Nat) (t : Option Tuner) : Vp :=
  { v with loop := { v.loop with tuner := sset (fun _ => none) v.loop.tuner e t } }

/-- The tune of engine `e` ends with STATE `st` (R255): the slot is given back, and an end other than done sets
TUNE_ABORT. -/
def Vp.tuneFree (v : Vp) (e st : Nat) : Vp :=
  match v.tuner e with
  | none => v
  | some t =>
    let v := v.setTuner e none
    let v := v.setFld (Reg.LOOP_E_TUNE_STAT e) 0 3 st
    let v := v.setBit (Reg.LOOP_SLOT_CFG (16 * e + t.slot)) 15 false
    if st = 3 then v else v.setBit Reg.LOOP_STICKY 5 true

/-- The condition of R258 that an end of the tune of engine `e` other than done is. -/
def Vp.tuneCond (v : Vp) (e : Nat) : List Cond :=
  if (v.tuner e).isSome then [Cond.own 4 2 cor (Reg.LOOP_E_TUNE_STAT e)] else []

/-- The tune of engine `e` ends with STATE `st`, by itself: other than done it is a corrected fault (R255, R258). -/
def Vp.tuneEnd (v : Vp) (e st : Nat) : Vp :=
  (v.tuneFree e st).raiseAll 4 e (if st = 3 then [] else v.tuneCond e)

/-- Pi to 40 digits. -/
def piNum : Nat := 31415926535897932384626433832795028841971
def piDen : Nat := 10000000000000000000000000000000000000000

/-- Ku = 4d / (pi * sqrt(a^2 - eps^2)) in unsigned 16.16, saturating; the spec states no rounding (R254). -/
def tuneKu (d a eps : Int) : Nat :=
  let n := (2 ^ 18 * d.toNat) ^ 2 * piDen ^ 2
  let q := piNum ^ 2 * (a * a - eps * eps).toNat
  let k := if q = 0 then 0xFFFFFFFF else isqrt (n / q)
  min 0xFFFFFFFF (if Config.roundUp 2 (n : Int) q then k + 1 else k)

/-- The measured cycles have ended: Tu, a and Ku (R254), or STATE 7 when a is at most eps (R255). -/
def Vp.tuneDone (v : Vp) (e : Nat) (t : Tuner) (nMeas : Nat) : Vp :=
  let a := divAny 3 t.sumA (2 * nMeas)
  let eps := v.int (Reg.LOOP_E_TUNE_HYST e)
  let d := v.int (Reg.LOOP_E_TUNE_AMP e)
  let v := v.setReg (Reg.LOOP_E_TUNE_TU e) (w32 (divAny 4 (t.sumT.num * 256) (t.sumT.den * nMeas)).toNat)
  let v := v.setInt (Reg.LOOP_E_TUNE_A e) a
  if a ≤ eps then v.tuneEnd e 7
  else (v.setReg (Reg.LOOP_E_TUNE_KU e) (w32 (tuneKu d a eps))).tuneEnd e 3

/-- One frame of a tune (R253, R254). -/
def Vp.tuneFrame (v : Vp) (e i : Nat) (l : SlotLatch) (t : Tuner) : Vp :=
  let err := subIn l.r l.y
  let f := v.feedFwd i l
  let eps := v.int (Reg.LOOP_E_TUNE_HYST e)
  let d := v.int (Reg.LOOP_E_TUNE_AMP e)
  let cfg := Reg.LOOP_E_TUNE_CFG e
  let first := !t.started
  let high := if first then decide (0 ≤ err.val)
    else if eps < err.val then true else if err.val < -eps then false else t.high
  let u0 := if first then v.int (Reg.LOOP_SLOT_OUT i) else t.u0
  let s := acc (u0 + (if high then d else -d) + f.val) (err.flags ||| f.flags)
  let u := v.outClamp i s.val
  let v := (v.setInt (Reg.LOOP_SLOT_OUT i) u.val).slotSticky i (s.flags ||| u.flags)
  let changed := !first && high != t.high
  let rise := changed && high
  let now : Rat := (t.t : Rat)
  let cross : Rat := if err.val = t.ePrev then now
    else (now - 1) + ((eps - t.ePrev : Int) : Rat) / ((err.val - t.ePrev : Int) : Rat)
  let mx := if first then err.val else max t.eMax err.val
  let mn := if first then err.val else min t.eMin err.val
  let nSettle := v.fld cfg 0 4
  let nMeas := v.fld cfg 4 4
  let idle := if changed then 0 else t.idle + 1
  let t' := { t with u0 := u0, high := high, started := true, ePrev := err.val, t := t.t + 1, idle := idle, eMax := mx, eMin := mn }
  let t' := match rise, t.lastHigh with
    | true, none => { t' with lastHigh := some cross, eMax := err.val, eMin := err.val }
    | true, some c0 =>
      let n := t.cycles + 1
      let meas := decide (nSettle < n)
      { t' with lastHigh := some cross, cycles := n, eMax := err.val, eMin := err.val
                sumT := if meas then t.sumT + (cross - c0) else t.sumT
                sumA := if meas then t.sumA + (mx - mn) else t.sumA }
    | false, _ => t'
  let v := v.setTuner e (some t')
  let v := v.setFld (Reg.LOOP_E_TUNE_STAT e) 8 8 (min t'.cycles 255)
  let v := v.setFld (Reg.LOOP_E_TUNE_STAT e) 0 3 (if t'.cycles < nSettle then 1 else 2)
  if v.int (Reg.LOOP_E_TUNE_EMAX e) < err.val.natAbs then v.tuneEnd e 4
  else if v.fld cfg 16 16 ≤ idle then v.tuneEnd e 5
  else if nSettle + nMeas ≤ t'.cycles then v.tuneDone e t' nMeas
  else v

/-- A slot tied to an arm that is not running stands at INT_INIT with its histories zero and r_prev = r (R248)
(log entry 62). -/
def Vp.tieSlot (v : Vp) (i : Nat) (l : SlotLatch) : Vp :=
  let c := Reg.LOOP_SLOT_CFG i
  if v.bit c 14 && !v.armRuns (v.fld c 10 4) then
    let v := v.setInt (Reg.LOOP_SLOT_INT i) (sgn 16 (v.fld (Reg.LOOP_SLOT_SRC1 i) 16 16) * 65536)
    let v := (v.setReg (Reg.LOOP_SLOT_X1 i) 0).setReg (Reg.LOOP_SLOT_X2 i) 0
    let v := (v.setReg (Reg.LOOP_SLOT_Y1 i) 0).setReg (Reg.LOOP_SLOT_Y2 i) 0
    v.setInt (Reg.LOOP_SLOT_RPREV i) l.r
  else v

/-- A slot's first run: histories zero and r_prev = r (R242) (log entry 62). -/
def Vp.firstRun (v : Vp) (i : Nat) (l : SlotLatch) : Vp :=
  if v.loop.first.contains i then
    let v := { v with loop := { v.loop with first := v.loop.first.filter (· != i) } }
    let v := (v.setReg (Reg.LOOP_SLOT_X1 i) 0).setReg (Reg.LOOP_SLOT_X2 i) 0
    let v := (v.setReg (Reg.LOOP_SLOT_Y1 i) 0).setReg (Reg.LOOP_SLOT_Y2 i) 0
    v.setInt (Reg.LOOP_SLOT_RPREV i) l.r
  else v

/-- A slot runs the law that STRUCT names (R239, R240). While it is tied to an arm that is not running, the output is
computed from INT_INIT and zero histories, and the state stands at them still afterwards (R248). -/
def Vp.runLaw (v : Vp) (i : Nat) (l : SlotLatch) : Vp :=
  let v := v.tieSlot i l
  (if v.bit (Reg.LOOP_SLOT_CFG i) 1 then v.runBiquad i l else v.runPi i l).tieSlot i l

/-- Slot `i` runs on its inputs: the tuner's frame while that holds the slot, else the slot's law. -/
def Vp.runSlot (v : Vp) (i : Nat) (l : SlotLatch) : Vp :=
  let v := v.firstRun i l
  match v.tuner (i / 16) with
  | some t => if t.slot = i % 16 then v.tuneFrame (i / 16) i l t else v.runLaw i l
  | none => v.runLaw i l

/-! ### Sources (R235 to R238) -/

/-- Is a source code one that R235 lists? -/
def srcOk (c : Nat) : Bool :=
  c == 0 || (decide (0x10 ≤ c) && decide (c ≤ 0x8F)) || (decide (0x100 ≤ c) && decide (c ≤ 0x147)) || decide (0x200 ≤ c)

/-- May a source be waited on (R238)? -/
def srcWaitable (c : Nat) : Bool := (decide (0x10 ≤ c) && decide (c ≤ 0x8F)) || (decide (0x140 ≤ c) && decide (c ≤ 0x147))

/-- The value of a source now, with the frame's analogue samples (R235). -/
def Vp.source (v : Vp) (ain : List AinSample) (c : Nat) : Int :=
  let a := ain.getD (c % 16) { code := 0, ovr := false, sum := 0, n := 0 }
  if c < 0x10 then 0
  else if c ≤ 0x8F then v.int (Reg.LOOP_SP (c - 0x10))
  else if c < 0x110 then a.code * 131072
  else if c < 0x120 then
    (if a.n = 0 then sgn 32 (Config.openNat 1 (c % 16)) else divNear 1 (a.sum * 131072) a.n)
  else if c < 0x140 then sgn 32 (sget (fun _ => (0 : Word)) v.gridWords (c - 0x120)).toNat
  else if c < 0x148 then v.int (Reg.GRID_TLI_VAL (c - 0x140))
  else v.int (Reg.LOOP_SLOT_OUT (c - 0x200))

/-- The flags that latching a source sets in the slot: IN_OVRNG and SRC_LOST (R237, R250). -/
def Vp.sourceFlags (v : Vp) (ain : List AinSample) (i c : Nat) : Nat :=
  if 0x100 ≤ c ∧ c < 0x110 ∧ (ain.getD (c % 16) { code := 0, ovr := false, sum := 0, n := 0 }).ovr then 0x20
  else if 0x200 ≤ c ∧ v.isRemoved 4 ((c - 0x200) / 16) ∧ (c - 0x200) / 16 ≠ i / 16 then 0x100
  else 0

/-- The source codes of a slot: REF, FB, FF. -/
def Vp.refSrc (v : Vp) (i : Nat) : Nat := v.fld (Reg.LOOP_SLOT_SRC0 i) 0 10
def Vp.fbSrc (v : Vp) (i : Nat) : Nat := v.fld (Reg.LOOP_SLOT_SRC0 i) 16 10
def Vp.ffSrc (v : Vp) (i : Nat) : Nat := v.fld (Reg.LOOP_SLOT_SRC1 i) 0 10

/-- Is a source the output of an earlier slot of the same engine (R236)? -/
def earlier (i c : Nat) : Bool := decide (0x200 ≤ c) && (c - 0x200) / 16 == i / 16 && decide (c - 0x200 < i)

/-- An input at the slot's run: an earlier slot's output of this frame, a waited source now, or the latched value. -/
def Vp.inputNow (v : Vp) (i c : Nat) (wait : Bool) (latched : Int) : Int :=
  if earlier i c || wait then v.source [] c else latched

/-- The inputs of slot `i` at its run. -/
def Vp.inputs (v : Vp) (i : Nat) : SlotLatch :=
  let l := sget (fun _ => ({} : SlotLatch)) v.loop.latch i
  let s := Reg.LOOP_SLOT_SRC1 i
  { r := v.inputNow i (v.refSrc i) (v.bit s 10) l.r
    y := v.inputNow i (v.fbSrc i) (v.bit s 11) l.y
    m := v.inputNow i (v.ffSrc i) (v.bit s 12) l.m }

/-- Has source `c` been written since the slot's previous run began (R238)? -/
def Vp.fresh (v : Vp) (i c : Nat) : Bool :=
  decide (sget (fun _ => 0) v.loop.ran i < sget (fun _ => 0) v.loop.wrote c)

/-- Does the slot wait for a source that is not fresh? -/
def Vp.waits (v : Vp) (i : Nat) : Bool :=
  let s := Reg.LOOP_SLOT_SRC1 i
  (v.bit s 10 && !v.fresh i (v.refSrc i)) || (v.bit s 11 && !v.fresh i (v.fbSrc i)) || (v.bit s 12 && !v.fresh i (v.ffSrc i))

/-- A waited-on source has been written (R238). -/
def Vp.noteWrite (v : Vp) (c : Nat) : Vp :=
  { v with loop := { v.loop with seq := v.loop.seq + 1, wrote := sset (fun _ => 0) v.loop.wrote c (v.loop.seq + 1) } }

/-- The next slot of engine `e` to run in this frame. -/
def Vp.engAt (v : Vp) (e : Nat) : Nat := sget (fun _ => 16) v.loop.at_ e

/-- The slot runs in every frame: EN is set, and no uncorrectable error holds it (R231, R258). -/
def Vp.slotOn (v : Vp) (i : Nat) : Bool := v.bit (Reg.LOOP_SLOT_CFG i) 0 && (sget (fun _ => []) v.loop.ecc i).isEmpty

/-- The overrun deadline D_n - 32 ns, in ns after I_n (R249). -/
def Vp.deadline (v : Vp) : Nat := v.fld Reg.LOOP_CFG 0 16 - 32

/-- When slot `i`, started `t` ns after I_n, completes: 64 ns later, and 16 ns for each memory correction (R231, R249). -/
def Vp.slotEnd (v : Vp) (i t : Nat) : Nat := t + 64 + sget (fun _ => 0) v.loop.delay i

/-- How long after I_n engine `e` has run, in ns. -/
def Vp.engClock (v : Vp) (e : Nat) : Nat := sget (fun _ => 0) v.loop.time e

/-- Engine `e` runs its enabled slots in order until one waits, one would complete after the deadline, or all are done
(R231, R238, R249); `fuel` counts slots. -/
def Vp.engGo (e : Nat) : Nat → Vp → Vp
  | 0, v => v
  | fuel + 1, v =>
    let s := v.engAt e
    if 16 ≤ s then v
    else
      let i := 16 * e + s
      if !v.slotOn i then
        engGo e fuel { v with loop := { v.loop with at_ := sset (fun _ => 16) v.loop.at_ e (s + 1) } }
      else if v.waits i || decide (v.deadline < v.slotEnd i (v.engClock e)) then v
      else
        let v := { v with loop := { v.loop with time := sset (fun _ => 0) v.loop.time e (v.slotEnd i (v.engClock e)) } }
        let l := v.inputs i
        let v := { v with loop := { v.loop with
          seq := v.loop.seq + 1
          ran := sset (fun _ => 0) v.loop.ran i (v.loop.seq + 1)
          at_ := sset (fun _ => 16) v.loop.at_ e (s + 1) } }
        let v := (v.runSlot i l).addFld (Reg.LOOP_E_STAT e) 16 16 1
        engGo e fuel v

/-- The completion time of engine `e`, `t` ns after I_n, and the longest (R257). -/
def Vp.engTime (v : Vp) (e t : Nat) : Vp :=
  let r := Reg.LOOP_E_TIME e
  let v := v.setFld r 0 16 (min t 0xFFFF)
  if v.fld r 16 16 < min t 0xFFFF then v.setFld r 16 16 (min t 0xFFFF) else v

/-- The engines. -/
def engIds : List Nat := List.range 32

/-- The enabled slots of an engine. -/
def Vp.slotsOf (v : Vp) (e : Nat) : List Nat := ((List.range 16).map (16 * e + ·)).filter v.slotOn

/-- Engine `e` runs from `t` ns after I_n on, and its completion is timed when every slot has completed. -/
def Vp.engRun (v : Vp) (e t : Nat) : Vp :=
  let v := { v with loop := { v.loop with time := sset (fun _ => 0) v.loop.time e (max t (v.engClock e)) } }
  let v := Vp.engGo e 17 v
  if v.engAt e = 16 then v.engTime e (v.engClock e) else v

/-- At I_n every engine latches every input of its slots (R232, R236), with the flags of R237 and R250, and runs
(log entry 61). -/
def Vp.loopLatch (v : Vp) (ain : List AinSample) : Vp :=
  if v.bit Reg.LOOP_CFG 16 && v.launched && !v.fatal && !v.loop.latched then
    let v0 := v
    let slots := engIds.flatMap v.slotsOf
    let v := slots.foldl (fun v i =>
      let l : SlotLatch := { r := v0.source ain (v0.refSrc i), y := v0.source ain (v0.fbSrc i), m := v0.source ain (v0.ffSrc i) }
      let fl := v0.sourceFlags ain i (v0.refSrc i) ||| v0.sourceFlags ain i (v0.fbSrc i)
        ||| v0.sourceFlags ain i (v0.ffSrc i)
      { v.slotSticky i fl with loop := { v.loop with latch := sset (fun _ => {}) v.loop.latch i l } }) v
    let direct := armIds.foldl (fun d k =>
      let c := v0.fld (Reg.LOOP_RT_CUR k) 0 10
      if c < 0x200 then sset (fun _ => 0) d k (v0.source ain c) else sset (fun _ => 0) d k 0) v.loop.direct
    let v := { v with loop := { v.loop with latched := true, done := false, abandoned := [], direct := direct, at_ := [], time := [] } }
    engIds.foldl (fun v e =>
      if v.isRemoved 4 e then v
      else
        let v := v.setFld (Reg.LOOP_E_STAT e) 16 16 0
        ({ v with loop := { v.loop with at_ := sset (fun _ => 16) v.loop.at_ e 0 } }).engRun e 0) v
  else v

/-- A waiting slot of engine `e` resumes when its source is fresh, `t` ns after I_n (R238). -/
def Vp.loopResume (v : Vp) (e t : Nat) : Vp :=
  if v.loop.latched && !v.loop.done && decide (v.engAt e < 16) && !v.isRemoved 4 e then v.engRun e t else v

/-! ### Routes (R243, R244) -/

/-- A slot whose output a route takes has been abandoned in this frame, or its engine removed (R249, R250)
(log entry 63). -/
def Vp.routeDead (v : Vp) (c : Nat) : Bool :=
  decide (0x200 ≤ c) && (v.loop.abandoned.contains (c - 0x200) || v.isRemoved 4 ((c - 0x200) / 16))

/-- The level that a route delivers: BIAS + SCALE * y, rounded to 16 fraction bits, and whether it was clamped
(R243). -/
def routeLevel (bias scale : Nat) (y : Int) : Nat × Bool :=
  let x := (bias : Int) + divNear 5 ((scale : Int) * y) 1073741824
  if x < 0 then (0, true) else if 0xFFFFFFF < x then (0xFFFFFFF, true) else (x.toNat, false)

/-- The route values of arm `k` are delivered (R243, R244) (log entry 63). -/
def Vp.deliver (v : Vp) (k : Nat) : Vp :=
  let lc := v.fld (Reg.LOOP_RT_LVL k) 0 10
  let v := if v.bit (Reg.LOOP_RT_LVL k) 16 && !v.routeDead lc then
      let (l, cl) := routeLevel (v.fld (Reg.LOOP_RT_BIAS k) 0 28) (v.fld (Reg.LOOP_RT_SCALE k) 0 28)
        (v.int (Reg.LOOP_SLOT_OUT (lc - 0x200)))
      let v := v.setArm k { v.arm k with lvl := l }
      if cl then v.setBit Reg.LOOP_STICKY 3 true else v
    else v
  let cc := v.fld (Reg.LOOP_RT_CUR k) 0 10
  if v.bit (Reg.LOOP_RT_CUR k) 16 && !v.routeDead cc then
    let x := if cc < 0x200 then sget (fun _ => 0) v.loop.direct k else v.int (Reg.LOOP_SLOT_OUT (cc - 0x200))
    let x := if v.bit (Reg.LOOP_RT_CUR k) 17 then sat32 (-x) else x
    v.setArm k { v.arm k with cur := x }
  else v

/-- LOOP_DONE: the routes deliver and the event is posted, `t` ns after I_n (R251) (log entry 61). -/
def Vp.loopDone (v : Vp) (t : Nat) : Vp :=
  let v := armIds.foldl Vp.deliver v
  let v := { v with loop := { v.loop with done := true } }
  let r := Reg.LOOP_DONE_TIME
  let v := v.setFld r 0 16 (min t 0xFFFF)
  let v := if v.fld r 16 16 < min t 0xFFFF then v.setFld r 16 16 (min t 0xFFFF) else v
  v.post (.event 4)

/-! ### Overrun (R249, R250) -/

/-- Engine `e` has not completed at the deadline: the slot under way and every later slot are abandoned (R249); the
first frame of a run raises a fault, the third removes the engine (R250, R406); with a tune that it ends it is one fault
(R397). -/
def Vp.engOverrun (v : Vp) (e : Nat) : Vp :=
  let left := (v.slotsOf e).filter (fun i => decide (v.engAt e ≤ i % 16))
  let v := match left with
    | [] => v
    | i :: _ => if v.waits i then v.slotSticky i 0x80 else v
  let v := left.foldl (fun v i => v.slotSticky i 0x40) v
  let v := { v with loop := { v.loop with abandoned := v.loop.abandoned ++ left, at_ := sset (fun _ => 16) v.loop.at_ e 16 } }
  let v := ((v.inc (Reg.LOOP_E_OVR_CNT e)).inc Reg.LOOP_OVR_TOTAL).setBit Reg.LOOP_STICKY 0 true
  let run : Nat := min (v.fld (Reg.LOOP_E_STAT e) 2 2 + 1) 3
  let v := (v.setBit (Reg.LOOP_E_STAT e) 1 true).setFld (Reg.LOOP_E_STAT e) 2 2 run
  let cs := v.tuneCond e
  (v.tuneFree e 6).raiseAll 4 e (cs ++ (if run = 1 then [Cond.own 4 3 unc (Reg.LOOP_E_STAT e)]
    else if run = 3 then [Cond.own 4 5 fat (Reg.LOOP_E_STAT e)] else []))

/-- The overrun deadline D_n - 32 ns, `t` ns after I_n (R249, R251) (log entry 61). -/
def Vp.loopDeadline (v : Vp) (t : Nat) : Vp :=
  if v.loop.latched && v.bit Reg.LOOP_CFG 16 then
    let v := engIds.foldl (fun v e =>
      if v.isRemoved 4 e then v
      else if v.engAt e < 16 then v.engOverrun e
      else (v.setBit (Reg.LOOP_E_STAT e) 1 false).setFld (Reg.LOOP_E_STAT e) 2 2 0) v
    if v.loop.done then v else v.loopDone t
  else v

/-- The registers of slot `i`'s banks and state that software can write (R245, R242). -/
def eccRegs (i : Nat) : List Nat :=
  Reg.LOOP_SLOT_INT i :: ((List.range 8).map (Reg.LOOP_A_C0 i + 4 * ·) ++ (List.range 8).map (Reg.LOOP_B_C0 i + 4 * ·))

/-- An uncorrectable error in the banks or the state of slot `i` (R258): the slot keeps its output, sets ECC_HELD and
clears EN, which ends its tune; it runs again once all of them are rewritten and EN is set. -/
def Vp.eccHold (v : Vp) (i : Nat) : Vp :=
  let v := (v.slotSticky i 0x400).setBit (Reg.LOOP_SLOT_CFG i) 0 false
  let v := { v with loop := { v.loop with ecc := sset (fun _ => []) v.loop.ecc i (eccRegs i) } }
  if v.bit (Reg.LOOP_SLOT_CFG i) 15 then v.tuneFree (i / 16) 6 else v

/-- The register at `a` has been rewritten (R258). -/
def Vp.eccWrite (v : Vp) (a : Nat) : Vp :=
  { v with loop := { v.loop with
    ecc := (v.loop.ecc.map (fun p => (p.1, p.2.filter (· != a)))).filter (fun p => !p.2.isEmpty) } }

/-- The registers of an engine's removal (R250). -/
def Vp.removeEngine (v : Vp) (e : Nat) : Vp :=
  let v := (v.setBit Reg.LOOP_REMOVED e true).setBit (Reg.LOOP_E_STAT e) 0 true
  (v.setBit Reg.LOOP_STICKY 1 true).tuneEnd e 6

/-- The removal of engine `e` sends an urgent burst: a level route that trips on loss is fed by it (R250). -/
def Vp.lossTrips (v : Vp) (e : Nat) : Bool :=
  armIds.any (fun k =>
    let r := Reg.LOOP_RT_LVL k
    let c := v.fld r 0 10
    v.bit r 16 && v.bit r 17 && decide (0x200 ≤ c) && (c - 0x200) / 16 == e)

/-! ### Bank swaps (R245 to R247) -/

/-- A swap of slot `i` is requested; refused while the tuner holds the slot, which ends the tune (R246, R255). -/
def Vp.swapReq (v : Vp) (i : Nat) : Vp :=
  if v.bit (Reg.LOOP_SLOT_CFG i) 15 || v.loop.startPend.contains i then
    ((v.tuneEnd (i / 16) 6).slotSticky i 0x200)
  else v.setBit (Reg.LOOP_SLOT_CFG i) 9 true

/-- A write to `LOOP_E_SWAP` of engine `e` (R246). -/
def Vp.engSwap (v : Vp) (e : Nat) (w : Word) : Vp :=
  ((List.range 16).filter (fun s => Machine.bit w s)).foldl (fun v s => v.swapReq (16 * e + s)) v

/-- A write to `LOOP_SWAP` (R246). -/
def Vp.allSwap (v : Vp) (w : Word) : Vp :=
  (engIds.filter (fun e => Machine.bit w e)).foldl (fun v e => (v.slotsOf e).foldl Vp.swapReq v) v

/-- A register clamped to limits, and whether it moved. -/
def Vp.clampReg (v : Vp) (a : Nat) (lo hi : Int) : Vp × Bool :=
  let x := v.int a
  let y := clampI lo hi x
  (v.setInt a y, x != y)

/-- Slot `i` swaps: the other bank is active, and the state is brought inside its limits (R246, R247). -/
def Vp.swapSlot (v : Vp) (i : Nat) : Vp :=
  let c := Reg.LOOP_SLOT_CFG i
  let v := (v.setBit c 8 (!v.bit c 8)).setBit c 9 false
  let (v, moved) := if v.bit c 1 then
      let (v, m1) := v.clampReg (Reg.LOOP_SLOT_Y1 i) (v.outLo i) (v.outHi i)
      let (v, m2) := v.clampReg (Reg.LOOP_SLOT_Y2 i) (v.outLo i) (v.outHi i)
      (v, m1 || m2)
    else v.clampReg (Reg.LOOP_SLOT_INT i) (v.ilimLo i) (v.ilimHi i)
  if moved then v.slotSticky i 0x10 else v

/-- Every pending slot swaps at the boundary, all together (R246). -/
def Vp.loopSwaps (v : Vp) : Vp :=
  let pend := (v.regs.filterMap (fun p =>
    if Reg.LOOP_SLOT_CFG 0 ≤ p.1 ∧ p.1 < Reg.LOOP_SLOT_CFG 512 ∧ (p.1 - Reg.LOOP_SLOT_CFG 0) % 0x30 = 0 ∧ Machine.bit p.2 9
    then some ((p.1 - Reg.LOOP_SLOT_CFG 0) / 0x30) else none))
  pend.foldl Vp.swapSlot v

/-! ### The tuner's controls (R252, R255) -/

/-- A start of engine `e`'s tuner on a slot is refused (R252) (log entry 64). -/
def Vp.tuneRefused (v : Vp) (e slot : Nat) : Bool :=
  let i := 16 * e + slot
  !v.bit (Reg.LOOP_SLOT_CFG i) 0 || v.bit (Reg.LOOP_SLOT_CFG i) 9 || (v.tuner e).isSome
    || v.loop.startPend.any (fun j => j / 16 == e)

/-- A write of START takes the slot at the next boundary, or is refused (R252) (log entry 64). -/
def Vp.tuneStart (v : Vp) (e slot : Nat) : Vp :=
  let v := v.setFld (Reg.LOOP_E_TUNE_CTL e) 0 4 slot
  if v.tuneRefused e slot then v.setBit Reg.LOOP_STICKY 4 true
  else { v with loop := { v.loop with startPend := v.loop.startPend ++ [16 * e + slot] } }

/-- At the boundary the tuner takes its slot (R252). -/
def Vp.tuneTake (v : Vp) (i : Nat) : Vp :=
  let e := i / 16
  let t : Tuner :=
    { slot := i % 16, u0 := 0, high := false, started := false, ePrev := 0, t := 0, idle := 0, lastHigh := none,
      cycles := 0, eMax := 0, eMin := 0, sumT := 0, sumA := 0 }
  let v := v.setTuner e (some t)
  let v := v.setReg (Reg.LOOP_E_TUNE_STAT e) (w32 (1 + i % 16 * 16))
  v.setBit (Reg.LOOP_SLOT_CFG i) 15 true

/-- The starts due at the boundary take their slots. -/
def Vp.tuneStarts (v : Vp) : Vp :=
  let l := v.loop.startPend
  let v := { v with loop := { v.loop with startPend := [] } }
  l.foldl Vp.tuneTake v

/-- A tuner whose slot is tied to an arm that has left the running state ends its tune (R255). -/
def Vp.tuneTieCheck (v : Vp) (k : Nat) : Vp :=
  engIds.foldl (fun v e =>
    match v.tuner e with
    | none => v
    | some t =>
      let c := Reg.LOOP_SLOT_CFG (16 * e + t.slot)
      if v.bit c 14 && v.fld c 10 4 == k then v.tuneEnd e 6 else v) v

/-- At a boundary: starts take their slots, then the swaps due happen, and a new frame begins (R246, R252). -/
def Vp.loopBoundary (v : Vp) : Vp :=
  let v := v.tuneStarts.loopSwaps
  { v with loop := { v.loop with latched := false, done := false, delay := [] } }

end Sys2Proof.Machine
end

