-- ==== Sys2Proof/Machine/Store.lean ====
section
/-!
DEFINITION. What outlives a reset: the journal (R412 to R414), the flash and the retire map in it (R438, R445).
-/

namespace Sys2Proof.Machine

/-! ### The journal -/

/-- The address of journal entry `i` (R34, R412). -/
def jrnlAddr (i : Nat) : Nat := 0x04800000 + i % 8192 * 32

/-- Words 0 to 6 of an entry, written now (R412). -/
def Vp.jrnlWords (v : Vp) (seq type blk inst cls d0 d1 d2 : Nat) : List Nat :=
  [seq % 2 ^ 32, type % 256 + blk % 256 * 2 ^ 8 + inst % 256 * 2 ^ 16 + cls % 4 * 2 ^ 24, v.sec % 2 ^ 32, v.ns,
   d0 % 2 ^ 32, d1 % 2 ^ 32, d2 % 2 ^ 32]

/-- The MC writes an entry at the next location (R412, R414) (log entry 109). -/
def Vp.jrnlPut (v : Vp) (type blk inst cls d0 d1 d2 : Nat) : Vp :=
  let seq := (v.reg Reg.SYS_JRNL_SEQ).toNat + 1
  let at_ := v.fld Reg.SYS_JRNL 0 13
  let ws := v.jrnlWords seq type blk inst cls d0 d1 d2
  let v := { v with jrnl := msetWs v.jrnl (jrnlAddr at_) ((ws ++ [crc32Words ws]).map w32) }
  (v.setFld Reg.SYS_JRNL 0 13 (at_ + 1)).setReg Reg.SYS_JRNL_SEQ (w32 seq)

/-- A journal entry within the limit of 16 entries a second, from which FATAL and RESET entries are exempt (R414)
(log entry 109). -/
def Vp.journal (v : Vp) (type blk inst cls d0 d1 d2 : Nat) : Vp :=
  if type = 1 ∨ type = 2 then v.jrnlPut type blk inst cls d0 d1 d2
  else
    let n := if v.jrnlSec = v.sec then v.jrnlCnt else 0
    if n < 16 then ({ v with jrnlSec := v.sec, jrnlCnt := n + 1 }).jrnlPut type blk inst cls d0 d1 d2
    else ({ v with jrnlSec := v.sec }).addFld Reg.SYS_JRNL 16 16 1

/-- The read-back of the last entry failed: the MC writes it again at the next location (R414). What stands in the failed
location the spec does not say (log entry 9). -/
def Vp.jrnlAgain (v : Vp) : Vp :=
  let at_ := v.fld Reg.SYS_JRNL 0 13
  let last := jrnlAddr (at_ + 8191)
  let ws := mgetWs v.jrnl last 8
  let m := msetWs v.jrnl last ((List.range 8).map (fun i => w32 (Config.openNat 18 (v.free + i))))
  ({ v with jrnl := msetWs m (jrnlAddr at_) ws, free := v.free + 8 }).setFld Reg.SYS_JRNL 0 13 (at_ + 1)

/-! ### The flash (R438) -/

/-- What an erased byte of flash reads as (log entry 3). -/
def flashDefault (_ : Nat) : Byte := 0xFF

/-- A byte of flash (log entry 3). -/
def Vp.flashByte (v : Vp) (a : Nat) : Byte := sget flashDefault v.flash a

/-- A little-endian word of flash. -/
def Vp.flashWord (v : Vp) (a : Nat) : Nat :=
  (v.flashByte a).toNat + (v.flashByte (a + 1)).toNat * 2 ^ 8 + (v.flashByte (a + 2)).toNat * 2 ^ 16
    + (v.flashByte (a + 3)).toNat * 2 ^ 24

/-- Bytes are programmed from `a` on: a program clears bits and sets none. -/
def Vp.flashProgram (v : Vp) (a : Nat) : List Nat → Vp
  | [] => v
  | b :: bs =>
    let x := v.flashByte a &&& BitVec.ofNat 8 b
    flashProgram { v with flash := sset flashDefault v.flash a x } (a + 1) bs

/-- The flash from `a` on for `n` bytes is erased. -/
def Vp.flashErase (v : Vp) (a n : Nat) : Vp :=
  { v with flash := v.flash.filter (fun p => decide (p.1 < a) || decide (a + n ≤ p.1)) }

/-- May the MC use the flash: BOOT's fatal fault has not stopped it (R396)? -/
def Vp.flashOn (v : Vp) : Bool := !v.isRemoved 13 0xFF

/-! ### The retire map (R445) -/

/-- The address of copy `c` in sector `s`. -/
def retAddr (s c : Nat) : Nat := 0x01000000 + s * 0x10000 + c * 0x400

/-- Is cell `c` held as retired? -/
def Vp.isRetired (v : Vp) (c : Nat) : Bool := v.retired.testBit c

/-- Words 0 to 129 of a copy. -/
def retWords (rseq retired : Nat) : List Nat :=
  [0x4D475852, rseq % 2 ^ 32] ++ (List.range 128).map (fun i => retired / 2 ^ (32 * i) % 2 ^ 32)

/-- A copy with its CRC as bytes. -/
def retBytes (rseq retired : Nat) : List Nat :=
  let ws := retWords rseq retired
  (ws ++ [crc32Words ws]).flatMap (leBytes 4)

/-- The MC writes a new copy in the sector in use, or, when that is full, erases the other sector and continues there
(R445); RETMAP is entered in the journal (R444) (log entry 113). -/
def Vp.retWrite (v : Vp) : Vp :=
  if v.flashOn then
    let rseq := (v.reg Reg.BOOT_RETMAP).toNat + 1
    let full := decide (64 ≤ v.retNext)
    let s := if full then 1 - v.retSector else v.retSector
    let c := if full then 0 else v.retNext
    let v := if full then v.flashErase (retAddr s 0) 0x10000 else v
    let v := v.flashProgram (retAddr s c) (retBytes rseq v.retired)
    let v := { v with retSector := s, retNext := c + 1 }
    let v := v.setReg Reg.BOOT_RETMAP (w32 rseq)
    v.journal 8 13 0xFF 0 6 0 (v.reg Reg.BOOT_VERSION).toNat
  else v

/-- The flash has not answered during the write of a copy (R454): the copy written last does not stand in it, and the one
before it is the copy in use (log entry 140). -/
def Vp.retLost (v : Vp) : Vp :=
  if v.retNext = 0 then v
  else
    let a := retAddr v.retSector (v.retNext - 1)
    let v := v.flashErase a 0x400
    v.setReg Reg.BOOT_RETMAP (v.reg Reg.BOOT_RETMAP - 1)

/-- Cell `c` has entered Retired in an acknowledged report: it is added to the map (R104, R445) (log entry 109). -/
def Vp.retAdd (v : Vp) (c : Nat) : Vp :=
  if v.isRetired c then v else ({ v with retired := putBit v.retired c true }).retWrite

/-- The RSEQ of the good copy at (`s`, `c`), if there is one. -/
def Vp.retGood (v : Vp) (s c : Nat) : Option Nat :=
  let a := retAddr s c
  if v.flashWord a = 0x4D475852 then
    let ws := (List.range 130).map (fun i => v.flashWord (a + 4 * i))
    if crc32Words ws = v.flashWord (a + 520) then some (v.flashWord (a + 4)) else none
  else none

/-- The bitmap of the copy at (`s`, `c`). -/
def Vp.retBitmap (v : Vp) (s c : Nat) : Nat :=
  (List.range 128).foldl (fun n i => n + v.flashWord (retAddr s c + 8 + 4 * i) * 2 ^ (32 * i)) 0

/-- At start-up the MC takes the copy with the highest RSEQ and a good CRC (R445) (log entry 3). -/
def Vp.retLoad (v : Vp) : Vp :=
  let best := (List.range 128).foldl (fun (b : Option (Nat × Nat)) i =>
    match v.retGood (i / 64) (i % 64), b with
    | none, _ => b
    | some r, none => some (r, i)
    | some r, some (r', _) => if r' < r then some (r, i) else b) none
  match best with
  | none => { v with retired := 0, retSector := 0, retNext := 0 }
  | some (r, i) =>
    ({ v with retired := v.retBitmap (i / 64) (i % 64), retSector := i / 64, retNext := i % 64 + 1 }).setReg
      Reg.BOOT_RETMAP (w32 r)

end Sys2Proof.Machine
end

