-- ==== Sys2Proof/Machine/Stream.lean ====
section
/-!
DEFINITION. The stream to the partner (R182, R419, R421): the order in which its messages leave, and how many of their
blocks have left.
-/

namespace Sys2Proof.Machine

/-- A control block of the exchange (R419): its content closed by the CRC-8. -/
def peerCtl (typ content : Nat) : Block := .ctrl typ (withCrc8 content)

/-- Data blocks beyond the first 16 continue in SEG messages of up to 16, each naming the index of its first (R419). -/
def segRest : Nat → Nat → List Nat → List Block
  | 0, _, _ => []
  | fuel + 1, i, ds =>
    if ds.isEmpty then []
    else peerCtl 0xBE (i % 2 ^ 16) :: (ds.take 16).map .data ++ segRest fuel (i + 16) (ds.drop 16)

/-- A message of a control block and its data blocks, with the SEG messages that it needs (R419). -/
def peerMsg (typ content : Nat) (ds : List Nat) : List Block :=
  peerCtl typ content :: (ds.take 16).map .data ++ segRest ds.length 16 (ds.drop 16)

/-- Bytes as blocks of eight, the first byte lowest; `fuel` counts blocks. -/
def byteBlocks : Nat → List Nat → List Nat
  | 0, _ => []
  | n + 1, bs =>
    if bs.isEmpty then [] else (bs.take 8).reverse.foldl (fun a b => a * 256 + b) 0 :: byteBlocks n (bs.drop 8)

/-- The header of a host frame as HOSTX carries it (R362): TYPE, TAG, LEN, COUNT, STATUS, EPOCH, the token byte, and the port
that it concerns in byte 28 (log entry 91). -/
def hostHead (typ tag len count status epoch token port : Nat) : List Nat :=
  [1, typ % 256] ++ leBytes 2 tag ++ leBytes 2 len ++ [count % 256, status % 256] ++ leBytes 8 epoch ++ leBytes 8 0
    ++ [0, 0, token % 256, 0, port % 256, 0, 0, 0]

/-- A write item as bytes (R373). -/
def WItem.bytes (x : WItem) : List Nat :=
  leBytes 4 x.addr ++ [(if x.mode = 0 then x.data.length else x.data.length / 2) % 256, x.mode % 256, 0, 0]
    ++ x.data.flatMap (fun w => leBytes 4 w.toNat)

/-- A command as bytes (R378). -/
def HCmd.bytes (c : HCmd) : List Nat := [c.op % 256, 0] ++ leBytes 2 c.arg ++ leBytes 4 c.val.toNat

/-- The host frame of a bundle (R362, R373, R378). -/
def Bundle.bytes (b : Bundle) : List Nat :=
  let body := if b.cmd then b.cmds.flatMap HCmd.bytes else b.items.flatMap WItem.bytes
  hostHead (if b.cmd then 3 else 2) b.tag body.length (if b.cmd then b.cmds.length else b.items.length) 0 b.target 0 b.port
    ++ body

/-- The host frame that a HOSTX carries (R419): the request forwarded, a response to it, a CANCEL, a TOKEN request, or its
response (log entry 91). -/
def HostX.bytes : HostX → List Nat
  | .forward b => b.bytes
  | .confirm p tag => hostHead 0x82 tag 0 0 0 0 0 p
  | .refuse p tag => hostHead 0x82 tag 0 0 9 0 0 p
  | .withdraw p tag => hostHead 5 0 2 0 0 0 0 p ++ leBytes 2 tag
  | .tokenReq p op => hostHead 4 0 1 0 0 0 0 p ++ [op % 256]
  | .tokenIs p ok holder =>
    hostHead 0x84 0 0 0 (if ok then 0 else 1) 0 (match holder with
      | some (q, b) => q % 4 + 4 * b2n b + 128
      | none => 0) p

/-- The blocks of a message sent in frame `frame` (R419, R420); the order of a SNAP's data is the model's choice (log
entry 85). -/
def PeerMsg.blocks (frame : Nat) : PeerMsg → List Block
  | .trip s => [peerCtl 0xD7 (s % 64)]
  | .fwd b => [.data b]
  | .rfh m f =>
    peerMsg 0xB4 (m % 16 + b2n f.up * 2 ^ 4 + b2n f.wrapped * 2 ^ 5 + f.t % 2 ^ 24 * 2 ^ 6 + frame % 256 * 2 ^ 30
      + b2n f.first * 2 ^ 38) (f.sent % 2 ^ 24 :: bitmapBlocks f.held)
  | .rtv xs =>
    peerMsg 0xB8 (frame % 256 + xs.foldl (fun b x => putBit b x.1 true) 0 * 2 ^ 8)
      (xs.map (fun x => x.2.1 % 2 ^ 28 + twos 32 x.2.2 * 2 ^ 32))
  | .dig ds =>
    peerMsg 0xC3 (frame % 256 + ds.foldl (fun b x => putBit b x.1 true) 0 * 2 ^ 8) (ds.map (fun x => x.2 % 2 ^ 32))
  | .pst p =>
    peerMsg 0xCC (p.frame % 256 + p.gen % 256 * 2 ^ 8 + b2n p.active * 2 ^ 16 + b2n p.role * 2 ^ 17 + b2n p.formed * 2 ^ 18
        + b2n p.solo * 2 ^ 19 + b2n p.sealOpen * 2 ^ 20 + p.arms % 2 ^ 12 * 2 ^ 21)
      (p.rings.map (fun r => r.ring % 16 + r.t % 2 ^ 24 * 2 ^ 4 + r.wrap % 256 * 2 ^ 28 + b2n r.wrapV * 2 ^ 36))
  | .snap s =>
    let ds := b2n s.dir :: s.cells.flatMap (fun c => [(c.2.getD 0 0).toNat + (c.2.getD 1 0).toNat * 2 ^ 32,
      (c.2.getD 2 0).toNat + (c.2.getD 3 0).toNat * 2 ^ 32])
    peerMsg 0xD2 (s.arm % 16 + s.at_ % 2 ^ 32 * 2 ^ 4 + ds.length % 2 ^ 12 * 2 ^ 36) ds
  | .hostx x =>
    let bs := x.bytes
    let ds := byteBlocks bs.length bs
    peerMsg 0xDB (ds.length % 2 ^ 16) ds
  | .packet _ bs => bs
  | .cfgd d r => [peerCtl 0xE1 (d % 2 ^ 32 + b2n r * 2 ^ 32)]

/-- Is a message one of the third class of R421 of which no block has left? -/
def PeerOut.waits (o : PeerOut) : Bool :=
  match o.msg with
  | .trip _ | .fwd _ => false
  | _ => !o.begun

/-- A message joins those that have not left (R421): a TRIP ahead of every block not yet begun, a forwarded report behind
those that wait already and ahead of every other message not begun, and every other message at the end. -/
def peerJoin (o : PeerOut) (q : List PeerOut) : List PeerOut :=
  match o.msg with
  | .trip _ =>
    let isTrip := fun (x : PeerOut) => match x.msg with
      | .trip _ => true
      | _ => false
    q.takeWhile isTrip ++ o :: q.dropWhile isTrip
  | .fwd _ => q.takeWhile (fun x => !x.waits) ++ o :: q.dropWhile (fun x => !x.waits)
  | _ => q ++ [o]

/-- The stream after `n` blocks have left. -/
def peerDrain : List PeerOut → Nat → List PeerOut
  | [], _ => []
  | o :: q, n =>
    if n < o.left.length then { o with left := o.left.drop n, begun := o.begun || n != 0 } :: q
    else peerDrain q (n - o.left.length)

/-- The lanes of the bundle that carry payload (R182, R184). -/
def Vp.peerLanes (v : Vp) : Nat := popc 4 (v.fld Reg.LANE_PEER_STAT 0 4)

/-- `n` ticks let blocks leave: each lane one in 6.4 ns (R182) (log entry 149). -/
def Vp.peerTicks (v : Vp) (n : Nat) : Vp :=
  if v.peer.out.isEmpty then v
  else
    let k := 5 * v.peerLanes
    { v with peer := { v.peer with out := peerDrain v.peer.out ((v.up + n) * k / 8 - v.up * k / 8) } }

/-- A message for the partner joins the stream (R421). -/
def Vp.peerSend (v : Vp) (m : PeerMsg) : Vp := 
  { v with peer := { v.peer with out := peerJoin { msg := m, left := m.blocks v.frameNo } v.peer.out } }

/-- A HOSTX is sent (R369, R377). -/
def Vp.hostxSend (v : Vp) (x : HostX) : Vp :=
  ({ v with host := { v.host with hostx := some x } }).peerSend (.hostx x)

end Sys2Proof.Machine
end

