-- ==== Sys2Proof/Machine/Ring.lean ====
section
/-!
DEFINITION. The rings at the valve processor: reports and copies (R134, R150, R210), the two timing conditions (R26 to
R29), classification, dark cells and breaks (R150), enumeration (R152), management packets (R137 to R141) and the close
of a hop (R153).
-/

namespace Sys2Proof.Machine

/-! ### The rings and the pair -/

/-- Ring `m`'s state. -/
def Vp.ring (v : Vp) (m : Nat) : RingSt := sget (fun _ => {}) v.rings m
/-- `v` with ring `m`'s state set. -/
def Vp.setRing (v : Vp) (m : Nat) (r : RingSt) : Vp := { v with rings := sset (fun _ => {}) v.rings m r }
/-- `v` with ring `m`'s state changed. -/
def Vp.updRing (v : Vp) (m : Nat) (f : RingSt → RingSt) : Vp := v.setRing m (f (v.ring m))

/-- The rings. -/
def ringIds : List Nat := List.range 16
/-- The positions of a ring. -/
def positions (n : Nat) : List Nat := List.range n

/-- NCELL_CFG (R120). -/
def Vp.ncell (v : Vp) (m : Nat) : Nat := v.fld (Reg.RING_CFG m) 0 9
/-- The chip index (R441). -/
def Vp.chip (v : Vp) : Nat := v.fld Reg.BOOT_IDENT 0 6
/-- STATE of a ring (R155): 0 disabled, 1 training, 2 enumerating, 3 running. -/
def Vp.ringSt (v : Vp) (m : Nat) : Nat := v.fld (Reg.RING_STATE m) 0 2
/-- The ring carries frame trains (R18, R152). -/
def Vp.ringUp (v : Vp) (m : Nat) : Bool := v.bit Reg.RING_EN m && !v.isRemoved 6 m && decide (2 ≤ v.ringSt m)
/-- The arm whose map names the ring, if there is one (R39, R40). -/
def Vp.armOfRing (v : Vp) (m : Nat) : Option Nat := armIds.find? (fun k => v.bit (Reg.ARM_RINGMAP k) m)
/-- The rings of arm `k`. -/
def Vp.ringsOf (v : Vp) (k : Nat) : List Nat := ringIds.filter (fun m => v.bit (Reg.ARM_RINGMAP k) m)
/-- The APPLY_OFFSET of a ring in ns (R39, R40). -/
def Vp.applyOfs (v : Vp) (m : Nat) : Nat :=
  match v.armOfRing m with
  | some k => v.fld (Reg.TIME_APPLY k) 0 16
  | none => v.fp - 1500

/-- Paired mode (R441). -/
def Vp.paired (v : Vp) : Bool := v.bit Reg.PEER_CFG 0
/-- The VP works with a partner: paired and not solo (R417, R430). -/
def Vp.pairMode (v : Vp) : Bool := v.paired && v.bit Reg.PEER_STAT 2 && !v.bit Reg.PEER_STAT 4
/-- The VP holds the active role (R136). -/
def Vp.active (v : Vp) : Bool := !v.paired || v.bit Reg.PEER_STAT 1
/-- The VP is VP-B. -/
def Vp.isB (v : Vp) : Bool := v.paired && v.bit Reg.PEER_STAT 0
/-- The VP launches trains in a direction (R32): both, or in paired mode its own. -/
def Vp.owns (v : Vp) (up : Bool) : Bool := !v.paired || v.isB == up

/-! ### The cell state table (R36, R75, R154) -/

/-- Word `w` of a cell's entry in the bank being filled. -/
def Vp.cw (v : Vp) (cell w : Nat) : Word := sget (fun _ => (0 : Word)) v.cst (16 * cell + w)
/-- `v` with a word of an entry set. -/
def Vp.setCw (v : Vp) (cell w : Nat) (x : Word) : Vp :=
  { v with cst := sset (fun _ => (0 : Word)) v.cst (16 * cell + w) x }
/-- A field of an entry. -/
def Vp.cf (v : Vp) (cell w lo len : Nat) : Nat := Machine.fld (v.cw cell w) lo len
/-- `v` with a field of an entry set. -/
def Vp.setCf (v : Vp) (cell w lo len x : Nat) : Vp := v.setCw cell w (Machine.setFld (v.cw cell w) lo len x)
/-- `v` with a field of an entry counted up, saturating. -/
def Vp.satCf (v : Vp) (cell w lo len n : Nat) : Vp :=
  v.setCf cell w lo len (min (v.cf cell w lo len + n) (2 ^ len - 1))
/-- `v` with a word of an entry counted up, wrapping. -/
def Vp.incCw (v : Vp) (cell w : Nat) : Vp := v.setCw cell w (v.cw cell w + 1)

/-- Is the cell enumerated? -/
def Vp.present' (v : Vp) (cell : Nat) : Bool := v.cf cell 2 24 1 == 1
/-- The cell's last acknowledged report (log entry 50). -/
def Vp.lastRep (v : Vp) (cell : Nat) : Nat := (v.cw cell 0).toNat + (v.cw cell 1).toNat * 2 ^ 32
/-- The enumerated cells of a ring. -/
def Vp.cellsOfRing (v : Vp) (m : Nat) : List Nat := ((positions 256).map (256 * m + ·)).filter v.present'

/-! ### Latencies and the timing conditions (R26, R27, R210) -/

/-- A published latency: T, whether the turned copy gave it, and the position that turned it (R126, R210). -/
structure Pub where
  t : Nat
  wrap : Bool
  pos : Nat
  deriving DecidableEq, Repr

/-- T of a train of which no copy returned. -/
def noT : Nat := 0xFFFFFF

/-- The highest set bit of the low `n` bits; 0 for none. -/
def topBit : Nat → Nat → Nat
  | 0, _ => 0
  | n + 1, x => if x.testBit n then n else topBit n x

/-- The lowest set bit of the low 256 bits; 0 for none. -/
def lowBit (x : Nat) : Nat := ((List.range 256).find? (fun i => x.testBit i)).getD 0

/-- A copy that the partner reports in an RFH (R126, R419): its T, and the HOP that it carried, which no message tells; the
cell that turned it is the farthest on its way of those whose slots it carries (log entry 147). -/
def Rfh.copy (n : Nat) (f : Rfh) : Nat × Copy :=
  (2 * b2n f.up + b2n f.wrapped, { t := f.t, hop := if f.up then n - lowBit f.held else topBit 256 f.held + 1 })

/-- The copies of this frame that have returned: at this VP, and in paired mode at its partner, as the partner's RFHs say
(R126, R147, R150). -/
def Vp.copiesOf (v : Vp) (m : Nat) : List (Nat × Copy) :=
  let r := v.ring m
  (r.rfhPeer.filter (fun f => f.t != 0xFFFFFF)).foldl (fun cs f =>
    let c := f.copy (v.ncell m)
    if (cs.lookup c.1).isSome then cs else sput c.1 c.2 cs) r.copies

/-- What a ring publishes for one launch direction (R210); in paired mode both VPs publish the same (R126). -/
def Vp.pub (v : Vp) (m : Nat) (up : Bool) : Pub :=
  let k := 2 * b2n up
  let cs := v.copiesOf m
  match cs.lookup k, cs.lookup (k + 1) with
  | some c, _ => ⟨c.t, false, 0⟩
  | none, some c => ⟨c.t, true, if up then v.ncell m - c.hop else c.hop - 1⟩
  | none, none => ⟨noT, false, 0⟩

/-- T_ring in units of 62.5 ps: the longer of the latencies of the trains that return (R147). -/
def tRing (dn up : Nat) : Nat := max (if dn = noT then 0 else dn) (if up = noT then 0 else up)

/-- R27 in units of 62.5 ps. -/
def applyOk (applyNs dn up : Nat) : Bool := decide (tRing dn up + 3200 ≤ applyNs * 16)

/-- A condition found in the traffic of a ring's lanes (R400, R401) (log entry 73). -/
def ringCond (cause cls addr : Nat) : Cond := { cause := cause, cls := cls, addr := addr, access := 4, master := 0x36 }

/-- The register that R156 names for a failure of R27. -/
def longerReg (m dn up : Nat) : Nat :=
  if (if up = noT then 0 else up) ≤ (if dn = noT then 0 else dn) then Reg.RING_TDN m else Reg.RING_TUP m

/-- The check of R28 on a ring: the flags it sets, its conditions, and whether it passes. A ring that fails it counts as
failing from this frame on, so that R29 raises no further fault while the failure lasts (log entry 73). -/
def Vp.check28 (v : Vp) (m : Nat) : Vp × List Cond :=
  let dn := (v.reg (Reg.RING_TDN m)).toNat
  let up := (v.reg (Reg.RING_TUP m)).toNat
  let ok26 := decide ((v.reg (Reg.RING_TREP m)).toNat ≤ v.dOfs)
  let ok27 := applyOk (v.applyOfs m) dn up
  let v := if ok26 then v else v.setBit (Reg.RING_STICKY m) 12 true
  let v := if ok27 then v else v.setBit (Reg.RING_STICKY m) 13 true
  let bad := !(ok26 && ok27)
  let v := v.updRing m (fun r => { r with
    checked := !bad, recheck := false, failNow := r.failNow || bad, failing := r.failing || bad })
  (v, (if ok26 then [] else [ringCond 10 unc (Reg.RING_TREP m)])
    ++ (if ok27 then [] else [ringCond 10 unc (longerReg m dn up)]))

/-- The fault of R29 for a ring that has begun to fail R26 or R27, unless a change of classification is under way, at
whose evaluation it is then raised. -/
def Vp.ringFails (v : Vp) (m : Nat) (addr : Nat) : Vp :=
  let r := v.ring m
  let v := v.setRing m { r with failNow := true }
  if r.failing ∨ v.ringSt m ≠ 3 then v
  else if r.seenTopo ≠ r.evalTopo then v.updRing m (fun r => { r with failWait := addr })
  else (v.updRing m (fun r => { r with failing := true })).raiseAll 6 m [ringCond 10 unc addr]

/-! ### Breaks (R150, R155) -/

/-- A break as `RING_BRK` shows it (log entry 72). -/
def brkWord (loc kind : Nat) : Nat := loc % 512 + 2 ^ 9 + kind * 2 ^ 10

/-- The breaks that the last good reports and the wrap positions show (R150) (log entry 72). -/
def Vp.locate (v : Vp) (m topo : Nat) : List Nat :=
  let n := v.ncell m
  let ps := (positions n).filter (fun p => v.present' (256 * m + p))
  match topo with
  | 2 =>
    match ps.find? (fun p => v.cf (256 * m + p) 8 7 1 == 1) with
    | some p => [brkWord p 0]
    | none => [brkWord n 0]
  | 1 =>
    match ps.reverse.find? (fun p => v.cf (256 * m + p) 8 8 1 == 1) with
    | some p => [brkWord (p + 1) 1]
    | none => [brkWord 0 1]
  | 3 =>
    let a := v.pub m false
    let b := v.pub m true
    if a.wrap && b.wrap then
      if b.pos = a.pos + 1 then [brkWord b.pos 2]
      else if b.pos = a.pos + 2 then [brkWord (a.pos + 1) 3]
      else [brkWord (a.pos + 1) 2, brkWord b.pos 2]
    else if a.wrap then [brkWord (a.pos + 1) 2]
    else if b.wrap then [brkWord b.pos 2]
    else []
  | _ => []

/-- A hop's state at the VP. -/
def Vp.hop (v : Vp) (m h : Nat) : HopSt := sget (fun _ => {}) (v.ring m).hops h
/-- `v` with a hop's state changed. -/
def Vp.updHop (v : Vp) (m h : Nat) (f : HopSt → HopSt) : Vp :=
  v.updRing m (fun r => { r with hops := sset (fun _ => {}) r.hops h (f (sget (fun _ => {}) r.hops h)) })

/-- The hops of a located break are broken, and their first retraining attempt follows BASE ms later (R153)
(log entry 144). -/
def Vp.breakHops (v : Vp) (m w : Nat) : Vp :=
  let base := v.fld Reg.RING_RETRAIN_CFG 0 16
  let hs := if w / 2 ^ 10 % 4 = 3 then [w % 512, w % 512 + 1] else [w % 512]
  hs.foldl (fun v h =>
    if (v.hop m h).broken then v
    else
      (v.updHop m h (fun _ => { broken := true, wait := base })).setFld (Reg.RING_RETRY m) 16 16 base) v

/-- A located break enters `RING_BRK`, unless one at that place stands there already (log entry 72). -/
def Vp.addBreak (v : Vp) (m w : Nat) : Vp :=
  let r := (v.reg (Reg.RING_BRK m)).toNat
  if (r % 65536).testBit 9 ∧ r % 512 = w % 512 then v
  else if (r / 65536).testBit 9 ∧ r / 65536 % 512 = w % 512 then v
  else if !(r % 65536).testBit 9 then v.setFld (Reg.RING_BRK m) 0 16 w
  else if !(r / 65536).testBit 9 then v.setFld (Reg.RING_BRK m) 16 16 w
  else v

/-- The breaks of a hop are closed (R155): those at the hop, and a lost cell at either side of it. -/
def Vp.clearBreak (v : Vp) (m hop : Nat) : Vp :=
  let at_ := fun w => w % 512 = hop ∨ (w / 2 ^ 10 % 4 = 3 ∧ w % 512 + 1 = hop)
  let r := (v.reg (Reg.RING_BRK m)).toNat
  let v := if at_ (r % 65536) then v.setFld (Reg.RING_BRK m) 0 16 0 else v
  if at_ (r / 65536) then v.setFld (Reg.RING_BRK m) 16 16 0 else v

/-! ### Reports (R134) -/

/-- A late report: counted, flagged, and a failure of R26 (R29) (log entry 59). -/
def Vp.lateReport (v : Vp) (m cell : Nat) : Vp :=
  let v := ((v.inc (Reg.RING_LATE_CNT m)).setBit (Reg.RING_STICKY m) 3 true).incCw cell 11
  (v.setCf cell 8 3 1 1).ringFails m (Reg.RING_TREP m)

/-- Whether the report held for a position shows ENUM_ERR (R152, R155, R156): a cell that begins to show it sets the flag;
enumeration under way fails with it, and on a running ring it is a fault of its own (log entry 148). -/
def Vp.noteEnumErr (v : Vp) (m p : Nat) (bad : Bool) : Vp :=
  let was := (v.ring m).enumBad.testBit p
  let v := v.updRing m (fun r => { r with
    enumBad := putBit r.enumBad p bad, enumErr := r.enumErr || (bad && r.enumOn) })
  if !bad then v
  else
    let v := v.setBit (Reg.RING_STICKY m) 1 true
    if was || v.ringSt m != 3 then v else v.raiseAll 6 m [ringCond 9 unc (Reg.RING_STICKY m)]

/-- A good copy of a report is the first of the frame (R134) (log entry 59). -/
def Vp.firstCopy (v : Vp) (m p arr slot : Nat) : Vp :=
  let cell := 256 * m + p
  let late := decide (v.dOfs < arr) || v.decided
  let v := { v with held := sset (fun _ => {}) v.held cell { val := slot, arr := arr, inTime := !late } }
  let v := v.setCf cell 9 0 24 arr
  let conf := repState slot != 0
  -- a cell that comes back Unconfigured has lost its configuration (R153)
  let back := !conf && sget (fun _ => 0) (v.ring m).gone p != 0
  let v := if back then v.updRing m (fun r => { r with cfgDone := r.cfgDone.filter (· != p) }) else v
  let v := if conf then (v.setCf cell 8 7 1 (b2n (repLosP slot))).setCf cell 8 8 1 (b2n (repLosS slot)) else v
  let v := v.updRing m (fun r => { r with gone := sset (fun _ => 0) r.gone p (if conf then 1 else 0) })
  let v := v.noteEnumErr m p (!conf && repEnumErr slot)
  if late then v.lateReport m cell else v

/-- Is a report of the cell held in this frame? -/
def Vp.holds (v : Vp) (cell : Nat) : Bool := v.held.any (fun h => h.1 == cell)

/-- Does an in-time report of an enumerated cell show Retired for the first time? In single-VP mode and solo it is then
acknowledged (R47), and the retire map is written (R445). -/
def Vp.noteRetired (v : Vp) (cell slot : Nat) : Vp :=
  if repState slot = 4 then v.retAdd cell else v

/-- A later copy of a report differs from the first (R134). The comparisons of a ring's copies of one frame count as one
evaluation, and so as one fault (R397, log entry 12). -/
def Vp.copyDiffers (v : Vp) (m cell : Nat) : Vp :=
  let v := ((v.inc (Reg.RING_DIFF_CNT m)).setBit (Reg.RING_STICKY m) 8 true).setCf cell 8 5 1 1
  if (v.ring m).diffNow then v
  else (v.updRing m (fun r => { r with diffNow := true })).raiseAll 6 m [ringCond 7 cor (Reg.RING_DIFF_CNT m)]

/-- A slot arrives in a returned copy (R134): `arr` is the time after B_n at which it is held, in ns
(log entries 15, 59). -/
def Vp.reportIn (v : Vp) (m p : Nat) (up wrapped : Bool) (arr slot : Nat) : Vp :=
  if !v.ringUp m || decide (v.ncell m ≤ p) then v
  else
    let cell := 256 * m + p
    let v := v.updRing m (fun r => { r with seen := putBit r.seen p true })
    if !crc16Ok slot (nodeId v.chip m p) v.frameNo then
      let v := (v.addFld (Reg.RING_CRC_CNT m) 16 16 1).incCw cell 10
      (v.setCf cell 8 4 1 1).updRing m (fun r => { r with crcBad := putBit r.crcBad p true })
    else
      let key := 2 * b2n up + b2n wrapped
      let v := v.updRing m (fun r => { r with
        copyHeld := sset (fun _ => 0) r.copyHeld key (putBit (sget (fun _ => 0) r.copyHeld key) p true) })
      let v := v.setCf cell 8 (b2n up) 1 1
      if v.holds cell then
        if (sget (fun _ => {}) v.held cell).val = slot then v
        else v.copyDiffers m cell
      else
        let v := v.firstCopy m p arr slot
        if !v.pairMode && (sget (fun _ => {}) v.held cell).inTime then v.noteRetired cell slot else v

/-- A report that the partner forwards (R420): held as R134 lays down for a report from the partner. -/
def Vp.reportFwd (v : Vp) (m p arr rep : Nat) : Vp :=
  if !v.ringUp m || decide (v.ncell m ≤ p) then v
  else
    let cell := 256 * m + p
    let slot := withCrc16 rep (nodeId v.chip m p) v.frameNo
    let v : Vp := { v.setCf cell 8 2 1 1 with peer := { v.peer with fwdIn := v.peer.fwdIn + 1 } }
    if v.holds cell then
      if (sget (fun _ => {}) v.held cell).val = slot then v
      else v.copyDiffers m cell
    else v.firstCopy m p arr slot

/-! ### Copies of trains (R145, R150, R210) -/

/-- Blocks that a receiver of the ring acts on in no way: control blocks with a bad CRC-8, EMPTY blocks whose bytes do not
complement each other, reserved types and bad headers (R123, R145). -/
def Vp.blockErrs (v : Vp) (m n : Nat) : Vp := if n = 0 then v else v.addFld (Reg.RING_CRC_CNT m) 0 16 n

/-- A copy of a train returns with its SOT: `t` is its return latency in units of 62.5 ps and `hop` the HOP it carries;
`errs` bad blocks came with it. A copy whose TRAIN_CRC fails is counted and raises a corrected fault; one whose SOT is bad
is no copy (R145) (log entry 12). -/
def Vp.copyIn (v : Vp) (m : Nat) (up wrapped : Bool) (t hop : Nat) (sotOk crcOk : Bool) (errs : Nat) : Vp :=
  if !v.ringUp m then v
  else
    let v := v.blockErrs m (errs + b2n (!sotOk))
    if !sotOk then v
    else
    let v := if crcOk then v
      else (v.addFld (Reg.RING_CRC_CNT m) 0 16 1).raiseAll 6 m [ringCond 2 cor (Reg.RING_CRC_CNT m)]
    if v.decided then v
    else
      let key := 2 * b2n up + b2n wrapped
      v.updRing m (fun r => { r with copies := sput key { t := t, hop := hop } r.copies })

/-! ### Evaluation at D_n (R150) -/

/-- The topology that the returned copies show, those that the partner has received with them (R150). -/
def topoOf (cs : List (Nat × Copy)) : Nat :=
  let dn := (cs.lookup 0).isSome
  let up := (cs.lookup 2).isSome
  if dn && up then 0 else if dn then 1 else if up then 2 else 3

/-- The dark cells of a ring after this frame: an enumerated cell whose slot has stayed EMPTY for two frames since its
last configured report (R150) (log entry 71). -/
def Vp.darkUpdate (v : Vp) (m : Nat) : Vp × Bool :=
  let r := v.ring m
  let ps := (positions (v.ncell m)).filter (fun p => v.present' (256 * m + p))
  let step := fun (acc : List (Nat × Nat) × List Nat) p =>
    let g := sget (fun _ => 0) r.gone p
    if r.seen.testBit p then (if g = 0 then acc else (sset (fun _ => 0) acc.1 p 1, acc.2))
    else if g = 0 then acc
    else (sset (fun _ => 0) acc.1 p (g + 1), if 2 ≤ g then acc.2 ++ [p] else acc.2)
  let (gone, dark) := ps.foldl step (r.gone, [])
  let fresh := dark.any (fun p => !r.dark.contains p)
  let v := v.setRing m { r with gone := gone, dark := dark }
  let v := ps.foldl (fun v p => v.setCf (256 * m + p) 8 6 1 (b2n (dark.contains p))) v
  let v := v.setBit (Reg.RING_STATE m) 5 (!dark.isEmpty)
  (if fresh then v.setBit (Reg.RING_STICKY m) 6 true else v, fresh)

/-- A change from one classification to another that a new break brings (log entry 71). -/
def isBreak (old new : Nat) : Bool := new != 0 && !(old == 3 && new != 3)

/-- RING evaluates a running ring at D_n (R29, R150) (log entries 12, 71, 73). -/
def Vp.ringEval (v : Vp) (m : Nat) : Vp :=
  if !v.ringUp m then v
  else
    let topo := topoOf (v.copiesOf m)
    let v := v.setFld (Reg.RING_STATE m) 2 3 topo
    if v.ringSt m ≠ 3 then v
    else
      let r0 := v.ring m
      let old := r0.evalTopo
      let seen := if topo = r0.seenTopo then r0.seenFor + 1 else 1
      let due := decide (topo ≠ old) && decide (2 ≤ seen)
      let v := v.setRing m { r0 with seenTopo := topo, seenFor := seen }
      let dn := (v.pub m false).t
      let up := (v.pub m true).t
      let ok27 := applyOk (v.applyOfs m) dn up
      let (v, dark) := v.darkUpdate m
      let v := if ok27 then v else v.setBit (Reg.RING_STICKY m) 4 true
      let darkC := if dark then [ringCond 8 unc (Reg.RING_STATE m)] else []
      if due then
        let brk := isBreak old topo
        let fails := !ok27 || (v.ring m).failWait != 0 || (v.ring m).failNow
        let addr := if ok27 then Reg.RING_TREP m else longerReg m dn up
        let v := if brk then (v.locate m topo).foldl (fun v w => (v.addBreak m w).breakHops m w) v else v
        let v := if old = 0 then v.setBit (Reg.RING_STICKY m) 5 true else v
        let cs := (if fails && !(v.ring m).failing then [ringCond 10 unc addr]
          else if brk then [ringCond 3 cor (Reg.RING_BRK m)] else []) ++ darkC
        let v := v.updRing m (fun r => { r with
          evalTopo := topo, failNow := r.failNow || !ok27, failWait := 0, failing := r.failing || fails })
        v.raiseAll 6 m cs
      else
        let wait := (v.ring m).failWait
        -- the change has gone without an evaluation: the failure that waited for one is raised now
        let gone := decide (topo = old) && wait != 0
        let v := if gone then v.updRing m (fun r => { r with failWait := 0 }) else v
        let raise := gone && !(v.ring m).failing
        let v := if raise then v.updRing m (fun r => { r with failing := true }) else v
        let v := v.raiseAll 6 m ((if raise then [ringCond 10 unc wait] else []) ++ darkC)
        if ok27 then v else v.ringFails m (longerReg m dn up)

/-! ### Management packets (R137 to R140) -/

/-- Is a CN word address inside the map of R114? -/
def cnInMap (a : Nat) : Bool :=
  decide (a < 0x0C00 + 0x400) || (decide (0x1000 ≤ a) && decide (a < 0x1C00)) || (decide (0x4000 ≤ a) && decide (a < 0x8000))

/-- Is a CN register one with access code RWS? -/
def cnRws (a : Nat) : Bool :=
  match cnRow a with
  | some r => r.acc == Acc.rws
  | none => false

/-- The cells of a ring that a packet addresses. -/
def Vp.mgTargets (v : Vp) (m : Nat) (p : MgPkt) : List Nat :=
  if p.bcast then v.cellsOfRing m else [256 * m + p.dest]

/-- The copies awaited: one, or for a broadcast in single-VP mode one per direction whose train returns (R139). -/
def Vp.mgCopies (v : Vp) (m : Nat) (p : MgPkt) : Nat :=
  if p.bcast && !v.paired then
    max 1 (b2n (v.reg (Reg.RING_TDN m) != w32 noT) + b2n (v.reg (Reg.RING_TUP m) != w32 noT))
  else 1

/-- Does the outbound path of a direction reach a position, by what that direction's train published last (R126, R139)? -/
def Vp.reaches (v : Vp) (m p : Nat) (up : Bool) : Bool :=
  let t := v.reg (if up then Reg.RING_TUP m else Reg.RING_TDN m)
  let w := v.fld (Reg.RING_WRAP m) (if up then 8 else 0) 8
  t != w32 noT && (!v.bit (Reg.RING_WRAP m) (if up then 17 else 16) || decide (if up then w ≤ p else p ≤ w))

/-- The words of a packet's data blocks: an unwritten high word is 0. -/
def MgPkt.blockWords (p : MgPkt) : List Nat := p.words.map (·.toNat) ++ (if p.odd then [0] else [])

/-- The packet as it is launched with a TAG (R137, R139): on the direction whose outbound path reaches the cell; in paired
mode on the VP's own, unless only the partner's reaches the cell (log entry 76). -/
def Vp.mgForm (v : Vp) (m tag : Nat) (p : MgPkt) : MgPkt :=
  let ws := p.blockWords
  let out := packetBlocks
    (mgsContent p.dest p.bcast p.opc p.first p.odd v.isB p.addr ((ws.length + 1) / 2) tag) ws
  let up := if v.paired then v.isB else !v.reaches m p.dest false && v.reaches m p.dest true
  let peer := v.pairMode && !p.bcast && !v.reaches m p.dest v.isB && v.reaches m p.dest (!v.isB)
  { p with src := v.isB, up := up, byPeer := peer, out := out, await := v.mgCopies m p }

/-- A packet is sent with the next free TAG, or waits for one (R140); one that only the partner's path reaches is passed to
the partner as it stands (R139) (log entry 76). -/
def Vp.mgSend (v : Vp) (m : Nat) (p : MgPkt) : Vp :=
  let r := v.ring m
  let t := r.mgTag
  if (r.mg.lookup t).isSome then v.setRing m { r with mgWait := r.mgWait ++ [p] }
  else
    let p := v.mgForm m t p
    let v := v.setRing m { r with mg := sput t p r.mg, mgTag := (t + 1) % 256 }
    if p.byPeer then v.peerSend (.packet m p.out) else v

/-- Packets under way for a use that has been given up no longer count for it. -/
def Vp.mgStale (v : Vp) (m : Nat) (u u' : MgUse) : Vp :=
  let f := fun (p : MgPkt) => if p.use = u then { p with use := u' } else p
  v.updRing m (fun r => { r with mg := r.mg.map (fun p => (p.1, f p.2)), mgWait := r.mgWait.map f })

/-- One word written to one cell. -/
def mgWrite (dest addr : Nat) (ws : List Word) (use : MgUse) : MgPkt :=
  { dest := dest, bcast := false, opc := 1, addr := addr, words := ws, odd := ws.length % 2 == 1, first := false, use := use }

/-- The result of a packet enters words 12 and 13 of the cells it addressed (R140). -/
def Vp.mgRecord (v : Vp) (m tag : Nat) (p : MgPkt) (status : Nat) (failed : Bool) : Vp :=
  (v.mgTargets m p).foldl (fun v c =>
    let v := v.setCw c 12 (w32 (status % 256 + tag * 2 ^ 8 + p.tries * 2 ^ 16))
    if failed then v.incCw c 13 else v) v

/-- DEAD_TIME and MIN_PULSE in words of `CN_SW_DT` and `CN_SW_MINP` (R116). -/
def dtField (w : Word) : Nat := fld w 0 15
def minpField (w : Word) : Nat := fld w 0 17

/-- What a packet writes to a CN register, if it does. -/
def MgPkt.wordAt (p : MgPkt) (a : Nat) : Option Word :=
  if p.addr ≤ a ∧ a < p.addr + p.words.length then p.words[a - p.addr]? else none

/-- The DEAD_TIME and MIN_PULSE that a confirmed write leaves in force in a cell are kept (R88) (log entry 57). -/
def Vp.keepDt (v : Vp) (cell : Nat) (p : MgPkt) : Vp :=
  let put := fun (v : Vp) (x : Option Nat) (k : Nat) =>
    match x with
    | some n => { v with dtKept := sput (2 * cell + k) n v.dtKept }
    | none => v
  put (put v ((p.wordAt Reg.CN_SW_DT).map dtField) 0) ((p.wordAt Reg.CN_SW_MINP).map minpField) 1

/-- The boundary number that a register names for a boundary: one whose low word is 0 is not named, and the boundary
after it is taken instead (R501). -/
def nameBoundary (n : Nat) : Nat := if n % 2 ^ 32 = 0 then n + 1 else n

/-- The ends of a hop that are cells, with the CLOSE_CTL bit of the side: the cell below at side S, the cell above at
side P (R119). A dark cell's end is not written (log entry 80). -/
def Vp.hopEnds (v : Vp) (m h : Nat) : List (Nat × Nat) :=
  let n := v.ncell m
  ((if 0 < h then [(h - 1, 2)] else []) ++ (if h < n then [(h, 1)] else [])).filter
    (fun e => !(v.ring m).dark.contains e.1)

/-- The VP writes the close of a hop to both ends for boundary B_{k+3} (R153). -/
def Vp.closeHop (v : Vp) (m h : Nat) : Vp :=
  let b := nameBoundary (v.frameNo + 3)
  let ends := v.hopEnds m h
  let v := v.mgStale m (.close h) (.closeCancel h)
  let v := v.updHop m h (fun s => { s with closeAt := b, need := 2 * ends.length, got := 0, check := 0 })
  let v := ends.foldl (fun v e => v.mgSend m (mgWrite e.1 Reg.CN_LANE_CLOSE_AT [w32 b] (.close h))) v
  ends.foldl (fun v e => v.mgSend m (mgWrite e.1 Reg.CN_LANE_CLOSE_CTL [w32 e.2] (.close h))) v

/-- After a successful retrain the VP closes the hop, unless HOLD_SPLIT is set (R153). -/
def Vp.closeRequest (v : Vp) (m h : Nat) : Vp :=
  let s := v.hop m h
  if s.broken ∧ s.near ∧ s.far ∧ s.closeAt = 0 ∧ s.check = 0 then v.closeHop m h else v

/-- The writes of a close are not confirmed by B_{k+2}: both are cancelled, CLOSE_FAIL is set, and the close is repeated
at a later boundary (R153). -/
def Vp.closeCancel (v : Vp) (m h : Nat) : Vp :=
  let s := v.hop m h
  if s.closeAt ≠ 0 ∧ s.got < s.need then
    let v := v.setBit (Reg.RING_STICKY m) 9 true
    let v := (v.hopEnds m h).foldl (fun v e => v.mgSend m (mgWrite e.1 Reg.CN_LANE_CLOSE_CTL [0] (.closeCancel h))) v
    v.closeHop m h
  else v

/-- At the boundary that a confirmed close names it takes effect: the trains of that boundary carry TOPO_CHG (R153). -/
def Vp.closeAtBoundary (v : Vp) (m : Nat) : Vp :=
  (v.ring m).hops.foldl (fun v p =>
    if p.2.closeAt = v.frameNo ∧ p.2.closeAt ≠ 0 ∧ p.2.need ≤ p.2.got then
      let v := v.updHop m p.1 (fun s => { s with closeAt := 0, need := 0, got := 0, check := v.frameNo })
      v.updRing m (fun r => { r with topoChg := true })
    else v) v

/-- The wait to the next attempt after a failed one (R153) (log entry 144). -/
def Vp.nextWait (v : Vp) (s : HopSt) : Nat :=
  if s.broken then min (2 * s.wait) (v.fld Reg.RING_RETRAIN_CFG 16 16) else v.fld Reg.RING_RETRAIN_CFG 0 16

/-- The reports of a later frame show a close good, or show an end that still bridges: then the close has failed, CLOSE_FAIL
is set, and the attempt counts as failed, so that the hop is trained again and closed after the next (R153)
(log entry 144). -/
def Vp.closeCheck (v : Vp) (m : Nat) : Vp :=
  (v.ring m).hops.foldl (fun v p =>
    if p.2.check ≠ 0 ∧ p.2.check < v.frameNo then
      let ends := v.hopEnds m p.1
      if ends.all (fun e => v.holds (256 * m + e.1)) then
        let bad := ends.any (fun e => v.cf (256 * m + e.1) 8 (if e.2 = 1 then 7 else 8) 1 == 1)
        if bad then
          let wait := v.nextWait p.2
          ((v.setBit (Reg.RING_STICKY m) 9 true).setFld (Reg.RING_RETRY m) 16 16 wait).updHop m p.1 (fun s => { s with
            check := 0, started := false, near := false, far := false, wait := wait })
        else
          let base := v.fld Reg.RING_RETRAIN_CFG 0 16
          let v := v.updHop m p.1 (fun s => { s with check := 0, broken := false, wait := base })
          let v := (v.setFld (Reg.RING_RETRY m) 16 16 base).clearBreak m p.1
          v.updRing m (fun r => { r with recheck := true })
      else v
    else v) v

/-! ### Configuration (R141) -/

/-- The common configuration of a ring: address and value, ascending (R441). -/
def Vp.commonCfg (v : Vp) (m : Nat) : List (Nat × Word) :=
  let given := v.cnCfg.filterMap (fun p => if p.1 / 0x10000 = m then some (p.1 % 0x10000, p.2) else none)
  let unack := match v.armOfRing m with
    | some k => v.fld (Reg.ARM_CFG k) 16 8
    | none => 16
  let own := [(Reg.CN_TIME_PERIOD, v.fld Reg.TIME_FRAME_CFG 0 4), (Reg.CN_TIME_SLEAD, v.fld Reg.TIME_SLEAD 0 12),
    (Reg.CN_TIME_APPLY, v.applyOfs m), (Reg.CN_SW_UNACK, unack)]
  own.foldl (fun l p => sput p.1 (w32 p.2) l) given

/-- Runs of consecutive addresses of at most 128 words each: address and words. -/
def runs : List (Nat × Word) → List (Nat × List Word)
  | [] => []
  | (a, w) :: rest =>
    match runs rest with
    | (b, ws) :: more => if b = a + 1 ∧ ws.length < 128 then (a, w :: ws) :: more else (a, [w]) :: (b, ws) :: more
    | [] => [(a, [w])]

/-- The CONFIG packets of a ring's common configuration, the first with FIRST set (R141). -/
def Vp.cfgPackets (v : Vp) (m : Nat) (bcast : Bool) (dest : Nat) : List MgPkt :=
  let ps := (runs (v.commonCfg m)).map (fun r : Nat × List Word =>
    ({ dest := dest, bcast := bcast, opc := 2, addr := r.1, words := r.2, odd := r.2.length % 2 == 1, first := false,
       use := .config } : MgPkt))
  match ps with
  | [] => []
  | p :: r => { p with first := true } :: r

/-- RETIRE written to a cell held as retired in its configuration (R104, R141). -/
def retireCfg (dest : Nat) : MgPkt :=
  { dest := dest, bcast := false, opc := 2, addr := Reg.CN_PROT_CMD, words := [w32 0x00A50001], odd := true,
    first := false, use := .config }

/-- CONFIG_END of a cell: the CRC-32 over the data blocks of every CONFIG packet for it (R141). -/
def Vp.cfgEnd (v : Vp) (m p : Nat) (pkts : List MgPkt) : MgPkt :=
  let ps := pkts ++ (if v.isRetired (256 * m + p) then [retireCfg p] else [])
  { dest := p, bcast := false, opc := 3, addr := 0, words := [w32 (crc32Words (ps.flatMap MgPkt.blockWords)), 0],
    odd := false, first := false, use := .configEnd p }

/-- The DEAD_TIME and MIN_PULSE of the configuration are kept per cell (R88). -/
def Vp.keepCfg (v : Vp) (m p : Nat) : Vp :=
  let c := v.commonCfg m
  let cell := 256 * m + p
  let dt := match c.lookup Reg.CN_SW_DT with | some w => dtField w | none => 0x3E80
  let mp := match c.lookup Reg.CN_SW_MINP with | some w => minpField w | none => 0x12C0
  { v with dtKept := sput (2 * cell) dt (sput (2 * cell + 1) mp v.dtKept) }

/-- Does this VP configure the cell at position `p` (R448): in a pair VP-A those that its outbound path reaches, and VP-B
the others? -/
def Vp.cfgMine (v : Vp) (m p : Nat) : Bool :=
  !v.pairMode || (v.isB == (v.ring m).hops.any (fun h => h.2.broken && decide (h.1 ≤ p)))

/-- A cell is entered as enumerated in its cell state table entry, and counted in NCELL. -/
def Vp.enumCell (v : Vp) (m p : Nat) : Vp :=
  let v := v.setCf (256 * m + p) 2 24 1 1
  let v := match v.armOfRing m with
    | some k => v.setCf (256 * m + p) 2 20 4 k
    | none => v
  v.setFld (Reg.RING_STATE m) 8 9 (v.cellsOfRing m).length

/-- One cell is configured by single-cell packets (R141, R153) (log entry 79). -/
def Vp.configureCell (v : Vp) (m p : Nat) : Vp :=
  let pkts := v.cfgPackets m false p
  let v := pkts.foldl (fun v k => v.mgSend m k) v
  let v := if v.isRetired (256 * m + p) then v.mgSend m (retireCfg p) else v
  v.mgSend m (v.cfgEnd m p pkts)

/-- The ring's cells are configured: common configuration, RETIRE writes, and a CONFIG_END to each (R141); cells that
VP-A does not reach, by VP-B one by one (R448). -/
def Vp.configureRing (v : Vp) (m : Nat) : Vp :=
  let cells := ((v.cellsOfRing m).map (· % 256)).filter (v.cfgMine m)
  if v.pairMode ∧ v.isB then cells.foldl (fun v p => v.configureCell m p) v
  else
  let pkts := v.cfgPackets m true 0
  let v := pkts.foldl (fun v k => v.mgSend m k) v
  let v := (cells.filter (fun p => v.isRetired (256 * m + p))).foldl (fun v p => v.mgSend m (retireCfg p)) v
  cells.foldl (fun v p => v.mgSend m (v.cfgEnd m p pkts)) v

/-! ### The end of a packet -/

/-- A confirmed write or a final failure acts for its use. -/
def Vp.mgFinish (v : Vp) (m : Nat) (p : MgPkt) (status : Nat) (data : List Word) : Vp :=
  let ok := status == 1
  match p.use with
  | .user =>
    let v := v.setReg Reg.RING_MG_STAT (w32 (status % 256 * 2 ^ 8 + p.resp % 512 * 2 ^ 16 + p.tries % 128 * 2 ^ 25))
    let v := if p.opc = 0 then
        (List.range (min data.length 128)).foldl (fun v i => v.setReg (Reg.RING_MG_BUF i) (data.getD i 0)) v
      else v
    if (p.opc = 1 ∨ p.opc = 2) ∧ ok then (v.mgTargets m p).foldl (fun v c => v.keepDt c p) v else v
  | .ovr e =>
    if ok ∧ sget (fun _ => 0) v.ovrAt e ≠ 0 then
      let v := { v with ovrGot := v.ovrGot.filter (· != e) ++ [e] }
      if e < 64 then v.setBit (Reg.ARM_OVR e) 14 true else v
    else v
  | .close h => if ok then v.updHop m h (fun s => { s with got := s.got + 1 }) else v
  | .configEnd c =>
    if ok then ((v.keepCfg m c).enumCell m c).updRing m (fun r => { r with cfgDone := r.cfgDone.filter (· != c) ++ [c] })
    else if status = 5 then v.configureCell m c
    else v
  | .timeChange => if ok then { v with timeGot := v.timeGot + 1 } else v
  | _ => v

/-- A packet has ended with `status`: recorded, and its TAG is free for one that waits (R140). -/
def Vp.mgEnd (v : Vp) (m tag : Nat) (p : MgPkt) (status : Nat) (failed : Bool) (data : List Word) : Vp :=
  let v := v.updRing m (fun r => { r with mg := sdel tag r.mg })
  let v := v.mgRecord m tag p status failed
  let v := if failed then (v.setBit (Reg.RING_STICKY m) 7 true).raiseAll 6 m [ringCond 6 cor (Reg.RING_STICKY m)] else v
  let v := v.mgFinish m p status data
  match (v.ring m).mgWait with
  | [] => v
  | w :: ws => (v.updRing m (fun r => { r with mgWait := ws })).mgSend m w

/-- A packet must be sent again, or its retries are spent (R140) (log entry 76). -/
def Vp.mgRetry (v : Vp) (m tag : Nat) (p : MgPkt) (status : Nat) : Vp :=
  if p.tries < v.fld Reg.RING_MG_CFG 0 3 then
    v.updRing m (fun r => { r with
      mg := sput tag { p with tries := p.tries + 1, await := v.mgCopies m p, status := 0, resp := 0 } r.mg })
  else v.mgEnd m tag p status true []

/-- RESP over the copies of a broadcast: on a closed ring each copy counts every cell, otherwise each its own
(log entry 76). -/
def joinResp (topo a b : Nat) : Nat := if topo = 0 then max a b else a + b

/-- A packet returns with its status (R140); `errs` bad blocks came with it, and one whose MGS or MGE is bad has not
returned (R145) (log entry 76). -/
def Vp.mgReturn (v : Vp) (m tag status resp : Nat) (data : List Word) (good : Bool) (errs : Nat) : Vp :=
  let v := v.blockErrs m (errs + b2n (!good))
  if !good then v
  else
  match (v.ring m).mg.lookup tag with
  | none => v
  | some p =>
    let first := p.status == 0 && p.resp == 0
    let p := { p with
      status := max p.status status
      resp := if first then resp else joinResp (v.fld (Reg.RING_STATE m) 2 3) p.resp resp
      await := p.await - 1 }
    if 0 < p.await then v.updRing m (fun r => { r with mg := sput tag p r.mg })
    else if p.status = 0 ∨ p.status = 4 then v.mgRetry m tag p p.status
    else v.mgEnd m tag p p.status false data

/-- A packet has not returned in time (R140): copies that did return count, if one is missing it is sent again. -/
def Vp.mgTimeout (v : Vp) (m tag : Nat) : Vp :=
  match (v.ring m).mg.lookup tag with
  | none => v
  | some p => v.mgRetry m tag p p.status

/-- The DEAD_TIME and MIN_PULSE limit of R88 after a write, for every cell reached (log entry 57). -/
def Vp.dtOk (v : Vp) (m : Nat) (p : MgPkt) : Bool :=
  (v.mgTargets m p).all (fun c =>
    decide (((p.wordAt Reg.CN_SW_DT).map dtField).getD (sget (fun _ => 0x3E80) v.dtKept (2 * c))
      + ((p.wordAt Reg.CN_SW_MINP).map minpField).getD (sget (fun _ => 0x12C0) v.dtKept (2 * c + 1)) ≤ v.fp * 8))

/-- A write of FREEZE is forwarded only while every code of the ring lies below the safe code (R107). -/
def Vp.freezeOk (v : Vp) (m : Nat) : Bool :=
  (v.cellsOfRing m).all (fun c => decide (repCode (v.lastRep c) < v.fld (Reg.RING_CFG m) 16 10))

/-- Is a WRITE or CONFIG on request one that the VP forwards: RWS registers only with the seal open, since R115 excepts the
start-up configuration alone, R88 and R107 kept? (log entry 77) -/
def Vp.mgForward (v : Vp) (m : Nat) (p : MgPkt) : Bool :=
  let as := (List.range p.words.length).map (p.addr + ·)
  let touches := fun a => as.contains a
  (p.opc != 1 && p.opc != 2) ||
    ((!as.any cnRws || v.bit Reg.HOST_SEAL 0)
      && (!(touches Reg.CN_SW_DT || touches Reg.CN_SW_MINP) || v.dtOk m p)
      && (!(touches Reg.CN_PROT_FRZ && (p.words.getD (Reg.CN_PROT_FRZ - p.addr) 0).toNat % 2 == 1) || v.freezeOk m))

/-- A write to `RING_MG_GO` (R155) (log entry 77). -/
def Vp.mgGo (v : Vp) : Vp :=
  if v.bit Reg.RING_MG_STAT 0 then v
  else
    let q := (v.reg Reg.RING_MG_REQ0).toNat
    let m := q % 16
    let dest := q / 2 ^ 4 % 256
    let bcast := q.testBit 12
    let opc := q / 2 ^ 13 % 8
    let len := v.fld Reg.RING_MG_REQ1 0 7
    let odd := v.bit Reg.RING_MG_REQ1 7
    let ws := (List.range (2 * len - b2n odd)).map (fun i => v.reg (Reg.RING_MG_BUF i))
    let p : MgPkt :=
      { dest := dest, bcast := bcast, opc := opc, addr := q / 2 ^ 16 % 65536, words := ws, odd := odd
        first := v.bit Reg.RING_MG_REQ1 8, use := .user }
    let bad := len == 0 || decide (64 < len) || decide (5 ≤ opc) || (opc == 0 && bcast)
      || (!bcast && decide (v.ncell m ≤ dest)) || !v.ringUp m || !v.mgForward m p
    if bad then v.setReg Reg.RING_MG_STAT (w32 0x300)
    else (v.setReg Reg.RING_MG_STAT 1).mgSend m p

/-! ### Enumeration (R152) -/

/-- A frame of enumeration ends: good reports are counted per position. -/
def Vp.enumFrame (v : Vp) (m : Nat) : Vp :=
  let r := v.ring m
  if !r.enumOn then v
  else
    let good := (positions (v.ncell m)).foldl (fun g p =>
      let h := sget (fun _ => ({} : Held)) v.held (256 * m + p)
      let ok := v.holds (256 * m + p) && !(repState h.val == 0 && repEnumErr h.val)
      sset (fun _ => 0) g p (if ok then sget (fun _ => 0) g p + 1 else 0)) r.enumGood
    v.setRing m { r with enumGood := good, enumFrames := r.enumFrames + 1 }

/-- Enumeration of a ring ends four frames after it starts (R152): it succeeds or fails, the conditions found are one
fault, and the ring is configured and checked. -/
def Vp.enumEnd (v : Vp) (m : Nat) : Vp :=
  let r := v.ring m
  if !r.enumOn ∨ r.enumFrames < 4 then v
  else
    let v := v.updRing m (fun r => { r with enumOn := false })
    let n := v.ncell m
    let found := (positions n).filter (fun p => decide (4 ≤ sget (fun _ => 0) r.enumGood p))
    let v := found.foldl (fun v p => v.enumCell m p) v
    let short := decide (found.length < n)
    let v := if short then v.setBit (Reg.RING_STICKY m) 2 true else v
    let shortC := if short then [ringCond 5 cor (Reg.RING_STATE m)] else []
    if r.enumErr then
      (v.updRing m (fun r => { r with enumFailed := true })).raiseAll 6 m
        ([ringCond 9 unc (Reg.RING_STICKY m)] ++ shortC)
    else
      let v := v.setFld (Reg.RING_STATE m) 0 2 3
      let v := v.updRing m (fun r => { r with evalTopo := v.fld (Reg.RING_STATE m) 2 3
                                              seenTopo := v.fld (Reg.RING_STATE m) 2 3, seenFor := 2 })
      let (v, cs) := v.check28 m
      let broken := (v.ring m).hops.any (fun h => h.2.broken)
      let hopC := if broken && cs.isEmpty then [ringCond 4 cor (Reg.RING_STICKY m)] else []
      let v := v.raiseAll 6 m (hopC ++ shortC ++ cs)
      v.configureRing m

/-- Is a configuration of the cell at position `p` under way? -/
def Vp.cfgPending (v : Vp) (m p : Nat) : Bool :=
  (v.ring m).mg.any (fun x => x.2.use == .configEnd p) || (v.ring m).mgWait.any (fun x => x.use == .configEnd p)

/-- In service the VP configures every cell of a running ring that reports Unconfigured, without ENUM_ERR, and whose
configuration is not under way: one that comes back, one that was never enumerated, or one whose configuration has failed
(R152, R153, R448) (log entry 79). -/
def Vp.configService (v : Vp) (m : Nat) : Vp :=
  if v.ringSt m = 3 then
    (positions (v.ncell m)).foldl (fun v p =>
      let h := sget (fun _ => ({} : Held)) v.held (256 * m + p)
      if v.holds (256 * m + p) && repState h.val == 0 && !repEnumErr h.val && !(v.ring m).cfgDone.contains p
          && !v.cfgPending m p && v.cfgMine m p then v.configureCell m p
      else v) v
  else v

/-- A cell has not ended its configuration 100 ms after ENUM ended: it counts as never enumerated, and the VP goes on
configuring it in service (R448) (log entry 79). -/
def Vp.cellCfgTimeout (v : Vp) (m p : Nat) : Vp :=
  if v.present' (256 * m + p) && !(v.ring m).cfgDone.contains p then
    let v := v.setCf (256 * m + p) 2 24 1 0
    v.setFld (Reg.RING_STATE m) 8 9 (v.cellsOfRing m).length
  else v

/-! ### Publication at the boundary (R126, R155, R210) -/

/-- At a boundary the values measured in the frame that ends are published. -/
def Vp.publish (v : Vp) (m : Nat) : Vp :=
  if !v.ringUp m then v
  else
    let a := v.pub m false
    let b := v.pub m true
    let v := (v.setReg (Reg.RING_TDN m) (w32 a.t)).setReg (Reg.RING_TUP m) (w32 b.t)
    let v := v.setReg (Reg.RING_WRAP m)
      (w32 ((if a.wrap then a.pos % 256 else 0) + (if b.wrap then b.pos % 256 * 2 ^ 8 else 0) + b2n a.wrap * 2 ^ 16
        + b2n b.wrap * 2 ^ 17))
    let trep := v.held.foldl (fun t h => if h.1 / 256 = m then max t h.2.arr else t) 0
    let v := v.setReg (Reg.RING_TREP m) (w32 trep)
    let v := if (v.reg (Reg.RING_TREP_MAX m)).toNat < trep then v.setReg (Reg.RING_TREP_MAX m) (w32 trep) else v
    let v := v.setReg (Reg.TIME_RING_DIFF m) (w32 (twos 32 ((a.t : Int) - b.t)))
    let v := v.setBit (Reg.RING_STATE m) 6 (!(v.ring m).failNow)
    v.enumFrame m

/-- The per-frame state of a ring begins afresh. -/
def RingSt.clearFrame (r : RingSt) : RingSt :=
  { r with copies := [], copyHeld := [], rfhOwn := [], rfhPeer := [], pst := none, pstOwn := false, seen := 0, crcBad := 0
           failing := r.failing && r.failNow, failNow := false, diffNow := false, topoChg := false
           bufBad := false }

/-- The per-frame bits of the cell state table begin afresh (R154). -/
def Vp.clearCst (v : Vp) : Vp :=
  { v with cst := v.cst.filterMap (fun p =>
      if p.1 % 16 = 8 then
        let w := p.2 &&& w32 0xFFFFFFC0
        if w = 0 then none else some (p.1, w)
      else some p) }

end Sys2Proof.Machine
end

