-- ==== Sys2Proof/Machine/Arm.lean ====
section
/-!
DEFINITION. The arm engines (R39 to R77): acknowledged reports, classes, the level, the decision and its record, refresh
grants, deviation, holds, and the armed state (R449).
-/

namespace Sys2Proof.Machine

/-! ### States (R41) -/

/-- `ARM_STATE.STATE` follows the engine's state; a change queues an ARM entry (R385). -/
def Vp.syncArm (v : Vp) (k : Nat) : Vp :=
  let st := if !v.armOn k then 0 else if (v.arm k).running then 2 else 1
  if v.fld (Reg.ARM_STATE k) 0 2 = st then v else (v.setFld (Reg.ARM_STATE k) 0 2 st).hostEntry 0xA k st

/-- The engine returns to blocked (R41); a tuner tied to it ends (R255). -/
def Vp.blockArm (v : Vp) (k : Nat) : Vp :=
  if (v.arm k).running then
    ((v.setArm k { v.arm k with running := false }).syncArm k).tuneTieCheck k
  else v

/-- The engine enters running: DIR is 0 (R41, R44). -/
def Vp.runArm (v : Vp) (k : Nat) : Vp :=
  ((v.setArm k { v.arm k with running := true }).setBit (Reg.ARM_STATE k) 2 false).syncArm k

/-- Every engine is blocked (R142, R409). -/
def Vp.blockAll (v : Vp) : Vp := armIds.foldl Vp.blockArm v

/-! ### Acknowledged reports (R47, R75, R154) -/

/-- A report held by D_n: acknowledged in single-VP mode and solo (R47), unless the ring's slot buffer has failed (R156). -/
def Vp.heldInTime (v : Vp) (cell : Nat) : Bool :=
  v.holds cell && (sget (fun _ => {}) v.held cell).inTime && !(v.ring (cell / 256)).bufBad

/-- The report held for a cell in this frame. -/
def Vp.rep (v : Vp) (cell : Nat) : Nat := (sget (fun _ => {}) v.held cell).val

/-- The entry of a cell whose report is acknowledged (R64, R65, R75, R154) (log entries 52, 53). -/
def Vp.ackEntry (v : Vp) (cell : Nat) : Vp :=
  let rep := v.rep cell
  let prev := v.lastRep cell
  let v := (v.setCw cell 0 (w32 rep)).setCw cell 1 (w32 (rep / 2 ^ 32))
  let v := v.setCw cell 7 (w32 v.frameNo)
  let v := (v.setCf cell 3 16 8 0).setCf cell 2 10 1 1
  if repState rep = 0 then v
  else
    let base := if repState prev = 0 then 0 else repSref prev
    let v := v.satCf cell 4 16 16 ((repSref rep + 8 - base) % 8)
    let v := (v.setCf cell 2 16 1 (b2n (repMiss rep))).setCf cell 2 17 1 (b2n (repRfd rep))
    let v := if repMiss rep then v.incCw cell 5 else v
    let v := if repTimeOk rep then v else v.incCw cell 14
    let v := if repState rep = 4 then v.setCf cell 2 15 1 1 else v
    let v := if repRfd rep then v.satCf cell 4 0 16 1 else v.setCf cell 4 0 16 0
    let l := sget (fun _ => 0) v.loc cell
    { v with loc := sset (fun _ => 0) v.loc cell (l % 4 * 2 + b2n (repState rep == 4 || repLocalBlock rep)) }

/-- The entry of a cell whose report is not acknowledged (R75): one whose last acknowledged report had refresh-due set goes
on waiting for its grant (R64). -/
def Vp.unackEntry (v : Vp) (cell : Nat) : Vp :=
  let v := ((v.satCf cell 3 16 8 1).incCw cell 6).setCf cell 2 10 1 0
  if v.cf cell 2 17 1 = 1 then v.satCf cell 4 0 16 1 else v

/-- Every enumerated cell's entry at D_n. -/
def Vp.ackCells (v : Vp) (ack : Nat → Bool) : Vp :=
  ringIds.foldl (fun v m =>
    if v.ringUp m then
      (v.cellsOfRing m).foldl (fun v c => if ack c && v.holds c then (v.ackEntry c).noteRetired c (v.rep c) else v.unackEntry c) v
    else v) v

/-! ### Classes (R45, R46) -/

/-- The cells of an arm. -/
def Vp.cellsOfArm (v : Vp) (k : Nat) : List Nat := (v.ringsOf k).flatMap v.cellsOfRing

/-- Is a change of the cell's override on its way (R73)? (log entry 51) -/
def Vp.ovrPending (v : Vp) (cell : Nat) : Bool :=
  v.ovrAt.any (fun p => decide (p.2 ≠ 0) && sget (fun _ => 0) v.ovrWas p.1 % 4096 == cell)

/-- The override action in force at the cell. -/
def Vp.ovrOf (v : Vp) (cell : Nat) : Nat := sget (fun _ => 0) v.ovr cell

/-- UNACK_LIMIT of an arm (R48). -/
def Vp.unackLimit (v : Vp) (k : Nat) : Nat := v.fld (Reg.ARM_CFG k) 16 8

/-- The classes of R45; refresh grants are settled after these. -/
inductive Cls where
  | retired | overridden | lost | held | fixedTrim | candidate
  deriving DecidableEq, Repr

/-- The cell is the fixed trim cell that `ARM_TRIM_OVR` names (R61) (log entry 139). -/
def Vp.isFixed (v : Vp) (k cell : Nat) : Bool :=
  v.bit (Reg.ARM_CFG k) 1 && v.bit (Reg.ARM_TRIM_OVR k) 31 && v.fld (Reg.ARM_TRIM_OVR k) 17 12 == cell

/-- Acknowledged in this frame, with its content at hand (R423). -/
def Vp.ackedNow (v : Vp) (cell : Nat) : Bool := v.cf cell 2 10 1 == 1

/-- The class of an enumerated cell (R45). A cell whose last acknowledged report is Unconfigured counts as never
enumerated (R153, R448) (log entries 49, 50). -/
def Vp.classOf (v : Vp) (k cell : Nat) : Cls :=
  let lost := decide (v.unackLimit k ≤ v.cf cell 3 16 8)
  let ack := v.ackedNow cell
  if v.cf cell 2 15 1 = 1 ∨ repState (v.lastRep cell) = 0 then .retired
  else if v.ovrOf cell ≠ 0 ∧ !v.ovrPending cell then .overridden
  else if lost ∨ (ack ∧ repLocalBlock (v.lastRep cell)) then .lost
  else if !ack ∨ v.ovrPending cell then .held
  else if v.isFixed k cell then .fixedTrim
  else .candidate

/-- How a blocked half-bridge cell counts (R46). -/
def blkCount (dir : Bool) : Nat := if dir then 0 else 1

/-- A command as `Vp.cmds` holds it: whole insertions, and trim duty in units of 2^-16 (R46) (log entry 49). -/
def cmdCount (dir : Bool) (cmd : Nat) : Nat × Nat :=
  if cmd = 0 then (blkCount dir, 0) else if cmd = 1 then (0, 0) else if cmd = 2 then (1, 0) else (0, cmd - 3)

/-- The count of an override action (R73): force bypassed, inserted, blocked. -/
def ovrCount (dir : Bool) (a : Nat) : Nat := if a = 1 then 0 else if a = 2 then 1 else blkCount dir

/-- H and d_held of R50 for one cell. -/
def Vp.heldCount (v : Vp) (dir : Bool) (c : Cls) (cell : Nat) : Nat × Nat :=
  match c with
  | .overridden => (ovrCount dir (v.ovrOf cell), 0)
  | .lost => (blkCount dir, 0)
  | .held => cmdCount dir (sget (fun _ => 0) v.cmds cell)
  | _ => (0, 0)

/-! ### The level (R43, R50) -/

/-- What R50 fixes: K, the trim duty d in units of 2^-16, and whether anything was clamped. -/
structure Level where
  k : Nat
  d : Nat
  short : Bool
  deriving DecidableEq, Repr

/-- K and d from L, H and d_held (R43, R50): `cells` enumerated, non-retired cells, `ncand` candidates before grants. -/
def levelOf (l cells h dHeld ncand : Nat) (trimEn fixed : Bool) : Level :=
  let lc := min l (cells * 65536)
  let used := h * 65536 + dHeld
  let le := lc - used
  let s0 := decide (lc < l) || decide (lc < used)
  let k0 := if trimEn then le / 65536 else (le + 32768) / 65536
  let d0 := if trimEn then le % 65536 else 0
  let k := min k0 ncand
  let s1 := decide (ncand < k0)
  let drop := k == ncand && decide (0 < d0) && !fixed
  { k := k, d := if drop then 0 else d0, short := s0 || s1 || drop }

/-! ### Grants (R63) -/

/-- Cells by frames waited, longest first, ties by lower index (log entry 53). -/
def insertGrant (wait : Nat → Nat) (c : Nat) : List Nat → List Nat
  | [] => [c]
  | x :: l => if wait x < wait c ∨ (wait x = wait c ∧ c < x) then c :: x :: l else x :: insertGrant wait c l

/-- The number of grants (R63). -/
def grantCount (refreshMax eligible pool k : Nat) (drawn : Bool) : Nat :=
  min (min refreshMax eligible) (pool - k - b2n drawn)

/-! ### The order and the encoding (R51, R52) -/

/-- A candidate: its cell index, code and hash. -/
structure Cand where
  cell : Nat
  code : Nat
  h : Nat
  deriving DecidableEq, Repr

/-- Does candidate `a` come before candidate `b` in the insertion order (R51)? -/
def before (dir : Bool) (a b : Cand) : Bool :=
  (if dir then decide (b.code < a.code) else decide (a.code < b.code)) || (a.code == b.code && decide (a.h < b.h))

/-- The candidates that come before one. -/
def ahead (dir : Bool) (cs : List Cand) (c : Cand) : Nat := (cs.filter (fun x => before dir x c)).length

/-- The candidate of rank K + 1 (R51): exactly K come before it. -/
def rankCand (dir : Bool) (cs : List Cand) (k : Nat) : Option Cand := cs.find? (fun c => ahead dir cs c == k)

/-- The record that encodes the first K candidates (R52, R56, R57, R61, R62): its arm words. When K is the number of
candidates the all mode is sent; otherwise B and C are the code and the hash of the candidate of rank K + 1. -/
def encodeRecord (dir : Bool) (cs : List Cand) (k d h seq ksel : Nat) (trimEn : Bool) (fixed : Option Nat) :
    Nat × Nat × Nat :=
  let w1 := recW1 seq (k + h)
  match rankCand dir cs k with
  | none => (recW0 modeAll dir 0 0, w1, match fixed with | some i => recW2 ksel i d | none => 0)
  | some c =>
    (recW0 modeNormal dir c.code c.h, w1,
      match fixed with
      | some i => recW2 ksel i d
      | none => if trimEn && decide (0 < d) then recW2 ksel c.cell d else 0)

/-- The command that a record gives an acknowledged candidate (R59). -/
def recCmd (w0 w2 : Nat) (c : Cand) : Nat :=
  if w2TrimV w2 && w2Idx w2 == c.cell then 3 + w2Duty w2
  else if w0Mode w0 = modeAll ∨ inserts (w0Dir w0) (w0B w0) (w0C w0) c.code c.h then 2 else 1

/-! ### Deviation (R66, R67) -/

/-- The whole insertions that a cell shows, counted with the DIR of the record; none for the trim cell. A lost cell counts as
blocked (R46). -/
def Vp.devCount (v : Vp) (k : Nat) (dir : Bool) (w2 cell : Nat) : Nat :=
  if w2TrimV w2 && w2Idx w2 == cell then 0
  else if v.ackedNow cell then
    let rep := v.lastRep cell
    if repState rep = 4 ∨ repState rep = 0 then 0
    else if repState rep = 1 ∨ repGstate rep = 3 then blkCount dir
    else if repGstate rep = 1 then 1 else 0
  else if v.cf cell 2 15 1 = 1 ∨ repState (v.lastRep cell) = 0 then 0
  else if v.unackLimit k ≤ v.cf cell 3 16 8 then blkCount dir
  else (cmdCount dir (sget (fun _ => 0) v.cmds cell)).1

/-- Does the cell's report show one of the conditions of R66? -/
def Vp.devX (v : Vp) (cell : Nat) : Bool :=
  v.ackedNow cell && repState (v.lastRep cell) != 0
    && (repMiss (v.lastRep cell) || (sget (fun _ => 0) v.loc cell).testBit 0 && !(sget (fun _ => 0) v.loc cell).testBit 2)

/-- The deviation of the record applied since the record before last was launched, and whether it exceeds DEV_LIMIT
(log entry 54). -/
def Vp.deviation (v : Vp) (k : Nat) (cells : List Nat) : Vp × Bool :=
  match (v.arm k).past with
  | [_, (w0, w1, w2)] =>
    if w0Mode w0 = modeNormal ∨ w0Mode w0 = modeAll then
      let got := (cells.map (v.devCount k (w0Dir w0) w2)).sum
      let x := (cells.filter v.devX).length
      let dev : Int := (got : Int) - w1Full w1
      let v := v.setReg (Reg.ARM_DEV k) (w32 (twos 13 dev + min x 0xFFF * 2 ^ 16))
      let v := if v.fld (Reg.ARM_DEV_MAX k) 0 12 < dev.natAbs then
          v.setReg (Reg.ARM_DEV_MAX k) (w32 (min dev.natAbs 0xFFF)) else v
      if v.fld (Reg.ARM_CFG k) 24 8 < dev.natAbs then (v.setBit (Reg.ARM_STICKY k) 1 true, true) else (v, false)
    else (v, false)
  | _ => (v, false)

/-! ### The decision (R42 to R63) -/

/-- DIR in force after the current of this frame (R44, R74): held while the engine is blocked (log entry 47). -/
def Vp.newDir (v : Vp) (k : Nat) : Bool :=
  let old := v.bit (Reg.ARM_STATE k) 2
  match v.fld (Reg.ARM_CFG k) 4 2 with
  | 1 => false
  | 2 => true
  | _ =>
    let hy : Int := v.fld (Reg.ARM_DIR_HYST k) 0 31
    let i := (v.arm k).curLat
    if !(v.arm k).running then old else if hy < i then false else if i < -hy then true else old

/-- L and i_arm are latched at D_n (R42); a forced level replaces L (R74) (log entries 47, 48). -/
def Vp.latchArm (v : Vp) (k : Nat) : Vp :=
  let a := v.arm k
  let v := v.setArm k { a with lvlLat := a.lvl, curLat := a.cur }
  let f := v.reg (Reg.ARM_FORCE k)
  v.setFld (Reg.ARM_LEVEL k) 0 28 (if Machine.bit f 31 then Machine.fld f 0 28 else a.lvl)

/-- The level that the engine uses (log entry 48). -/
def Vp.levelIn (v : Vp) (k : Nat) : Nat :=
  let f := v.reg (Reg.ARM_FORCE k)
  if Machine.bit f 31 then Machine.fld f 0 28 else (v.arm k).lvlLat

/-- Entries of the cells of a decision (R75). -/
def Vp.decEntry (v : Vp) (k : Nat) (cell : Nat) (c : Cls) (granted : Bool) : Vp :=
  let rep := v.lastRep cell
  let ack := v.ackedNow cell
  let v := if ack then v.setCf cell 2 0 10 (repCode rep) else v
  let v := v.setCf cell 2 11 1 (b2n (c == .candidate && !granted))
  let blk := c == .lost || (ack && repState rep == 1) || (c == .overridden && v.ovrOf cell == 3)
    || (c == .held && sget (fun _ => 0) v.cmds cell == 0)
  let v := (v.setCf cell 2 18 1 (b2n blk)).setCf cell 2 19 1 (b2n (v.ovrOf cell != 0))
  (v.setCf cell 2 20 4 k).setCf cell 3 0 16 (hash (nodeId v.chip (cell / 256) (cell % 256)) v.frameNo)

/-- A ring's bitmap of the cells of a list. -/
def bitmapOf (m : Nat) (cs : List Nat) : Nat := (cs.filter (fun c => c / 256 == m)).foldl (fun b c => putBit b (c % 256) true) 0

/-- The override action that a cell follows at the apply instant of the next train: one whose confirmed change falls on its
boundary follows that (R73). -/
def Vp.ovrNext (v : Vp) (cell : Nat) : Nat :=
  match v.ovrAt.find? (fun p => p.2 == v.frameNo + 1 && v.ovrGot.contains p.1
      && sget (fun _ => 0) v.ovrWas p.1 % 4096 == cell) with
  | some p => sget (fun _ => 0) v.ovrWas p.1 / 4096
  | none => v.ovrOf cell

/-- The command that a record gives an acknowledged cell that is no candidate: its override's, or, by B and C, that of any
cell whose acknowledge bit is set (R46, R59, R75). -/
def Vp.ovrCmd (v : Vp) (w0 w2 cell : Nat) : Nat :=
  let a := v.ovrNext cell
  if a = 3 then 0
  else if a ≠ 0 then a
  else recCmd w0 w2
    { cell := cell, code := repCode (v.lastRep cell), h := hash (nodeId v.chip (cell / 256) (cell % 256)) v.frameNo }

/-- The cells of an arm that are lost by the frames for which they have not been acknowledged (R45). -/
def Vp.lostCells (v : Vp) (k : Nat) : List Nat :=
  (v.cellsOfArm k).filter (fun c => v.classOf k c == .lost && !v.ackedNow c)

/-- Arm engine `k` decides from the acknowledged reports of the frame (R42 to R63). The conditions found in the decision are
one fault, raised when the record is written or the reserve ends (R397). An enabled engine that is blocked takes L in and
clamps it (R43), and forms no K and d (log entries 48, 150). -/
def Vp.decideArm (v : Vp) (k : Nat) : Vp :=
  let cells := v.cellsOfArm k
  let cls := cells.map (fun c => (c, v.classOf k c))
  let dir := v.newDir k
  let v := v.setBit (Reg.ARM_STATE k) 2 dir
  let v := if v.fld (Reg.ARM_CFG k) 4 2 ≠ 0 then v.setBit (Reg.ARM_STICKY k) 5 true else v
  let counts := cls.map (fun p => v.heldCount dir p.2 p.1)
  let h := (counts.map (·.1)).sum
  let dHeld := (counts.map (·.2)).sum
  let pool := (cls.filter (fun p => p.2 == .candidate)).map (·.1)
  let fixed := ((cls.filter (fun p => p.2 == .fixedTrim)).map (·.1)).head?
  let trimEn := v.bit (Reg.ARM_CFG k) 1
  let v := if trimEn && v.bit (Reg.ARM_TRIM_OVR k) 31 && fixed.isNone then v.setBit (Reg.ARM_STICKY k) 4 true else v
  let alive := (cls.filter (fun p => p.2 != .retired)).length
  let running := (v.arm k).running
  let lv := levelOf (v.levelIn k) alive h dHeld pool.length trimEn fixed.isSome
  let clampL := decide (alive * 65536 < v.levelIn k)
  let v := if clampL || (running && lv.short) then v.setBit (Reg.ARM_STICKY k) 0 true else v
  let elig := pool.filter (fun c => v.cf c 2 17 1 == 1)
  let order := elig.foldl (fun l c => insertGrant (fun x => v.cf x 4 0 16) c l) []
  let drawn := trimEn && decide (0 < lv.d) && fixed.isNone
  let grants := if running then
      order.take (grantCount (v.fld (Reg.ARM_CFG k) 8 5) elig.length pool.length lv.k drawn) else []
  let left := pool.filter (fun c => !grants.contains c)
  let cands := left.map (fun c =>
    ({ cell := c, code := repCode (v.lastRep c), h := hash (nodeId v.chip (c / 256) (c % 256)) v.frameNo } : Cand))
  let ksel := v.fld (Reg.ARM_CFG k) 2 2
  let seq := v.frameNo % 256
  let (w0, w1, w2) := if running then encodeRecord dir cands lv.k lv.d h seq ksel trimEn fixed
    else (recW0 modeBlock false 0 0, recW1 seq 0, 0)
  let next := if running then
      grants.map (fun c => (c, 1)) ++ cands.map (fun c => (c.cell, recCmd w0 w2 c))
        ++ (match fixed with | some i => [(i, 3 + lv.d)] | none => [])
        ++ ((cls.filter (fun p => p.2 == .overridden || ((p.2 == .lost || p.2 == .held) && v.ackedNow p.1))).map (·.1)).map
            (fun c => (c, v.ovrCmd w0 w2 c))
    else cls.map (fun p => (p.1, 0))
  let hist := cands.foldl (fun b c => sset (fun _ => 0) b c.code (sget (fun _ => 0) b c.code + 1)) []
  let v := v.setArm k { v.arm k with w0 := w0, w1 := w1, w2 := w2, next := next, grants := grants, hist := hist
                                     busy := true, written := false }
  let (v, dev) := v.deviation k cells
  let lost := v.lostCells k
  let v := v.setArm k { v.arm k with
    devOver := dev, newLost := lost.any (fun c => !(v.arm k).lost.contains c), lost := lost }
  let v := cls.foldl (fun v p => v.decEntry k p.1 p.2 (grants.contains p.1)) v
  let miss := (cells.filter (fun c => v.ackedNow c && repState (v.lastRep c) != 0 && repMiss (v.lastRep c))).length
  let v := v.setReg (Reg.ARM_MISS_CNT k) (v.reg (Reg.ARM_MISS_CNT k) + w32 miss)
  let v := v.setReg (Reg.ARM_COUNT0 k) (w32 (cands.length % 4096 + h % 4096 * 2 ^ 16))
  let away := (cls.filter (fun p => p.2 == .lost || p.2 == .held)).length
  let ret := (cells.filter (fun c => v.cf c 2 15 1 == 1)).length
  let v := v.setReg (Reg.ARM_COUNT1 k) (w32 (away % 4096 + ret % 4096 * 2 ^ 16))
  let v := v.setReg (Reg.ARM_COUNT2 k) (w32 (grants.length % 64 + cells.length % 4096 * 2 ^ 16))
  let acked := cells.filter v.ackedNow
  (v.ringsOf k).foldl (fun v m =>
    v.updRing m (fun r => { r with ackBits := bitmapOf m acked, grantBits := bitmapOf m grants })) v

/-- Every enabled engine decides with the set `ack`. -/
def Vp.decideAll (v : Vp) (ack : Nat → Bool) : Vp :=
  let v := v.ackCells ack
  armIds.foldl (fun v k => if v.armOn k then v.decideArm k else v) v

/-- The conditions found in the decision of engine `k` (R77, R397), with those of `more`. -/
def Vp.decisionFault (v : Vp) (k : Nat) (more : List Cond) : Vp :=
  let a := v.arm k
  (v.setArm k { a with devOver := false, newLost := false, badHist := false }).raiseAll 5 k
    ((if a.devOver then [Cond.own 5 2 cor (Reg.ARM_DEV k)] else [])
      ++ (if a.newLost then [Cond.own 5 3 cor (Reg.ARM_COUNT1 k)] else [])
      ++ (if a.badHist then [Cond.own 5 5 unc (Reg.ARM_HIST 0)] else []) ++ more)

/-! ### The record is written, or a hold is sent (R69, R70) -/

/-- The enabled engines have all written or held: EV5 (R266). -/
def Vp.armDoneCheck (v : Vp) (k : Nat) : Vp :=
  let v := { v with armDone := putBit v.armDone k true }
  let on := armIds.filter v.armOn
  if on.all (fun j => v.armDone.testBit j) then v.post (.event 5) else v

/-- CMD_INS, TRIM and GRANT of the cells of a record (R75). A cell that the record leaves holding keeps CMD_INS
(log entry 56). -/
def Vp.recEntries (v : Vp) (k : Nat) : Vp :=
  let a := v.arm k
  let named := fun c => w2TrimV a.w2 && w2Idx a.w2 == c
  let v := (v.cellsOfArm k).foldl (fun v c =>
    (v.setCf c 2 13 1 (b2n (named c))).setCf c 2 14 1 (b2n (a.grants.contains c))) v
  a.next.foldl (fun v p => v.setCf p.1 2 12 1 (b2n (p.2 == 2))) v

/-- Engine `k` writes its record, `t` ns after D_n (R69): not with an error in its histogram's memory, of which a hold comes
(R77). -/
def Vp.recordWritten (v : Vp) (k t : Nat) : Vp :=
  if (v.arm k).busy ∧ !(v.arm k).badHist then
    let v := v.setArm k { v.arm k with busy := false, written := true }
    let a := v.arm k
    let v := ((v.setReg (Reg.ARM_DEC0 k) (w32 a.w0)).setReg (Reg.ARM_DEC1 k) (w32 a.w1)).setReg (Reg.ARM_DEC2 k) (w32 a.w2)
    let v := if (v.reg Reg.ARM_DEC_TIME).toNat < min t 0xFFFF then v.setReg Reg.ARM_DEC_TIME (w32 (min t 0xFFFF)) else v
    ((v.recEntries k).decisionFault k []).armDoneCheck k
  else v

/-- The decision reserve ends: an engine without a record sends the hold (R30, R70). -/
def Vp.reserveEnd (v : Vp) : Vp :=
  armIds.foldl (fun v k =>
    if (v.arm k).busy then
      let v := v.setArm k { v.arm k with busy := false, written := false }
      let v := (v.inc (Reg.ARM_HOLD_CNT k)).setBit (Reg.ARM_STICKY k) 2 true
      (v.decisionFault k [Cond.own 5 4 unc (Reg.ARM_HOLD_CNT k)]).armDoneCheck k
    else v) v

/-! ### What the next train carries (R40, R41, R57, R70) -/

/-- The arm words and the bitmaps of ring `m` in the train of this boundary; `void` says that the standby sends a void
record for an arm (R426) (log entry 55). -/
def Vp.recordFor (v : Vp) (m : Nat) (void : Nat → Bool) : (Nat × Nat × Nat) × Nat × Nat :=
  let seq := recW1 (v.frameNo + 255) 0
  let blk := ((recW0 modeBlock false 0 0, seq, 0), 0, 0)
  match v.armOfRing m with
  | none => blk
  | some k =>
    let a := v.arm k
    if void k then ((recW0 modeVoid false 0 0, seq, 0), 0, 0)
    else if !v.armRuns k ∨ a.w0 = recW0 modeBlock false 0 0 ∨ a.w1 = 0 ∧ a.w0 = 0 ∧ !a.written then blk
    else if !a.written then ((recW0 modeHold false 0 0, seq, 0), 0, 0)
    else ((a.w0, a.w1, a.w2), (v.ring m).ackBits, (v.ring m).grantBits)

/-- The commands and the record that the train of this boundary carries for arm `k` become the last sent (R46, R67); the
cells that it grants a refresh wait no longer (R64) (log entries 49, 56). -/
def Vp.noteSent (v : Vp) (k : Nat) (void : Nat → Bool) : Vp :=
  if !v.armOn k then v
  else
    match v.ringsOf k with
    | [] => v
    | m :: _ =>
      let ((w0, w1, w2), _, _) := v.recordFor m void
      let a := v.arm k
      let v := v.setArm k { a with past := (w0, w1, w2) :: a.past.take 1, histClosed := a.hist, written := false }
      if w0Mode w0 = modeBlock then
        { v with cmds := v.cmds.filter (fun p => !(v.cellsOfArm k).contains p.1) }
      else if w0Mode w0 = modeNormal ∨ w0Mode w0 = modeAll then
        let v := a.grants.foldl (fun v c => v.setCf c 4 0 16 0) v
        { v with cmds := a.next.foldl (fun l p => sset (fun _ => 0) l p.1 p.2) v.cmds }
      else v

/-! ### Armed arms (R449) -/

/-- Is every condition of R449 met? (log entry 58) -/
def Vp.armOk (v : Vp) (k : Nat) : Bool :=
  let rings := v.ringsOf k
  let cells := (v.cellsOfArm k).filter (fun c =>
    (v.ring (c / 256)).cfgDone.contains (c % 256) && v.cf c 2 15 1 == 0)
  !rings.isEmpty && rings.all (fun m => v.ringSt m == 3 && !v.isRemoved 6 m && (v.ring m).checked) && v.adcDone
    && !cells.isEmpty
    && cells.all (fun c => v.ackedNow c && repState (v.lastRep c) == 1 && repTimeOk (v.lastRep c))

/-- Does an armed arm stay armed: its rings run and pass the check of R28? -/
def Vp.armStays (v : Vp) (k : Nat) : Bool :=
  (v.ringsOf k).all (fun m => v.ringSt m == 3 && !v.isRemoved 6 m && (v.ring m).checked)

/-- ms since the reset was released, saturating (R453) (log entry 45). -/
def Vp.msUp (v : Vp) : Nat := min ((v.up - v.boot.rel) / 250000) 0xFFFFFF

/-- The VP is armed, phase 7 (R447, R449). -/
def Vp.vpArmed (v : Vp) : Vp :=
  if v.bit Reg.BOOT_ARMED 16 then v
  else ((v.setBit Reg.BOOT_ARMED 16 true).setFld Reg.BOOT_STAT 4 4 7).setReg Reg.BOOT_T_ARMED (w32 v.msUp)

/-- The arms arm or stop being armed, and the VP is armed once every enabled arm is (R449) (log entry 58). -/
def Vp.armedCheck (v : Vp) : Vp :=
  let v := armIds.foldl (fun v k =>
    let on := v.bit Reg.BOOT_ARMED k
    let now := v.armOn k && (if on then v.armStays k else v.armOk k)
    v.setBit Reg.BOOT_ARMED k now) v
  let enabled := armIds.filter v.armOn
  if v.fld Reg.BOOT_STAT 4 4 = 6 ∧ !enabled.isEmpty ∧ enabled.all (fun k => v.bit Reg.BOOT_ARMED k) then v.vpArmed else v

/-! ### D_n as a whole (R42) -/

/-- At D_n L and i_arm are latched, and, unless a partner's set and RFHs are awaited, RING is evaluated, the engines decide
and the arms arm. -/
def Vp.decisionInstant (v : Vp) : Vp :=
  if !v.launched || v.decided || v.fatal then v
  else
    let v := if v.pairMode then v else ringIds.foldl Vp.ringEval v
    let v := ringIds.foldl (fun v m => if (v.ring m).recheck && v.ringSt m == 3 then
        let (v, cs) := v.check28 m
        v.raiseAll 6 m cs
      else v) v
    let v := { v with decided := true, armDone := 0 }
    let v := if (armIds.filter v.armOn).isEmpty then v.post (.event 5) else v
    let v := armIds.foldl (fun v k => if v.armOn k then v.latchArm k else v) v
    if v.pairMode then v
    else
      let v0 := v
      let v := v.decideAll v0.heldInTime
      (ringIds.foldl Vp.closeCheck v).armedCheck

/-! ### Overrides (R73) -/

/-- The write of a change of override to a cell, naming B_{k+3} (R73, R501). Key `e` is the entry's number; 64 more for
the removal that replacing an entry brings about for the cell it named before. -/
def Vp.ovrSend (v : Vp) (e cell action : Nat) : Vp :=
  let b := nameBoundary (v.frameNo + 3)
  let v := { v with ovrAt := sset (fun _ => 0) v.ovrAt e b, ovrWas := sset (fun _ => 0) v.ovrWas e (cell + 4096 * action)
                    ovrGot := v.ovrGot.filter (· != e) }
  let v := v.mgStale (cell / 256) (.ovr e) (.ovrCancel e)
  v.mgSend (cell / 256) (mgWrite (cell % 256) Reg.CN_SW_OVR [w32 action, w32 b] (.ovr e))

/-- A write of an override entry takes effect (R73) (log entry 51). -/
def Vp.ovrWrite (v : Vp) (e : Nat) (w : Word) : Vp :=
  let old := v.reg (Reg.ARM_OVR e)
  let v := v.setReg (Reg.ARM_OVR e) (w32 (Machine.fld w 0 14))
  let was := Machine.fld old 12 2
  let now := Machine.fld w 12 2
  let v := if was ≠ 0 ∧ now ≠ 0 ∧ Machine.fld old 0 12 ≠ Machine.fld w 0 12 then v.ovrSend (64 + e) (Machine.fld old 0 12) 0
    else v
  if now ≠ 0 then v.ovrSend e (Machine.fld w 0 12) now
  else if was ≠ 0 then v.ovrSend e (Machine.fld old 0 12) 0
  else v

/-- The override write is not confirmed by B_{k+2}: it is cancelled and sent again with a later boundary (R73). -/
def Vp.ovrTimeout (v : Vp) (e : Nat) : Vp :=
  if sget (fun _ => 0) v.ovrAt e ≠ 0 ∧ !v.ovrGot.contains e then
    let was := sget (fun _ => 0) v.ovrWas e
    let v := v.mgSend (was % 4096 / 256) (mgWrite (was % 256) Reg.CN_SW_OVR_AT [0] (.ovrCancel e))
    v.ovrSend e (was % 4096) (was / 4096)
  else v

/-- At the boundary of a confirmed override the engine counts the cell in its new state (R73) (log entry 51). -/
def Vp.ovrBoundary (v : Vp) : Vp :=
  v.ovrAt.foldl (fun v p =>
    if p.2 = v.frameNo ∧ p.2 ≠ 0 ∧ v.ovrGot.contains p.1 then
      let was := sget (fun _ => 0) v.ovrWas p.1
      { v with ovrAt := sset (fun _ => 0) v.ovrAt p.1 0
               ovr := sset (fun _ => 0) v.ovr (was % 4096) (was / 4096) }
    else v) v

end Sys2Proof.Machine
end

