-- ==== Sys2Proof/Machine/Time.lean ====
section
/-!
DEFINITION. Time at the valve processor: the counter and the servo (R190 to R195), the sources (R196 to R206), steps
(R207, R208), the frame sequencer (R15 to R21), PTP stamps, pulses and markers (R199 to R205).
-/

namespace Sys2Proof.Machine

/-! ### The counter and its registers -/

/-- INC in units of 2^-32 ns (R190). -/
def Vp.incr (v : Vp) : Nat := (v.reg Reg.TIME_INC0).toNat + (v.reg Reg.TIME_INC1).toNat * 2 ^ 32

/-- E of R15 in TAI seconds. -/
def Vp.epochE (v : Vp) : Nat := (v.reg Reg.TIME_EPOCH0).toNat + (v.reg Reg.TIME_EPOCH1).toNat * 2 ^ 32

/-- One second in units of 2^-32 ns. -/
def secUnit : Nat := 1000000000 * nsUnit

/-- Time has gone on by `n` ticks (R190): busy cores count them (R286), and blocks leave to the partner (R421). -/
def Vp.ticks (v : Vp) (n : Nat) : Vp :=
  let busy := cores'.foldl (fun b k =>
    if (sget (fun _ => []) v.sched.coreStack k).isEmpty then b
    else sset (fun _ => 0) b k (sget (fun _ => 0) b k + 4 * n)) v.sched.busy
  { v.peerTicks n with up := v.up + n, tai := v.tai + n * v.incr, frameOfs := v.frameOfs + n * v.incr
                       sched := { v.sched with busy := busy } }
where
  cores' : List Nat := List.range 16

/-- The counter reaches TAI time `t`, when it has not passed it already (log entry 20). -/
def Vp.advanceTo (v : Vp) (t : Nat) : Vp :=
  if v.tai < t then
    let v' := v.ticks ((t - v.tai) / max 1 v.incr)
    { v' with tai := t, frameOfs := v.frameOfs + (t - v.tai) }
  else v

/-- While frames run, the clock reaches the instant `d` ns after the last boundary, when it has not passed it (log entry
20). -/
def Vp.frameAt (v : Vp) (d : Nat) : Vp :=
  if v.launched && !v.fatal then v.advanceTo (v.time.boundary + d * nsUnit) else v

/-- A signed number saturated to 32 bits. -/
def satW (x : Int) : Word := w32 (twos 32 (sat32 x))

/-- STATE of `TIME_STATE` (R195): 0 UNSET, 1 ACQUIRE, 2 LOCKED, 3 HOLDOVER, 4 FREE. -/
def Vp.timeState (v : Vp) : Nat := v.fld Reg.TIME_STATE 0 3
/-- The selected source; 3 is none. -/
def Vp.timeSrc (v : Vp) : Nat := v.fld Reg.TIME_STATE 4 2
/-- Time is ready (R197). -/
def Vp.ready (v : Vp) : Bool := v.bit Reg.TIME_STATE 6

/-- The servo constants of a source. -/
def servoReg (s : Nat) : Nat :=
  if s = 0 then Reg.TIME_SERVO_PTP else if s = 1 then Reg.TIME_SERVO_PPS else Reg.TIME_SERVO_PEER
/-- WIN of a source in units of 2^-8 ns. -/
def Vp.win (v : Vp) (s : Nat) : Nat :=
  256 * v.fld (if s = 0 then Reg.TIME_WIN_PTP else if s = 1 then Reg.TIME_WIN_PPS else Reg.TIME_WIN_PEER) 0 24
/-- The register of a source's last offset. -/
def ofsReg (s : Nat) : Nat := if s = 0 then Reg.TIME_OFS_PTP else if s = 1 then Reg.TIME_OFS_PPS else Reg.TIME_OFS_PEER
/-- Ticks between the updates of a source (R193, R194): 1 s, 1 s and 1 ms. -/
def updTicks (s : Nat) : Nat := if s = 2 then 250000 else 250000000
/-- LOCK_N and LOCK_THR in units of 2^-8 ns. -/
def Vp.lockN (v : Vp) (s : Nat) : Nat := v.fld (servoReg s) 8 8
def Vp.lockThr (v : Vp) (s : Nat) : Nat := 256 * v.fld (servoReg s) 16 16

/-- INC takes an exact value in ns per tick (R190, R193): clamped to 3.996 to 4.004 ns, and held in units of 2^-32 ns;
the spec states no rounding of that (log entry 8). -/
def Vp.setInc (v : Vp) (x : Rat) : Vp :=
  let lo : Rat := 3996 / 1000
  let hi : Rat := 4004 / 1000
  let y := if x < lo then lo else if hi < x then hi else x
  let n := (divAny 6 (y.num * 2 ^ 32) y.den).toNat
  let v := (v.setReg Reg.TIME_INC0 (w32 n)).setReg Reg.TIME_INC1 (w32 (n / 2 ^ 32))
  if y = x then v else (v.setBit Reg.TIME_STICKY 6 true).raise 2 0xFF 3 cor Reg.TIME_INC0

/-- INC holds the integral term with no proportional term (R195). -/
def Vp.holdInc (v : Vp) : Vp := v.setInc (4 + v.time.freq)

/-- One servo update (R193); `th` in units of 2^-8 ns. -/
def Vp.servo (v : Vp) (s : Nat) (th : Int) : Vp :=
  let x : Rat := (th : Rat) / 256
  let t : Rat := (updTicks s : Rat)
  let f := v.time.freq - x / (2 ^ v.fld (servoReg s) 4 4 : Nat) / t
  let v := { v with time := { v.time with freq := f } }
  v.setInc (4 + f - x / (2 ^ v.fld (servoReg s) 0 4 : Nat) / t)

/-! ### The sequencer's error (R20, R21) -/

/-- The whole-frame part of an error: the rest is at most half a frame (log entry 42). -/
def wholePart (e : Int) (p : Nat) : Int := (e + (p / 2 : Nat)) / (p : Int)

/-- FRAME_PERIOD in units of 2^-32 ns. -/
def Vp.fpU (v : Vp) : Nat := v.fp * nsUnit

/-- The registers of the sequencer's error and its flags (log entry 42). -/
def Vp.seqRegs (v : Vp) : Vp :=
  let e := v.time.seqErr
  let w := wholePart e v.fpU
  let sub := e - w * (v.fpU : Int)
  let v := v.setReg Reg.TIME_SEQ_ERR (satW (divAny 7 sub 16777216))
  let v := v.setReg Reg.TIME_SEQ_WHOLE (satW w)
  let v := v.setBit Reg.TIME_STATE 7 (e != 0)
  let v := if e ≠ 0 then v.setBit Reg.TIME_STICKY 8 true else v
  if w < 0 then v.setBit Reg.TIME_STICKY 9 true else v

/-! ### Steps (R207, R208) -/

/-- TAI time is stepped by `d` units of 2^-32 ns (R207): the sequencer keeps its schedule (R20) (log entry 41). The step
raises the TIME interrupt, EV34, with the time-step event, EV6 (R266). -/
def Vp.timeStep (v : Vp) (d : Int) : Vp :=
  let t := (max 0 ((v.tai : Int) + d)).toNat
  let v := { v with tai := t, time := { v.time with
    readyAt := (max 0 ((v.time.readyAt : Int) + d)).toNat
    boundary := (max 0 ((v.time.boundary : Int) + d)).toNat
    ppsRise := v.time.ppsRise.map (fun t => (max 0 ((t : Int) + d)).toNat)
    ptmDue := none
    seqErr := if v.launched then v.time.seqErr + d else 0
    stepAt := some v.up, stepBy := (t : Int) - v.tai } }
  let v := v.inc Reg.TIME_STEP_CNT
  let sz := twos 64 (divAny 8 d 16777216)
  let v := (v.setReg Reg.TIME_STEP0 (w32 sz)).setReg Reg.TIME_STEP1 (w32 (sz / 2 ^ 32))
  let v := (v.setReg Reg.TIME_STEP_AT0 (w32 v.sec)).setReg Reg.TIME_STEP_AT1 (w32 v.ns)
  let v := (v.setBit Reg.TIME_STICKY 0 true).seqRegs
  ((v.post (.event 6)).post (.event 34)).hostEntry 3 0 (satW (divAny 9 d nsUnit)).toNat

/-- A write of GO to `TIME_SET_CMD` (R208). -/
def Vp.timeSetGo (v : Vp) (w : Word) : Vp :=
  if Machine.bit w 0 && Machine.fld w 16 16 == 0xA5 then
    let ns := (v.reg (Reg.TIME_SET 1)).toNat
    if 999999999 < ns then (v.setBit Reg.TIME_STICKY 7 true).raise 2 0xFF 6 cor (Reg.TIME_SET 1)
    else
      let sec := (v.reg (Reg.TIME_SET 2)).toNat + (v.reg (Reg.TIME_SET 3)).toNat * 2 ^ 32
      let t := sec * secUnit + ns * nsUnit + (v.reg (Reg.TIME_SET 0)).toNat
      v.timeStep ((t : Int) - v.tai)
  else v

/-! ### Sources, states and measurements (R195, R196, R206) -/

/-- Time becomes ready, once (R197). -/
def Vp.timeReady (v : Vp) : Vp :=
  if v.ready then v
  else
    let v := (v.setBit Reg.TIME_STATE 6 true).setReg Reg.BOOT_T_READY (w32 (min ((v.up - v.boot.rel) / 250000) 0xFFFFFF))
    { v with time := { v.time with readyAt := v.tai } }

/-- The listed sources, PRI0 first (R196). -/
def Vp.srcList (v : Vp) : List Nat :=
  ([0, 2, 4].map (fun i => v.fld Reg.TIME_SRC_CFG i 2)).filter (· != 3)

/-- May a source be selected: it has delivered, and PPS only once time is ready (R196)? -/
def Vp.selectable (v : Vp) (s : Nat) : Bool := sget (fun _ => false) v.time.alive s && (s != 1 || v.ready)

/-- The first listed source that can be selected; 3 for none. -/
def Vp.bestSrc (v : Vp) : Nat := (v.srcList.find? v.selectable).getD 3

/-- A source's place in the list; the length of the list for one not listed. -/
def Vp.srcRank (v : Vp) (s : Nat) : Nat := v.srcList.idxOf s

/-- The series of the selected source shows in ANOM_RUN. -/
def Vp.anomRun (v : Vp) : Vp :=
  v.setFld Reg.TIME_STATE 10 2 (min (sget (fun _ => ((0 : Int), 0)) v.time.series v.timeSrc).2 3)

/-- STATE is entered; HOLDOVER raises a corrected fault (R229). -/
def Vp.enterState (v : Vp) (st : Nat) : Vp :=
  let v := { v.setFld Reg.TIME_STATE 0 3 st with time := { v.time with lock := 0 } }
  if st = 3 then (v.setBit Reg.TIME_STICKY 5 true).raise 2 0xFF 2 cor Reg.TIME_STATE else v

/-- A source is selected. -/
def Vp.selectSrc (v : Vp) (s : Nat) : Vp := (v.setFld Reg.TIME_STATE 4 2 s).anomRun

/-- The first listed source that can be selected takes the place of the one selected; with none, LOCKED and FREE are left
for HOLDOVER, and INC holds freq (R195, R196). -/
def Vp.changeSrc (v : Vp) : Vp :=
  let v := v.selectSrc v.bestSrc
  if v.timeSrc ≠ 3 then v
  else
    let v := if v.timeState = 2 ∨ v.timeState = 4 then v.enterState 3 else v
    v.holdInc

/-- A source is dropped, and its successor selected (R195, R196) (log entry 38). -/
def Vp.sourceTimeout (v : Vp) (s : Nat) : Vp :=
  let v := { v with time := { v.time with alive := sset (fun _ => false) v.time.alive s false
                                          run := sset (fun _ => 0) v.time.run s 0 } }
  if v.timeSrc ≠ s ∨ s = 3 then v else v.changeSrc

/-- May the VP revert to source `s` from the one selected (R196)? -/
def Vp.reverts (v : Vp) (s : Nat) : Bool :=
  v.selectable s && decide (v.srcRank s < v.srcRank v.timeSrc)
    && decide (v.lockN s ≤ sget (fun _ => 0) v.time.run s)

/-- The list of sources has changed (R196): a source that is listed no more is dropped, and one listed before the source
selected is selected once it has delivered its LOCK_N measurements (log entry 38). -/
def Vp.reselect (v : Vp) : Vp :=
  let cur := v.timeSrc
  if cur = 3 ∧ v.bestSrc = 3 then v
  else if cur = 3 ∨ !(v.srcList.contains cur && v.selectable cur) then v.changeSrc
  else match v.srcList.find? v.reverts with
    | some s => v.selectSrc s
    | none => v

/-- The anomaly counter field and flag of a source (R206, R228) (log entry 37). -/
def Vp.countAnom (v : Vp) (s : Nat) : Vp :=
  (v.addFld Reg.TIME_ANOM_CNT (8 * s) 8 1).setBit Reg.TIME_STICKY (1 + s) true

/-- An anomaly of a source joins its series or begins one; three of the selected source step the time (R206)
(log entry 37). -/
def Vp.anomaly (v : Vp) (s : Nat) (th : Int) : Vp :=
  let v := v.countAnom s
  let (f, n) := sget (fun _ => ((0 : Int), 0)) v.time.series s
  let joins := decide (0 < n) && decide ((th - f).natAbs ≤ v.win s)
  let f' := if joins then f else th
  let n' := if joins then n + 1 else 1
  let put := fun (v : Vp) (x : Int × Nat) =>
    { v with time := { v.time with series := sset (fun _ => ((0 : Int), 0)) v.time.series s x } }
  if s = v.timeSrc then
    if 3 ≤ n' then ((put v (0, 0)).timeStep (-th * 16777216)).anomRun else (put v (f', n')).anomRun
  else put v (f', n')

/-- A measurement is used: the series of its source ends, the servo is updated, and LOCK_N counts it (R193, R195,
R206). -/
def Vp.useServo (v : Vp) (s : Nat) (th : Int) : Vp :=
  let v := { v with time := { v.time with series := sset (fun _ => ((0 : Int), 0)) v.time.series s (0, 0) } }
  ((v.setReg Reg.TIME_OFS (satW th)).servo s th).anomRun

/-- The count of consecutive used measurements within LOCK_THR (R195) (log entry 37). -/
def Vp.countLock (v : Vp) (s : Nat) (th : Int) : Vp :=
  { v with time := { v.time with lock := if th.natAbs ≤ v.lockThr s then v.time.lock + 1 else 0 } }

/-- STATE follows a used measurement (R195, R197) (log entry 37). -/
def Vp.lockState (v : Vp) (s : Nat) (th : Int) : Vp :=
  if v.timeState = 2 then (if 4 * v.lockThr s < th.natAbs then v.enterState 1 else v)
  else if v.time.lock < v.lockN s then v
  else if s = 1 then v.enterState 2
  else (v.enterState 2).timeReady

/-- A measurement is used by the servo, and STATE follows (R195, R206). -/
def Vp.useMeas (v : Vp) (s : Nat) (th : Int) : Vp := ((v.useServo s th).countLock s th).lockState s th

/-- An ACQUIRE step: a measurement beyond WIN steps the time at once (R206) (log entry 37). -/
def Vp.acquireStep (v : Vp) (th : Int) : Vp :=
  let v := v.timeStep (-th * 16777216)
  { v with time := { v.time with lock := 0 } }

/-- A source delivers a measurement (R195, R196, R206); `forced` says that it is an anomaly whatever its size
(R205). -/
def Vp.measure (v : Vp) (s : Nat) (th : Int) (forced : Bool) : Vp :=
  let inWin := decide (th.natAbs ≤ v.win s) && !forced
  let v := v.setReg (ofsReg s) (satW th)
  let run := if inWin then sget (fun _ => 0) v.time.run s + 1 else 0
  let v := { v with time := { v.time with alive := sset (fun _ => false) v.time.alive s true
                                          run := sset (fun _ => 0) v.time.run s run } }
  let cur := v.timeSrc
  let v := if cur = 3 then v.selectSrc v.bestSrc
    else if v.reverts s then v.selectSrc s
    else v
  if v.timeSrc = s then
    let v := if v.timeState = 0 then v.enterState 1 else v
    if inWin then v.useMeas s th
    else if v.timeState = 1 then v.acquireStep th
    else v.anomaly s th
  else if !inWin && decide (2 ≤ v.timeState) then v.anomaly s th
  else v

/-- A pair of words submits a PTP offset in units of 2^-8 ns (R200). -/
def Vp.ptpMeas (v : Vp) (lo hi : Word) : Vp :=
  let v := (v.setReg Reg.TIME_PTP_MEAS0 lo).setReg Reg.TIME_PTP_MEAS1 hi
  v.measure 0 (sgn 64 (lo.toNat + hi.toNat * 2 ^ 32)) false

/-! ### PTP stamps (R199) -/

/-- A message leaves in one-step operation at the TAI time `t`, in units of 2^-32 ns: a Sync takes its origin time-stamp, a
Pdelay_Resp the time since its request arrived; of a response to no request stamped, the spec states no turnaround time
(log entry 9). The other event messages take nothing. -/
def Vp.oneStepOut (v : Vp) (mtype seq t : Nat) : Vp :=
  let put := fun (v : Vp) (x : OneStep) => { v with time := { v.time with oneStep := some x } }
  if mtype = 0 then put v { mtype := 0, seq := seq, sec := secOf t, ns := nsOf t, turn := 0 }
  else if mtype = 3 then
    match sget (fun _ => none) (v.time.pdelay.map (fun p => (p.1, some p.2))) seq with
    | some r => put v { mtype := 3, seq := seq, sec := 0, ns := 0, turn := ((t : Int) - r) / 65536 }
    | none => put { v with free := v.free + 1 }
        { mtype := 3, seq := seq, sec := 0, ns := 0, turn := sgn 64 (Config.openNat 17 v.free) }
  else v

/-- A stamp enters the queue, or is lost when 64 wait (R199). -/
def Vp.tsqPush (v : Vp) (e : List Word) : Vp :=
  if 64 ≤ v.time.tsq.length then (v.setBit Reg.TIME_STICKY 10 true).raise 2 0xFF 5 cor Reg.TIME_TSQ_STAT
  else
    let v := { v with time := { v.time with tsq := v.time.tsq ++ [e] } }
    v.setFld Reg.TIME_TSQ_STAT 0 7 v.time.tsq.length

/-- A PTP event message is stamped: `tx` when sent; `frac` in units of 2^-32 ns.
Received and two-step transmit stamps enter the queue. -/
def Vp.ptpStamp (v : Vp) (port : Nat) (tx : Bool) (mtype seq : Nat) (sec ns frac : Nat) : Vp :=
  let mtype := mtype % 16
  let seq := seq % 65536
  let t := sec * secUnit + ns * nsUnit + frac
  if !v.bit Reg.TIME_PTP_CFG 2 || v.fld Reg.TIME_PTP_CFG 0 2 != port then v
  else if tx && v.bit Reg.TIME_PTP_CFG 3 then v.oneStepOut mtype seq t
  else
    let v := if !tx && mtype == 2 then { v with time := { v.time with pdelay := sput seq t v.time.pdelay } } else v
    v.tsqPush [w32 (port % 4 + b2n tx * 4 + mtype * 16 + seq * 65536), w32 frac, w32 ns, w32 sec]

/-- A read of `TIME_TSQ0` pops the oldest entry and latches the rest (R199, R228). With no entry waiting the spec states
no value (log entry 9). -/
def Vp.tsqPop (v : Vp) : Vp :=
  match v.time.tsq with
  | [] => { v with lastRead := w32 (Config.openNat 2 v.free), free := v.free + 1 }
  | e :: r =>
    let v := { v with time := { v.time with tsq := r }, lastRead := e.getD 0 0 }
    let v := [0, 1, 2, 3].foldl (fun v i => v.setReg (Reg.TIME_TSQ i) (e.getD i 0)) v
    v.setFld Reg.TIME_TSQ_STAT 0 7 r.length

/-! ### Pulses (R201, R202) -/

/-- A qualified edge of PPS_IN: its stamp within the second in units of 62.5 ps, and the ms since the qualified edge
before it (R201) (log entry 39). -/
def Vp.ppsEdge (v : Vp) (stamp gapMs : Nat) : Vp :=
  if !v.bit Reg.TIME_PPS_CFG 0 then v
  else
    let d := sgn 32 (v.reg Reg.TIME_PPS_IN_DLY).toNat
    let x := ((stamp : Int) - d) % 16000000000
    let th := if 8000000000 < x then (x - 16000000000) * 16 else x * 16
    if gapMs < 900 ∧ (v.time.ppsHeld.isSome ∨ v.time.ppsAbsent) then
      let n := if v.time.ppsAbsent then 1 else 2
      let was := v.time.ppsAbsent
      let v := { v with time := { v.time with ppsHeld := none, ppsAbsent := true
                                              alive := sset (fun _ => false) v.time.alive 1 false } }
      let v := (v.addFld Reg.TIME_ANOM_CNT 24 8 n).setBit Reg.TIME_STICKY 4 true
      let v := if was then v else v.raise 2 0xFF 4 cor Reg.TIME_ANOM_CNT
      v.sourceTimeout 1
    else if v.time.ppsAbsent ∧ gapMs < 1000 then v
    else { v with time := { v.time with ppsHeld := some th, ppsAbsent := false } }

/-- 900 ms have passed without a further edge: the held edge is delivered (R201). -/
def Vp.ppsDeliver (v : Vp) : Vp :=
  match v.time.ppsHeld with
  | none => v
  | some th => { v with time := { v.time with ppsHeld := none } }.measure 1 th false

/-- The next instant, not before now, at which PPS_OUT rises: a whole second, advanced by `TIME_PPS_OUT_OFS` (R202). -/
def Vp.ppsNext (v : Vp) : Nat :=
  let ofs := sgn 32 (v.reg Reg.TIME_PPS_OUT_OFS).toNat * (nsUnit / 16 : Nat)
  let s := ((v.tai : Int) + ofs + (secUnit - 1 : Nat)) / secUnit
  let t := (max 0 (s * secUnit - ofs)).toNat
  if v.time.ppsRise = some t then t + secUnit else t

/-- PPS_OUT rises at the next whole second, advanced by `TIME_PPS_OUT_OFS`, or falls OUT_WIDTH after its rise; it stays low
while STATE is UNSET, and is not driven with OUT_EN 0 (R202). The clock is brought to the edge (log entry 20). -/
def Vp.ppsPulse (v : Vp) (high : Bool) : Vp :=
  let on := v.bit Reg.TIME_PPS_CFG 2 && v.timeState != 0
  let set := fun (v : Vp) (b : Bool) (r : Option Nat) => { v with time := { v.time with ppsOut := b, ppsRise := r } }
  if high then
    if on then set (v.advanceTo v.ppsNext) true (some v.ppsNext) else set v false v.time.ppsRise
  else
    match v.time.ppsOut && on, v.time.ppsRise with
    | true, some r => set (v.advanceTo (r + v.fld Reg.TIME_PPS_CFG 8 12 * 1000 * nsUnit)) false (some r)
    | _, r => set v false r

/-! ### Markers (R203 to R205) -/

/-- The content of a marker due now (a whole ms), sent `sdly` units later. -/
def Vp.ptmContent (v : Vp) (sdly : Nat) : Nat :=
  let ms := v.ns / 1000000
  let res := match v.time.res with | some x => twos 24 x | none => 0
  withCrc8 (ms + v.sec % 32 * 2 ^ 10 + b2n v.time.res.isSome * 2 ^ 15 + sdly % 128 * 2 ^ 16 + res * 2 ^ 24)

/-- The next instant, not before now, at which a marker is due: a whole ms of TAI time, each once (R203). -/
def Vp.ptmNext (v : Vp) : Nat :=
  let u := 1000000 * nsUnit
  let t := (v.tai + u - 1) / u * u
  if v.time.ptmDue = some t then t + u else t

/-- A marker is sent on the lowest-numbered lane of the bundle in ACTIVE, at the next whole ms, to which the clock is
brought (R203) (log entry 20): not by a leader of a pair whose time is not ready (R448). With no lane in ACTIVE none is
sent. -/
def Vp.ptmSend (v : Vp) (sdly : Nat) : Vp :=
  if !v.bit Reg.TIME_PEER_CFG 0 || v.txOff || (v.paired && !v.bit Reg.TIME_PEER_CFG 1 && !v.ready) then v
  else
    match [0, 1, 2, 3].find? (v.fld Reg.LANE_PEER_STAT 0 4).testBit with
    | none => v
    | some i =>
      let t := v.ptmNext
      let v := v.advanceTo t
      { v with time := { v.time with ptm := v.ptmContent (min sdly 102), ptmDue := some t, ptmLane := i } }

/-- A marker arrives, stamped `stamp` units of 62.5 ps after TAI 0 (R204, R205) (log entry 40). -/
def Vp.ptmIn (v : Vp) (content stamp : Nat) : Vp :=
  if !v.bit Reg.TIME_PEER_CFG 0 || !crc8Ok content then v
  else
    let s := 16000000000
    let ms := content % 1024
    let low := content / 2 ^ 10 % 32
    let sec := stamp / s
    let base := sec / 32 * 32 + low
    let near := fun (c : Nat) => ((c : Int) * s + ms * 16000000 - stamp).natAbs
    let t0 := if 32 ≤ base ∧ near (base - 32) < near base then base - 32 else base
    let t := if near (base + 32) < near t0 then base + 32 else t0
    let due : Int := (t : Int) * s + ms * 16000000
    let x := (stamp : Int) - due - (content / 2 ^ 16 % 128 : Nat)
    let v := { v with time := { v.time with res := some x } }
    if !content.testBit 15 then v
    else
      let r := sgn 24 (content / 2 ^ 24)
      let asym := sgn 16 (v.fld Reg.TIME_PEER_CFG 16 16)
      let v := v.setReg Reg.TIME_PEER_DLY (satW (divAny 10 (x + r) 2))
      let th := (x - r - asym) * 8
      let far := decide (8000000 < ((stamp : Int) - due).natAbs) || decide (1000 ≤ ms)
      if v.bit Reg.TIME_PEER_CFG 1 then v.measure 2 th far else v.setReg Reg.TIME_OFS_PEER (satW th)

/-! ### The sequencer (R15 to R21) -/

/-- The first whole TAI second at least 1 ms after time became ready, not before E, and not past (R17). -/
def Vp.firstSecond (v : Vp) : Nat :=
  let t := max (v.time.readyAt + 1000000 * nsUnit) v.tai
  max ((t + secUnit - 1) / secUnit) v.epochE

/-- Whether every arm is blocked (R21, R31). -/
def Vp.allBlocked (v : Vp) : Bool := armIds.all (fun k => !v.armRuns k)

/-- FRAME_NO and the sequencer's error at the next boundary (R20, R21): the frame that ends closes its slew, a positive
whole-frame part is closed while every arm is blocked, and the frame that begins is at most 4 ns longer or shorter. The
boundary stands on its schedule (R15), whatever the clock has come to (log entry 20). -/
def Vp.nextFrame (v : Vp) : Vp :=
  let t := v.time
  let len := ((v.fpU : Int) - t.slew).toNat
  let v := v.advanceTo (t.boundary + len)
  let e := v.time.seqErr - v.time.slew
  let w := wholePart e v.fpU
  let adv := if 0 < w ∧ v.allBlocked then w.toNat else 0
  let e := e - (adv : Int) * v.fpU
  let sub := e - wholePart e v.fpU * (v.fpU : Int)
  let sl := clampI (-4 * (nsUnit : Int)) (4 * (nsUnit : Int)) sub
  { v with frameNo := v.frameNo + 1 + adv, frameOfs := v.tai - (t.boundary + len)
           time := { v.time with seqErr := e, slew := sl, boundary := t.boundary + len
                                 prevNo := v.frameNo, prevLen := len } }.seqRegs

/-- The counter value `n` ticks before now: a step of the time since then has not yet acted (R291). -/
def Vp.taiAgo (v : Vp) (n : Nat) : Nat :=
  let late := match v.time.stepAt with
    | some t => decide (v.up < t + n)
    | none => false
  ((v.tai : Int) - n * v.incr - (if late then v.time.stepBy else 0)).toNat

/-- The time `d` units of 2^-32 ns before now in ring frame time: the frame's number and the whole ns after its boundary
(R10, R291); the spec states no rounding (log entry 8). Before the frame that ended last, frames count as FRAME_PERIOD
long. -/
def Vp.frameTime (v : Vp) (d : Nat) : Nat × Nat :=
  let t : Int := (v.frameOfs : Int) - d
  let p := t + v.time.prevLen
  let k := ((-p).toNat + v.fpU - 1) / v.fpU
  let (n, t) := if 0 ≤ t then (v.frameNo, t) else if 0 ≤ p then (v.time.prevNo, p)
    else (v.time.prevNo - k, p + k * v.fpU)
  (n, (divAny 12 t nsUnit).toNat)

/-- Does a whole TAI second fall on the boundary that now stands (R266)? (log entry 20) -/
def Vp.atSecond (v : Vp) : Bool :=
  let n := v.frameNo * v.fp
  n % 1000000000 == 0

end Sys2Proof.Machine
end

