-- ==== Sys2Proof/Machine/HostBase.lean ====
section
/-!
DEFINITION. The data of the host ports: the token (R368), responses (R362 to R365), staging (R375, R376) and the host
trip's and seal's flags, as the trips and the bundles need them.
-/

namespace Sys2Proof.Machine

/-- A port's state. -/
def Vp.port (v : Vp) (p : Nat) : PortSt := sget (fun _ => {}) v.host.ports p
/-- `v` with a port's state set. -/
def Vp.setPort (v : Vp) (p : Nat) (x : PortSt) : Vp :=
  { v with host := { v.host with ports := sset (fun _ => {}) v.host.ports p x } }

/-- The ports. -/
def portIds : List Nat := [0, 1, 2, 3]
/-- The port takes and sends frames (R361, R394). -/
def Vp.portOn (v : Vp) (p : Nat) : Bool :=
  decide (p < 4) && v.bit (Reg.HOST_P_CFG p) 0 && !v.isRemoved 11 p && !v.txOff
/-- The roles of a port (R367). -/
def Vp.hasCmd (v : Vp) (p : Nat) : Bool := v.bit (Reg.HOST_P_CFG p) 1
def Vp.hasProt (v : Vp) (p : Nat) : Bool := v.bit (Reg.HOST_P_CFG p) 2
/-- The seal is open (R388). -/
def Vp.sealOpen (v : Vp) : Bool := v.bit Reg.HOST_SEAL 0
/-- Host items that need the seal need both seals in paired mode (R377, R391). -/
def Vp.sealBoth (v : Vp) : Bool := v.sealOpen && (!v.pairMode || v.bit Reg.HOST_SEAL 5)

/-! ### Interrupt causes and flags -/

/-- A cause of `HOST_INT_STAT` (R393). -/
def Vp.hostInt (v : Vp) (i : Nat) : Vp := v.intCause 11 Reg.HOST_INT_EN Reg.HOST_INT_STAT i
/-- A flag of `HOST_STICKY` (R393). -/
def Vp.hostSticky (v : Vp) (i : Nat) : Vp := v.setBit Reg.HOST_STICKY i true

/-! ### The token (R368) -/

/-- Byte 26 of a frame (R362). -/
def tokenByte : Option (Nat × Bool) → Nat
  | none => 0
  | some (p, b) => p % 4 + 4 * b2n b + 128

/-- The port of this VP holds the token. -/
def Vp.holdsToken (v : Vp) (p : Nat) : Bool := v.host.token == some (p, v.isB)

/-- The token changes holder: a TOKEN entry and cause (R368, R385). -/
def Vp.setToken (v : Vp) (t : Option (Nat × Bool)) : Vp :=
  if v.host.token = t then v
  else (({ v with host := { v.host with token := t } }).hostInt 2).hostEntry 7 0 (tokenByte t)

/-- The token of a holder on this VP's port `p` is released; in a pair VP-B tells VP-A, which keeps the token (R369). -/
def Vp.dropToken (v : Vp) (p : Nat) : Vp :=
  if v.holdsToken p then
    let v := v.setToken none
    if v.pairMode && v.isB then v.hostxSend (.tokenReq p 2) else v
  else v

/-- The partner is lost: a token held through it is released (R369). -/
def Vp.tokenAlone (v : Vp) : Vp :=
  match v.host.token with
  | some (_, b) => if b = v.isB then v else v.setToken none
  | none => v

/-! ### Responses (R362, R364, R365) -/

/-- STATUS values (R364). -/
def stOk : Nat := 0
def stRole : Nat := 1
def stSeal : Nat := 2
def stLate : Nat := 3
def stFar : Nat := 4
def stItem : Nat := 5
def stTooLong : Nat := 6
def stBad : Nat := 7
def stBusy : Nat := 8
def stPartner : Nat := 9
def stState : Nat := 10
def stKey : Nat := 11

/-- The TYPE of a request (R363). -/
def HBody.typ : HBody → Nat
  | .read _ => 1
  | .write _ _ => 2
  | .command _ _ => 3
  | .token _ => 4
  | .cancel _ => 5
  | .post _ => 6
  | .msg _ _ => 7
  | .image _ _ _ _ _ => 8
  | .trip _ _ => 9
  | .bad t => t

/-- The last closed epoch, which a response names that accepts no target (R362, log entry 13). -/
def Vp.epochNo (v : Vp) : Nat := (v.reg Reg.HOST_EPOCH0).toNat + (v.reg Reg.HOST_EPOCH1).toNat * 2 ^ 32

/-- A response, with the header that R362 gives it now. -/
def Vp.mkResp (v : Vp) (p : Nat) (f : HFrame) (status epoch : Nat) (items : List RItem) (data : List Nat) : Resp :=
  { dst := f.src, vlan := f.vlan, typ := (f.body.typ + 128) % 256, tag := f.tag, status := status, epoch := epoch
    now := v.frameNo, pair := b2n v.isB + 2 * b2n v.paired + 4 * b2n v.active, role := v.fld (Reg.HOST_P_CFG p) 0 3
    token := tokenByte v.host.token, sealBits := b2n v.sealOpen + 2 * b2n (v.bit Reg.HOST_SEAL 5)
    items := items, data := data }

/-- The header of a frame that the VP sends on its own, of type `typ` and with TAG `tag`, to the source of the last host frame
that the port took (R361, R362). -/
def Vp.ownHead (v : Vp) (p typ tag : Nat) : Resp :=
  { v.mkResp p { tag := 0, src := 0, vlan := 0, body := .bad 0 } 0 v.epochNo [] [] with
    dst := (v.port p).dst, vlan := (v.port p).dstVlan, typ := typ, tag := tag }

/-- A request is answered: the response is sent and saved, and one other than OK is counted (R365, R393). -/
def Vp.answer (v : Vp) (p : Nat) (f : HFrame) (status epoch : Nat) (items : List RItem) (data : List Nat) : Vp :=
  let r := v.mkResp p f status epoch items data
  let x := v.port p
  let v := v.setPort p { x with saved := (r :: x.saved).take 16, sent := some r, serving := none }
  if status = 0 then v else v.addFld (Reg.HOST_P_REQ_CNT p) 0 16 1

/-- An answer with a STATUS alone. -/
def Vp.reply (v : Vp) (p : Nat) (f : HFrame) (status : Nat) : Vp := v.answer p f status v.epochNo [] []

/-- Firmware sends the `n` bytes of its transmit buffer (R383): TX_BUSY stands while the frame leaves at 10 Gbit/s, and a
port that has taken no frame sends none (R361) (log entry 107). The spec states no TAG for it (log entry 9). -/
def Vp.msgSend (v : Vp) (p n : Nat) (ws : List Word) : Vp :=
  if v.bit (Reg.HOST_P_STAT p) 2 then
    let tag := Config.openNat 21 v.free % 2 ^ 16
    (({ v with free := v.free + 1 }).setPort p { v.port p with
      msgSent := some (n, ws), msgHead := some (v.ownHead p 0xC7 tag), msgEnd := v.up + (32 + n + 4) / 5 }).setBit
      (Reg.HOST_P_MSG_STAT p) 12 true
  else v

/-- Messages that have left free their buffers (R383) (log entry 107). -/
def Vp.msgLeft (v : Vp) : Vp :=
  portIds.foldl (fun v p =>
    if v.bit (Reg.HOST_P_MSG_STAT p) 12 && decide ((v.port p).msgEnd ≤ v.up) then
      v.setBit (Reg.HOST_P_MSG_STAT p) 12 false
    else v) v

/-! ### Staging (R375, R376) -/

/-- The data words of a bundle (R375). -/
def Bundle.words (b : Bundle) : Nat := b.items.foldl (fun n i => n + i.data.length) 0

/-- A staged bundle is removed, and its port is sent a CANCELLED entry by the VP that accepted it (R376, R380, R385). -/
def Vp.unstage (v : Vp) (b : Bundle) (trip : Bool) : Vp :=
  let v := { v with host := { v.host with staged := v.host.staged.filter (· != b) } }
  let v := v.hostInt 1
  if b.own then v.portEntry b.port (v.entry 6 b.port (b.tag % 65536 + 65536 * b2n trip)) else v

/-- Does a bundle hold a DEBLOCK? -/
def Bundle.deblocks (b : Bundle) : Bool := b.cmds.any (fun c => c.op == 1)

/-- A recognised trip cancels every staged DEBLOCK, its bundle whole (R380). -/
def Vp.cancelDeblocks (v : Vp) : Vp := (v.host.staged.filter (·.deblocks)).foldl (fun v b => v.unstage b true) v

end Sys2Proof.Machine
end

