-- ==== Sys2Proof/Machine/Trip.lean ====
section
/-!
DEFINITION. Trips: the sources, the urgent burst and its repetition (R142, R143), what a recognised trip does to arms and
staged bundles (R41, R380), the host trip (R381, R382), the trip inputs (R415) and `TRIP_OUT_N` (R416).
-/

namespace Sys2Proof.Machine

/-- The sources now active, as URGENT [4:0] (R142, R143). -/
def Vp.tripSrc (v : Vp) : Nat := (v.trip.pins &&& v.fld Reg.RING_TRIP_EN 0 4) + 16 * b2n v.trip.host

/-- `RING_URG_STAT`[16] shows whether a source is active, and `TRIP_OUT_N` is low while one is (R415, R416). -/
def Vp.tripSync (v : Vp) : Vp :=
  let on := v.tripSrc != 0
  let v := v.setBit Reg.RING_URG_STAT 16 on
  if on then { v with trip := { v.trip with out := true } } else v

/-- An urgent burst leaves on every lane of every enabled ring, with the active sources and `extra` (R142, R143); with
the transmitters off none leaves. -/
def Vp.burst (v : Vp) (extra : Nat) : Vp :=
  if v.txOff then v
  else
    let src := v.tripSrc ||| extra
    let v := v.setReg Reg.RING_URG_STAT (w32 (src % 64 + v.trip.seq % 256 * 2 ^ 8 + b2n (v.tripSrc != 0) * 2 ^ 16))
    let v := (v.setReg Reg.RING_URG_TIME0 (w32 v.sec)).setReg Reg.RING_URG_TIME1 (w32 v.ns)
    let v := { v with trip := { v.trip with last := urgentContent src v.trip.seq, seq := (v.trip.seq + 1) % 256 } }
    ringIds.foldl (fun v m => if v.bit Reg.RING_EN m then v.setBit (Reg.RING_STICKY m) 10 true else v) v

/-- A trip is recognised: the burst leaves, every arm is blocked (R41), staged DEBLOCKs are cancelled (R380), and a TRIP
entry is sent (R385) (log entry 83). -/
def Vp.tripNow (v : Vp) (extra : Nat) : Vp :=
  let src := v.tripSrc ||| extra
  ((v.tripSync.burst extra).blockAll.cancelDeblocks).hostEntry 9 0 (src % 64)

/-- A TRIP message to the partner (R142, R421). -/
def Vp.tripTell (v : Vp) (src : Nat) : Vp :=
  if v.paired && !v.txOff then ({ v with trip := { v.trip with toPeer := some src } }).peerSend (.trip src) else v

/-- A trip of this VP's own sources, which it passes to its partner (R142) (log entry 83). -/
def Vp.tripOwn (v : Vp) (extra : Nat) : Vp :=
  let src := v.tripSrc ||| extra
  (v.tripNow extra).tripTell src

/-- A write of SEND to `RING_URG_CMD` (R142, R155): a source for the moment of the write alone, so `TRIP_OUT_N` goes low
with it and is released 1 ms after (R416). -/
def Vp.urgCmd (v : Vp) (w : Word) : Vp :=
  if Machine.bit w 0 && Machine.fld w 16 16 == 0xA5 then
    ({ v with trip := { v.trip with out := true } }).tripOwn 32
  else v

/-- A trip input becomes active (R415) (log entry 5). -/
def Vp.tripIn (v : Vp) (i : Nat) : Vp :=
  if 4 ≤ i || v.trip.pins.testBit i then v
  else
    let v := { v with trip := { v.trip with pins := putBit v.trip.pins i true } }
    if v.bit Reg.RING_TRIP_EN i then v.tripOwn 0 else v

/-- A trip input leaves its active state (R415). -/
def Vp.tripInEnd (v : Vp) (i : Nat) : Vp :=
  if 4 ≤ i then v else ({ v with trip := { v.trip with pins := putBit v.trip.pins i false } }).tripSync

/-- A write of `RING_TRIP_EN`: an input that is active as it is enabled is a new source. -/
def Vp.tripEn (v : Vp) (w : Word) : Vp :=
  let was := v.tripSrc
  let v := v.setFld Reg.RING_TRIP_EN 0 4 (Machine.fld w 0 4)
  if v.tripSrc &&& was = v.tripSrc then v.tripSync else v.tripOwn 0

/-- The last source cleared 1 ms ago: `TRIP_OUT_N` is released, unless a device-level fatal fault in single-VP mode holds
it (R416). -/
def Vp.tripOutEnd (v : Vp) : Vp :=
  if v.tripSrc ≠ 0 ∨ (v.fatal ∧ !v.paired) then v else { v with trip := { v.trip with out := false } }

/-- Port `p` sets the host trip (R381, R382). -/
def Vp.hostTrip (v : Vp) (p : Nat) : Vp :=
  let v := { v with trip := { v.trip with host := true } }
  let n := v.fld Reg.HOST_TRIP 16 16 + 1
  let v := v.setReg Reg.HOST_TRIP (w32 (1 + p % 4 * 2 + n % 65536 * 65536))
  ((v.hostSticky 7).hostInt 4).tripOwn 0

/-- The host trip source is removed (R381); nothing is deblocked. -/
def Vp.hostTripClear (v : Vp) : Vp :=
  if v.trip.host then
    let v := ({ v with trip := { v.trip with host := false } }).setBit Reg.HOST_TRIP 0 false
    (v.hostInt 4).tripSync
  else v

/-- A TRIP message of the partner: this VP launches its own burst (R142); a host trip of the partner shows in
`HOST_TRIP`[3] (R393) (log entry 83). -/
def Vp.tripMsg (v : Vp) (src : Nat) : Vp :=
  if !v.paired then v
  else
    let v := if src.testBit 4 then v.setBit Reg.HOST_TRIP 3 true else v
    v.tripNow (src % 64)

/-- While a source stays active a burst leaves at each boundary after the SOT, and the TRIP message goes again after the
PST (R143, R419). -/
def Vp.tripRepeat (v : Vp) : Vp :=
  if v.tripSrc = 0 then v
  else (v.burst 0).tripTell v.tripSrc

end Sys2Proof.Machine
end

