-- ==== Sys2Proof/Machine/Lane.lean ====
section
/-!
DEFINITION. One serial lane, of either part: training, adaptation, the eye monitor, losses and power states (R164 to
R181), written once over the lane's registers; and the lanes of the VP with their quads (R158 to R163, R187, R188).
-/

namespace Sys2Proof.Machine

/-! ### A lane -/

/-- A lane's registers that its own logic reads or sets (R187, R189), and its further state. -/
structure Lane where
  cfg : Word
  rxcfg : Word
  stat : Word
  coef0 : Word
  coef1 : Word
  store0 : Word
  store1 : Word
  eye : Word
  pwr : Word
  lat : Word
  sticky : Word
  hdr : Word
  los : Word
  prbs : Word
  st : LaneSt
  deriving DecidableEq, Repr

/-- Causes of R188. -/
def fEye : Nat := 1
def fBer : Nat := 2
def fLoss : Nat := 3
def fHop : Nat := 4
def fIdle : Nat := 5
def fPeer : Nat := 6
def fWire : Nat := 7
def fQuad : Nat := 9

/-- States of R177. -/
def pActive : Nat := 0
def pIdle : Nat := 1
def pDeep : Nat := 2
def pOff : Nat := 3

/-- The receiver's and transmitter's states, the states requested, and TRN. -/
def Lane.rx (x : Lane) : Nat := fld x.pwr 6 2
def Lane.tx (x : Lane) : Nat := fld x.pwr 4 2
def Lane.rxReq (x : Lane) : Nat := fld x.pwr 2 2
def Lane.txReq (x : Lane) : Nat := fld x.pwr 0 2
def Lane.trn (x : Lane) : Nat := fld x.stat 8 3

/-- A bit of `LANE_STAT`. -/
def Lane.on (x : Lane) (i : Nat) : Bool := bit x.stat i
def Lane.setStat (x : Lane) (i : Nat) (b : Bool) : Lane := { x with stat := setFld x.stat i 1 (b2n b) }
def Lane.setTrn (x : Lane) (t : Nat) : Lane := { x with stat := setFld x.stat 8 3 t }
def Lane.stick (x : Lane) (i : Nat) : Lane := { x with sticky := setFld x.sticky i 1 1 }
def Lane.setRx (x : Lane) (s : Nat) : Lane := { x with pwr := setFld x.pwr 6 2 s }
def Lane.setTx (x : Lane) (s : Nat) : Lane := { x with pwr := setFld x.pwr 4 2 s }

/-- The receiver holds signal, clock lock and block lock (R148, R153). -/
def Lane.good (x : Lane) : Bool := x.on 0 && x.on 1 && x.on 2
/-- The receiver's clock recovery holds lock on a signal (R161, R185): after a loss of signal it relocks (R170)
(log entry 120). -/
def Lane.locked (x : Lane) : Bool := x.on 0 && x.on 1
/-- The receiver is at stages 1 to 4 of R171. -/
def Lane.training (x : Lane) : Bool := decide (1 ≤ x.trn) && decide (x.trn ≤ 4)
/-- The receiver runs: it is Active. -/
def Lane.runs (x : Lane) : Bool := x.rx == pActive

/-- Frozen coefficients are copied into the store (R167). -/
def Lane.save (x : Lane) : Lane := { x with store0 := x.coef0, store1 := x.coef1 }.setStat 11 x.st.trained
/-- The coefficients are restored from the store (R167). -/
def Lane.restore (x : Lane) : Lane := { x with coef0 := x.store0, coef1 := x.store1 }

/-- A receiver that loses lock at a stage returns to the signal stage (R171). -/
def Lane.toSignal (x : Lane) : Lane :=
  if 2 ≤ x.trn ∧ x.trn ≤ 5 then { x.setTrn 1 with st := { x.st with back5 := x.trn == 5 } } else x

/-- A loss is declared: flag `b` of `LANE_STAT` falls, `LANE_STICKY` shows it, it is counted, and a receiver that loses
lock at a stage returns to the signal stage (R170, R171) (log entry 120). -/
def Lane.declare (x : Lane) (b sticky : Nat) : Lane × List Nat :=
  if !x.runs || !x.on b then (x, [])
  else
    let x := (x.setStat b false).stick sticky
    let x := { x with los := setFld x.los 0 16 (fld x.los 0 16 + 1) }
    (x.toSignal, [fLoss])

/-- `n` invalid sync headers are counted (R170). -/
def Lane.headers (x : Lane) (n : Nat) : Lane := { x with hdr := x.hdr + w32 n }

/-- Loss of block lock after `n` invalid headers (R170). -/
def Lane.lostBlock (x : Lane) (n : Nat) : Lane × List Nat := if x.runs && x.on 2 then (x.headers n).declare 2 1 else (x, [])

/-- Conditions of R170 clear, each by its own row: bit 0 of `m` loss of signal, with which the clock has relocked, bit 1
loss of clock lock, bit 2 loss of block lock. A lock needs what it stands on. -/
def Lane.clearRows (x : Lane) (m : Nat) : Lane :=
  let x := if m.testBit 0 then (x.setStat 0 true).setStat 1 true else x
  let x := if m.testBit 1 && x.on 0 then x.setStat 1 true else x
  if m.testBit 2 && x.locked then x.setStat 2 true else x

/-- Has the receiver taken a lock that it did not hold as `x`? -/
def Lane.relocked (x y : Lane) : Bool := (!x.locked && y.locked) || (!x.on 2 && y.on 2)

/-- Losses clear: once the receiver holds signal and both locks it reacquires from its stored coefficients, and is trained
again if it was; a lock brings its latency (R163, R170) (log entry 120). -/
def Lane.cleared (x : Lane) (m : Nat) (lat : Word) : Lane :=
  if !x.runs || x.good || (x.training && !x.st.back5) then x
  else
    let y := x.clearRows m
    let y := if x.relocked y then { y with lat := lat } else y
    if !y.good then y
    else
      let y := if y.on 11 then y.restore else y
      if y.st.back5 then { y.setTrn 5 with st := { y.st with back5 := false } } else y

/-- 16 invalid headers or more within 125 µs, counted in every such interval (R170). -/
def Lane.highBer (x : Lane) (n : Nat) : Lane × List Nat :=
  if !x.runs || decide (n < 16) then (x, [])
  else
    let x := x.headers n
    if x.on 3 then (x, []) else ((x.setStat 3 true).stick 2, [fBer])

/-- An interval of 125 µs with fewer (R170). -/
def Lane.berClear (x : Lane) (n : Nat) : Lane :=
  if !x.runs || decide (16 ≤ n) || !x.on 3 then x else (x.headers n).setStat 3 false

/-! ### Adaptation (R165 to R167) -/

/-- Have `n` windows of 4,096 bits at 10.3125 Gbaud lasted `ns` nanoseconds, an eighth of it in fast re-adaptation? -/
def windowsDue (n ns : Nat) (fast : Bool) : Bool :=
  decide (ns * 103125 ≤ n * 40960000 * (if fast then 8 else 1))

/-- May coefficient `k` step (R166)? -/
def Lane.due (x : Lane) (k : Nat) : Bool :=
  match x.st.gaps.lookup k with
  | none => true
  | some n => windowsDue n (if k = 0 then fld x.rxcfg 16 4 * 100000 else fld x.rxcfg 20 4 * 10000) (x.on 6)

/-- The place of a coefficient: its word (false for `LANE_COEF0`), its lowest bit and its width. -/
def coefPlace (k : Nat) : Bool × Nat × Nat :=
  match k with
  | 0 => (false, 0, 5)
  | 1 => (false, 8, 6)
  | 2 => (false, 16, 6)
  | 3 => (false, 24, 6)
  | 4 => (true, 0, 6)
  | _ => (true, 8, 6)

/-- Coefficient `k` moves one step up or down, if its interval has passed and its range allows (log entry 121). -/
def Lane.step (x : Lane) (k : Nat) (d : Int) : Lane :=
  if d = 0 ∨ !x.due k ∨ (k = 0 ∧ bit x.rxcfg 1) then x
  else
    let (hi, lo, len) := coefPlace k
    let w := if hi then x.coef1 else x.coef0
    let d := clampI (-1) 1 d
    let y := if k = 0 then twos 5 (clampI 0 31 (fld w lo len + d)) else twos 6 (clampI (-32) 31 (sgn 6 (fld w lo len) + d))
    let w := setFld w lo len y
    let x := if hi then { x with coef1 := w } else { x with coef0 := w }
    { x with st := { x.st with gaps := sput k 0 x.st.gaps } }

/-- The pattern checker counts `errs` bit errors, saturating (R187; on a host port it is clause 49's checker of R186). -/
def Lane.pattern (x : Lane) (errs : Nat) : Lane :=
  if !bit x.cfg 7 || errs == 0 then x
  else { x.stick 11 with prbs := w32 (min (x.prbs.toNat + errs) 0xFFFFFFFF) }

/-- A window of 4,096 bits ends (R166): `dens` data transitions, the direction in which adaptation would move each
coefficient, the CTLE first, and the bit errors that the pattern checker finds in it (log entry 121). -/
def Lane.window (x : Lane) (dens : Nat) (dirs : List Int) (errs : Nat) : Lane :=
  if !x.runs || x.training then x
  else
    let x := x.pattern errs
    let x := { x with st := { x.st with gaps := x.st.gaps.map (fun p : Nat × Nat => (p.1, p.2 + 1)) } }
    let ok := decide (16 * fld x.rxcfg 8 8 ≤ dens)
    let en := bit x.rxcfg 0
    let x := (x.setStat 4 ok).setStat 5 (ok && en)
    if !en then x
    else if !ok then x.stick 4
    else [0, 1, 2, 3, 4, 5].foldl (fun x k => x.step k (dirs.getD k 0)) x

/-! ### The eye (R168, R169) -/

/-- A measurement of the eye, with the thresholds of `cfg` (log entry 121). -/
def Lane.eyeMeas (x : Lane) (cfg : Word) (h v : Nat) : Lane × List Nat :=
  if !x.runs then (x, [])
  else
    let x := { x with eye := w32 (h % 256 + v % 256 * 2 ^ 8 + (fld x.eye 16 16 + 1) % 65536 * 2 ^ 16) }
    let hm := fld cfg 0 8
    let vm := fld cfg 8 8
    let low := decide (h % 256 < hm) || decide (v % 256 < vm)
    let high := decide (hm < h % 256) && decide (vm < v % 256)
    let x := { x with st := { x.st with low := if low then x.st.low + 1 else 0, high := if high then x.st.high + 1 else 0 } }
    if x.on 7 then (if 2 ≤ x.st.high then x.setStat 7 false else x, [])
    else if 2 ≤ x.st.low then (((x.setStat 7 true).stick 3).setStat 6 true, [fEye])
    else (x, [])

/-- Fast re-adaptation ends after 10 ms (R169). -/
def Lane.fastEnd (x : Lane) : Lane := x.setStat 6 false

/-! ### Training (R171 to R176) -/

/-- TRAIN content without TSEQ and CRC-8 (R172). -/
def trainContent (stage : Nat) (rxrdy done cn up : Bool) (ring chip : Nat) (ringV : Bool) : Nat :=
  stage % 4 + b2n rxrdy * 2 ^ 2 + b2n done * 2 ^ 3 + b2n cn * 2 ^ 4 + b2n up * 2 ^ 5 + ring % 16 * 2 ^ 6
    + b2n ringV * 2 ^ 10 + chip % 64 * 2 ^ 11

/-- `n` TRAIN blocks leave, each with its TSEQ and the CRC-8; the last of them shows (R172) (log entry 122). -/
def Lane.send (x : Lane) (n c : Nat) : Lane :=
  let q := (x.st.tseq + n) % 256
  { x with st := { x.st with sent := some (withCrc8 (c + (q + 255) % 256 * 2 ^ 24)), tseq := q } }

/-- Training starts: the signal stage, counted in `LANE_LOS_CNT`. -/
def Lane.trainStart (x : Lane) : Lane :=
  if (x.training && !x.st.back5) || x.rx == pOff then x
  else { x.setTrn 1 with los := setFld x.los 16 16 (fld x.los 16 16 + 1), st := { x.st with back5 := false } }

/-- A stage ends, or lock is lost (R171). `c0` and `c1` are the coefficients that full adaptation finds, of which
CTLE_FIX holds the CTLE; `lat` is the latency found at lock (R163). A lane of no hop ends its training with them: R173
confirms hops only (log entry 82). -/
def Lane.stageDone (x : Lane) (hop lost : Bool) (c0 c1 lat : Word) : Lane :=
  if x.rx == pOff then x
  else if lost then
    (if 2 ≤ x.trn ∧ x.trn ≤ 5 then (x.toSignal.setStat 1 false).setStat 2 false else x)
  else
    match x.trn with
    | 1 => { (((x.setStat 0 true).setStat 1 true).setTrn 2).setRx pActive with st := { x.st with back5 := false } }
    | 2 => { (x.setStat 2 true).setTrn 3 with lat := lat }
    | 3 =>
      let c0 := c0 &&& w32 0x3F3F3F1F
      let c0 := if bit x.rxcfg 1 then setFld c0 0 5 (fld x.rxcfg 2 5) else c0
      { x.setTrn (if hop then 4 else 5) with
        coef0 := c0, coef1 := c1 &&& w32 0x3F3F, st := { x.st with trained := !hop } }
    | _ => x

/-- The receiver's hop is confirmed: stage 5 (R173). -/
def Lane.confirmed (x : Lane) : Lane := { x.setTrn 5 with st := { x.st with trained := true } }

/-- The fields of a TRAIN content that R173 checks, against the receiving lane's direction, whether the end is a VP, and
the ring and chip that it holds. -/
def trainOk (c : Nat) (up vp : Bool) (own : Option (Nat × Nat)) : Bool :=
  c.testBit 5 == up && (!vp || c.testBit 4)
    && (match own with
      | some (r, k) => !c.testBit 10 || (c / 2 ^ 6 % 16 == r && c / 2 ^ 11 % 64 == k)
      | none => true)

/-! ### Power (R177 to R181) -/

/-- The receiver enters electrical idle or the deep state: its coefficients are frozen and stored (R167). -/
def Lane.rxRest (x : Lane) (s : Nat) : Lane :=
  if x.rx = s ∨ x.rx = pOff then x else (if x.rx = pActive then x.save else x).setRx s

/-- The receiver is Active again from idle or the deep state, with the stored coefficients (R167, R178, R179). -/
def Lane.rxWake (x : Lane) : Lane :=
  if x.rx = pIdle ∨ x.rx = pDeep then
    ((((x.setRx pActive).restore).setStat 0 true).setStat 1 true).setStat 2 true
  else x

/-- A receiver that is off holds nothing but its store: full training follows (R177) (log entry 122). -/
def Lane.rxOff (x : Lane) : Lane :=
  if x.rx = pOff then x
  else
    { x.setRx pOff with
      stat := x.stat &&& w32 0x800, st := { x.st with low := 0, high := 0, gaps := [], back5 := false } }

/-- A transmitter that is off. -/
def Lane.txOff (x : Lane) : Lane := if x.tx = pOff then x else { x.setTx pOff with st := { x.st with sent := none } }

/-- The deep state after DEEP_AFTER of loss of signal (R180) (log entry 122). -/
def Lane.deep (x : Lane) : Lane := if (x.rx = pActive ∨ x.rx = pIdle) ∧ !x.on 0 then x.rxRest pDeep else x

/-- A deep receiver detects a signal (R179); one for which the deep state is requested stays deep. -/
def Lane.sigReturn (x : Lane) (lat : Word) : Lane :=
  if x.rx = pDeep ∧ x.rxReq ≠ pDeep then { x.rxWake with lat := lat } else x

/-- Has a deep receiver become Active? -/
def Lane.woke (x y : Lane) : Bool := x.rx == pDeep && y.rx == pActive

/-- Electrical idle is lost (R178). -/
def Lane.idleLost (x : Lane) : Lane × List Nat :=
  if x.rx ≠ pIdle then (x, [])
  else
    let x := ((x.setStat 0 false).stick 0).stick 7
    ({ x with los := setFld x.los 0 16 (fld x.los 0 16 + 1) }, [fLoss, fIdle])

/-! ### The lanes of the VP -/

/-- Lane `l` of the VP. -/
def Vp.lane (v : Vp) (l : Nat) : Lane :=
  { cfg := v.reg (Reg.LANE_CFG l), rxcfg := v.reg (Reg.LANE_RXCFG l), stat := v.reg (Reg.LANE_STAT l)
    coef0 := v.reg (Reg.LANE_COEF0 l), coef1 := v.reg (Reg.LANE_COEF1 l), store0 := v.reg (Reg.LANE_STORE0 l)
    store1 := v.reg (Reg.LANE_STORE1 l), eye := v.reg (Reg.LANE_EYE l), pwr := v.reg (Reg.LANE_PWR l)
    lat := v.reg (Reg.LANE_LAT l), sticky := v.reg (Reg.LANE_STICKY l), hdr := v.reg (Reg.LANE_HDR_CNT l)
    los := v.reg (Reg.LANE_LOS_CNT l), prbs := v.reg (Reg.LANE_PRBS_CNT l), st := sget (fun _ => {}) v.lanes.lanes l }

/-- `v` with lane `l`'s own registers and state set. -/
def Vp.setLane (v : Vp) (l : Nat) (x : Lane) : Vp :=
  let v := (v.setReg (Reg.LANE_STAT l) x.stat).setReg (Reg.LANE_COEF0 l) x.coef0
  let v := (v.setReg (Reg.LANE_COEF1 l) x.coef1).setReg (Reg.LANE_STORE0 l) x.store0
  let v := (v.setReg (Reg.LANE_STORE1 l) x.store1).setReg (Reg.LANE_EYE l) x.eye
  let v := (v.setReg (Reg.LANE_PWR l) x.pwr).setReg (Reg.LANE_LAT l) x.lat
  let v := (v.setReg (Reg.LANE_STICKY l) x.sticky).setReg (Reg.LANE_HDR_CNT l) x.hdr
  let v := (v.setReg (Reg.LANE_LOS_CNT l) x.los).setReg (Reg.LANE_PRBS_CNT l) x.prbs
  { v with lanes := { v.lanes with lanes := sset (fun _ => {}) v.lanes.lanes l x.st } }

/-- The quad of a lane (R158, R159). -/
def quadOf (l : Nat) : Nat := if l < 32 then 2 * (l / 8) + l % 2 else if l < 36 then 8 else 9
/-- The power domain of a lane (R159, R465). -/
def laneDom (l : Nat) : Nat := if l < 16 then 11 else if l < 32 then 12 else if l < 36 then 13 else 14
/-- The lanes of the VP. -/
def laneIds : List Nat := List.range 40

/-- The lane has not been removed with its quad or alone, and its domain is on (R188, R396, R467). -/
def Vp.laneHere (v : Vp) (l : Nat) : Bool :=
  decide (l < 40) && v.bit Reg.SYS_PWR_STAT (laneDom l) && !v.isRemoved 7 l && !v.lanes.quadsGone.testBit (quadOf l)

/-- The lane is in the peer bundle (R182). -/
def Vp.inBundle (v : Vp) (l : Nat) : Bool := decide (36 ≤ l) && decide (l < 40) && v.bit Reg.LANE_PEER_CFG (l - 36)

/-- The PLL of a lane's quad holds lock: while it does not, the lane's transmitter sends no signal and its receiver holds
(R160). -/
def Vp.quadOk (v : Vp) (l : Nat) : Bool := v.bit Reg.LANE_QPLL_STAT (quadOf l)

/-- The lane is enabled (R180): a ring lane by `RING_EN` and the wiring of R118, a peer lane by LANES, a host port by
its own enable (log entry 122). -/
def Vp.laneEn (v : Vp) (l : Nat) : Bool :=
  v.laneHere l
    && (if l < 32 then v.bit Reg.RING_EN (l / 2) && v.owns (l % 2 == 1)
      else if l < 36 then v.bit (Reg.LANE_CFG l) 0 && v.bit (Reg.HOST_P_CFG (l - 32)) 0
      else v.inBundle l)

/-- The TRAIN content of a lane outside a hop. -/
def Vp.idleTrain (v : Vp) (l stage : Nat) : Nat := trainContent stage false false false (l % 2 == 1) 0 v.chip false

/-- The state of a transmitter: the one requested, or while Active is requested the one that R180 gives. An entry into
electrical idle sends 8 blocks of STAGE 0b01 first; idle is left by its own sequence (R178). -/
def Vp.txSync (v : Vp) (l : Nat) (x : Lane) : Lane :=
  if x.txReq = pOff ∨ (x.txReq = pActive ∧ !v.laneEn l) then x.txOff
  else if x.txReq = pActive then (if x.tx = pIdle then x else x.setTx pActive)
  else if x.txReq = pIdle then
    (if x.tx = pIdle then x else (if v.quadOk l then x.send 8 (v.idleTrain l 1) else x).setTx pIdle)
  else x.setTx pDeep

/-- The state of a receiver: the one requested, or while Active is requested the one that R180 gives. It leaves Off by full
training (R177), takes electrical idle from the blocks of STAGE 0b01 (R178), and leaves the deep state when a signal
returns (R179) (log entry 122). -/
def Vp.rxSync (v : Vp) (l : Nat) (x : Lane) : Lane :=
  if x.rxReq = pOff ∨ (x.rxReq = pActive ∧ !v.laneEn l) then x.rxOff
  else if x.rxReq = pDeep then (if x.rx = pOff then x.setRx pDeep else x.rxRest pDeep)
  else if x.rx = pOff then (if v.quadOk l then (x.setRx pActive).trainStart else x.setRx pActive)
  else x

/-- PQ is loop-timed while LOOPT is set and a peer lane holds lock (R185) (log entry 142). -/
def Vp.pqSync (v : Vp) : Vp :=
  v.setBit Reg.LANE_QPLL_STAT 10
    (v.bit Reg.LANE_PEER_CFG 4 && [36, 37, 38, 39].any (fun l => (v.lane l).rx != pOff && (v.lane l).locked))

/-- R180 and the standing requests give a lane's states, and its EN bit reads as its ring's (log entry 122). -/
def Vp.laneSync (v : Vp) (l : Nat) : Vp :=
  let v := if l < 32 then v.setBit (Reg.LANE_CFG l) 0 (v.bit Reg.RING_EN (l / 2)) else v
  let x := v.lane l
  let v := v.setLane l (if v.laneHere l then v.rxSync l (v.txSync l x) else x.txOff.rxOff)
  if 36 ≤ l ∧ l < 40 then v.pqSync else v

/-- Every lane's states, after a change of what enables them. -/
def Vp.lanesSync (v : Vp) : Vp := laneIds.foldl Vp.laneSync v

/-- Conditions found on a lane are one fault (R188, R397). They lie in traffic received on the lane (R400, R401)
(log entry 123). -/
def Vp.laneFaults (v : Vp) (l : Nat) (cs : List Nat) (addr : Nat) : Vp :=
  v.raiseAll 7 l (cs.map (fun c =>
    { cause := c, cls := if c = fWire then unc else cor, addr := addr, access := 4, master := 0x40 + l }))

/-- An operation on a lane whose quad holds lock, with the faults that it raises, shown by the register at `addr`. -/
def Vp.onLane (v : Vp) (l : Nat) (addr : Nat) (f : Lane → Lane × List Nat) : Vp :=
  if v.laneHere l && v.quadOk l then
    let (x, cs) := f (v.lane l)
    (v.setLane l x).laneFaults l cs addr
  else v

/-- A write of `LANE_PWR` is refused where either request in it is (R181) (log entry 122). -/
def Vp.lanePwrRefused (v : Vp) (l : Nat) (w : Word) : Bool :=
  let tx := Machine.fld w 0 2
  let rx := Machine.fld w 2 2
  ((decide (tx ≠ 0) || decide (rx ≠ 0))
      && (decide (l < 32) && v.bit Reg.RING_EN (l / 2) || v.inBundle l || (v.lane l).training))
    || ((decide (tx = 0) || decide (rx = 0)) && !v.laneEn l)

/-- A write to `LANE_PWR` (R181). -/
def Vp.lanePwr (v : Vp) (l : Nat) (w : Word) : Vp :=
  if v.lanePwrRefused l w then v.setBit (Reg.LANE_STICKY l) 8 true
  else (v.setFld (Reg.LANE_PWR l) 0 4 (Machine.fld w 0 4)).laneSync l

/-- A write to `LANE_CFG` is refused under R187. -/
def Vp.laneCfgRefused (v : Vp) (l : Nat) (w : Word) : Bool :=
  Machine.fld w 3 2 == 3 || Machine.fld w 5 2 == 3
    || ((Machine.fld w 3 2 != 0 || Machine.fld w 5 2 != 0) && (decide (l < 32) && v.bit Reg.RING_EN (l / 2) || v.inBundle l))

/-- A write to `LANE_TXEQ` is discarded under R164. -/
def txeqRefused (w : Word) : Bool := decide (63 < fld w 0 4 + fld w 4 6 + fld w 10 5)

/-- A write to `LANE_RXCFG` holds a value outside its stated ranges. -/
def rxcfgRefused (w : Word) : Bool :=
  decide (fld w 8 8 < 8) || decide (128 < fld w 8 8) || fld w 16 4 == 0 || fld w 20 4 == 0

/-- An operation on a lane of the VP, after which PQ takes its source anew (log entry 140). -/
def Vp.laneOp (v : Vp) (l : Nat) (addr : Nat) (f : Lane → Lane × List Nat) : Vp :=
  let v := v.onLane l addr f
  if 36 ≤ l ∧ l < 40 then v.pqSync else v

/-! ### Electrical idle at the VP (R178) -/

/-- A burst is sent, or on the receiving side a STAGE block is taken: 0b01 enters idle, 0b10 refreshes it. -/
def Vp.idleBurst (v : Vp) (l : Nat) (recv : Bool) (stage : Nat) : Vp :=
  v.laneOp l (Reg.LANE_STAT l) (fun x =>
    if recv then
      (if stage = 1 ∧ x.rx = pActive ∧ !x.training then x.rxRest pIdle else x, [])
    else if x.tx = pIdle then (x.send 128 (v.idleTrain l 2), [])
    else (x, []))

/-- Idle is left: the transmitter sends STAGE 0b11 and then traffic, or the receiver takes it. -/
def Vp.idleExit (v : Vp) (l : Nat) (recv : Bool) : Vp :=
  v.laneOp l (Reg.LANE_STAT l) (fun x =>
    if recv then (if x.rx = pIdle ∧ x.rxReq ≠ pIdle then x.rxWake else x, [])
    else if x.tx = pIdle ∧ x.txReq ≠ pIdle then ((x.setTx pActive).send 60 (v.idleTrain l 3), [])
    else (x, []))

/-! ### Hops at the VP (R151, R153, R173 to R176) -/

/-- The lanes of the VP's end of a hop (R175): its transmitter and its receiver. -/
def vpEnd (m : Nat) (far : Bool) : Nat × Nat := if far then (2 * m + 1, 2 * m) else (2 * m, 2 * m + 1)

/-- Is this end of a hop at the VP? The near end of hop 0 and the far end of hop NCELL_CFG. -/
def Vp.endHere (v : Vp) (m h : Nat) (far : Bool) : Bool := if far then h == v.ncell m else h == 0

/-- The hop is confirmed at both ends. -/
def HopSt.trained (s : HopSt) : Bool := s.near && s.far

/-- RXRDY of a hop's receiver at this VP (R172). -/
def Vp.rxReady (v : Vp) (m : Nat) (far : Bool) : Bool :=
  let r := v.lane (vpEnd m far).2
  decide (4 ≤ r.trn) && decide (r.trn ≤ 5)

/-- `n` TRAIN blocks leave on a hop's transmitter: RXRDY and DONE give the state of the hop's receiver (R172, R175). -/
def Vp.hopTrain (v : Vp) (m : Nat) (far : Bool) (n : Nat) (rdy done : Bool) : Vp :=
  let t := (vpEnd m far).1
  if v.laneEn t && v.quadOk t then
    v.setLane t ((v.lane t).send n (trainContent 0 rdy done false (t % 2 == 1) m v.chip true))
  else v

/-- A ring may train (R151, R417, R432, R446): it is enabled and has not been removed, and in paired mode the pair has
formed, or this VP runs solo or joins. -/
def Vp.mayTrain (v : Vp) (m : Nat) : Bool :=
  v.bit Reg.RING_EN m && !v.isRemoved 6 m && !v.peer.failed
    && (!v.paired || v.bit Reg.PEER_STAT 2 || v.bit Reg.PEER_STAT 4 || v.peer.joining)

/-- An end of a hop starts (R151, R174): an end at the VP starts its lane's training and sends TRAIN blocks. -/
def Vp.hopStart (v : Vp) (m h : Nat) (far : Bool) : Vp :=
  if !v.mayTrain m || decide (v.ncell m < h) then v
  else
    let v := v.updHop m h (fun s => { s with started := true })
    let v := if v.ringSt m = 0 then v.setFld (Reg.RING_STATE m) 0 2 1 else v
    if v.endHere m h far then
      let r := (vpEnd m far).2
      let v := if v.laneEn r && v.quadOk r then v.setLane r (v.lane r).trainStart else v
      v.hopTrain m far 1 (v.laneEn r && v.rxReady m far) false
    else v

/-- Have the trainings of a ring ended: is every hop confirmed or declared broken (R151)? -/
def Vp.hopsDone (v : Vp) (m : Nat) : Bool :=
  (List.range (v.ncell m + 1)).all (fun h => (v.hop m h).trained || (v.hop m h).broken)

/-- A retrained hop is closed, unless HOLD_SPLIT is set (R153). -/
def Vp.retrained (v : Vp) (m h : Nat) : Vp := if v.bit (Reg.RING_CFG m) 31 then v else v.closeRequest m h

/-- An end of a hop is confirmed (R173). `blk` is the content of the TRAIN blocks with RXRDY that were received. The end
at a VP checks them; an end at a cell has done so itself (`ok`). In paired mode the partner passes on RXRDY and DONE of an
end whose receiver it holds, as `blk` carries them, and they leave on this VP's transmitter (R175) (log entry 82). A block
whose CRC-8 fails is a block error (R172). -/
def Vp.hopConfirm (v : Vp) (m h : Nat) (far : Bool) (blk : Nat) (ok : Bool) : Vp :=
  if !v.mayTrain m || decide (v.ncell m < h) then v
  else
    let r := (vpEnd m far).2
    let atVp := v.endHere m h far
    let here := atVp && v.laneEn r
    if here && !crc8Ok blk then v.addFld (Reg.RING_CRC_CNT m) 0 16 1
    else if here && ((v.lane r).trn != 4 || !blk.testBit 2 || !v.quadOk r) then v
    else if here && !trainOk blk (r % 2 == 1) true (some (m, v.chip)) then
      (v.setLane r ((v.lane r).stick 6)).laneFaults r [fWire] (Reg.LANE_STICKY r)
    else if !here && !ok then (if atVp && v.paired then v.hopTrain m far 1 (blk.testBit 2) false else v)
    else
      let v := if here then v.setLane r (v.lane r).confirmed else v
      let v := if atVp then v.hopTrain m far 16 true true else v
      let v := v.updHop m h (fun s => if far then { s with far := true } else { s with near := true })
      if (v.hop m h).broken ∧ (v.hop m h).trained then v.retrained m h else v

/-- A hop is not trained within 2 ms of its start: it is declared broken, and both lanes of an end at the VP set
TRAIN_FAIL (R151, R176) (log entries 17, 82). -/
def Vp.hopTimeout (v : Vp) (m h : Nat) : Vp :=
  let s := v.hop m h
  if !s.started || s.trained || !v.mayTrain m || decide (v.ncell m < h) then v
  else
    let wait := v.nextWait s
    let v := v.updHop m h (fun s => { s with started := false, near := false, far := false, broken := true, wait := wait })
    let v := (v.setFld (Reg.RING_RETRY m) 16 16 wait).setBit (Reg.RING_STICKY m) 0 true
    [false, true].foldl (fun v far =>
      if v.endHere m h far then
        let (t, r) := vpEnd m far
        let v := if v.laneEn t then v.setLane t ((v.lane t).stick 5) else v
        if v.laneEn r then
          (v.setLane r (((v.lane r).setTrn 6).stick 5)).laneFaults r [fHop] (Reg.LANE_STICKY r)
        else v
      else v) v

/-- A retraining attempt starts (R153): both ends train the hop again (log entry 144). -/
def Vp.retrain (v : Vp) (m h : Nat) : Vp :=
  let s := v.hop m h
  if !s.broken || s.started || s.closeAt != 0 || s.check != 0 || !v.mayTrain m || decide (v.ncell m < h) then v
  else
    let v := v.updHop m h (fun s => { s with near := false, far := false })
    let v := v.addFld (Reg.RING_RETRY m) 0 16 1
    (v.hopStart m h false).hopStart m h true

/-- RETRAIN_NOW and CLOSE_NOW of `RING_CTL`, each for every broken hop it can act on (R153, R155). -/
def Vp.retrainNow (v : Vp) (m : Nat) : Vp :=
  ((v.ring m).hops.filter (fun p => p.2.broken && !p.2.trained)).foldl (fun v p => v.retrain m p.1) v
def Vp.closeNow (v : Vp) (m : Nat) : Vp :=
  ((v.ring m).hops.filter (fun p => p.2.broken && p.2.trained)).foldl (fun v p => v.closeRequest m p.1) v

/-! ### Quads -/

/-- A quad PLL loses lock (R160, R187): its transmitters send nothing and its receivers hold. -/
def Vp.quadLost (v : Vp) (q : Nat) : Vp :=
  let v := v.setBit Reg.LANE_QPLL_STAT q false
  (laneIds.filter (fun l => quadOf l == q)).foldl (fun v l => v.setBit (Reg.LANE_STICKY l) 9 true) v

/-- A quad PLL has not relocked within 1 ms (R188) (log entry 123). -/
def Vp.quadTimeout (v : Vp) (q : Nat) : Vp :=
  if decide (10 ≤ q) || v.bit Reg.LANE_QPLL_STAT q || v.lanes.quadsGone.testBit q then v
  else v.raise 7 (0x40 + q) fQuad fat Reg.LANE_QPLL_STAT

/-- A lane or a quad is removed (R188, R396). -/
def Vp.removeLanes (v : Vp) (inst : Nat) : Vp :=
  (if 0x40 ≤ inst then
      { v with lanes := { v.lanes with quadsGone := putBit v.lanes.quadsGone (inst - 0x40) true } }
    else v).lanesSync

/-! ### The peer bundle (R182 to R184) -/

/-- The bundle lanes whose receivers hold block lock and alignment: RXOK as sent. -/
def Vp.rxOk (v : Vp) : Nat :=
  [0, 1, 2, 3].foldl (fun b i =>
    putBit b i (v.inBundle (36 + i) && v.laneEn (36 + i) && (v.lane (36 + i)).good && v.lanes.aligned.testBit i)) 0

/-- A trained lane of the bundle. -/
def Vp.bundleUp (v : Vp) (i : Nat) : Bool := v.inBundle (36 + i) && v.laneEn (36 + i) && (v.lane (36 + i)).trn == 5

/-- A DSK content (R183). -/
def dskContent (lane active rxok mseq : Nat) : Nat :=
  withCrc8 (lane % 4 + active % 16 * 2 ^ 2 + rxok % 16 * 2 ^ 6 + mseq % 65536 * 2 ^ 16)

/-- The markers leave on every trained lane of the bundle; lanes leave ACTIVE, or join it after two clear markers
(R183, R184) (log entry 88). -/
def Vp.dskSend (v : Vp) : Vp :=
  if !v.quadOk 36 then v
  else
  let part := v.fld Reg.LANE_PEER_STAT 4 4
  let act := v.fld Reg.LANE_PEER_STAT 0 4
  let ok := fun i => v.bundleUp i && part.testBit i && (v.lane (36 + i)).good
  let count := fun i => if ok i then sget (fun _ => 0) v.lanes.clear i + 1 else 0
  let new := [0, 1, 2, 3].foldl (fun b i =>
    putBit b i (ok i && (act.testBit i || decide (2 ≤ count i)))) 0
  let mseq := v.lanes.mseq
  let rxok := v.rxOk
  let dsk := ([0, 1, 2, 3].filter v.bundleUp).map (fun i => (i, dskContent i new rxok mseq))
  let clear := [0, 1, 2, 3].foldl (fun l i => sset (fun _ => 0) l i (min 2 (count i))) v.lanes.clear
  let v := { v with lanes := { v.lanes with mseq := (mseq + 1) % 65536, clear := clear, dsk := dsk } }
  let v := v.setFld Reg.LANE_PEER_STAT 0 4 new
  [0, 1, 2, 3].foldl (fun v i =>
    if act.testBit i && !new.testBit i then
      (v.setBit (Reg.LANE_STICKY (36 + i)) 10 true).laneFaults (36 + i) [fPeer] Reg.LANE_PEER_STAT
    else v) v

/-- Markers of equal MSEQ arrive: per lane its content and by how many blocks it lies behind the earliest (R183)
(log entry 88). -/
def Vp.dskIn (v : Vp) (ms : List (Nat × Nat × Nat)) : Vp :=
  let ms := ms.filter (fun m => decide (m.1 < 4) && v.bundleUp m.1 && crc8Ok m.2.1 && m.2.1 % 4 == m.1)
  match ms with
  | [] => v
  | m0 :: _ =>
    let ms := ms.filter (fun m => m.2.1 / 2 ^ 16 % 65536 == m0.2.1 / 2 ^ 16 % 65536)
    let good := ms.filter (fun m => decide (m.2.2 ≤ 32))
    let al := good.foldl (fun b m => putBit b m.1 true) 0
    let skew := ms.foldl (fun s m => max s m.2.2) 0
    let v := { v with lanes := { v.lanes with aligned := al } }
    let act := m0.2.1 / 2 ^ 2 % 16
    let v := v.setFld Reg.LANE_PEER_STAT 4 4 (m0.2.1 / 2 ^ 6 % 16)
    let v := v.setFld Reg.LANE_PEER_STAT 8 8 (min skew 255)
    let v := v.setBit Reg.LANE_PEER_STAT 16 (act &&& al == act)
    (ms.filter (fun m => decide (32 < m.2.2))).foldl (fun v m => v.setBit (Reg.LANE_STICKY (36 + m.1)) 10 true) v

/-- The peer lanes carry messages: some lane is active (R182). -/
def Vp.bundleOn (v : Vp) : Bool := v.fld Reg.LANE_PEER_STAT 0 4 != 0

end Sys2Proof.Machine
end

