-- ==== Sys2Proof/Machine/CellParts.lean ====
section
/-!
DEFINITION. A cell node as plain data, its register storage, its clock and the fields of `CN_SYS_STATE` (R78, R114 to
R117, R157, R189, R230).
-/

namespace Sys2Proof.Machine

/-- One nanosecond in the unit of a cell's clocks, 2^-32 ns; and 62.5 ps, the resolution of its edges (R87). -/
def nsU : Nat := 4294967296
def edgeU : Nat := 268435456

/-- The gate outputs (R85). -/
inductive Gate where
  | ah | al | bh | bl
  deriving DecidableEq, Repr

/-- One logical gate output: its level, its last rising edge on the cell's clock, the instant before which a stretched
pulse may not end (R89), and the edge that is scheduled for it. -/
structure GateSt where
  hi : Bool := false
  rise : Nat := 0
  hold : Nat := 0
  pend : Option (Nat × Bool) := none
  deriving DecidableEq, Repr

/-- What the switching stage does at a scheduled instant beside single edges (R89, R92, R99). -/
inductive Todo where
  /-- An excursion to the inserted state that is due to return at the instant given. -/
  | excursion (back : Nat)
  /-- The return from an excursion to the bypassed state. -/
  | back
  /-- The end of the cell's own refresh pulse: the return to the inserted state. -/
  | refreshed
  deriving DecidableEq, Repr

/-- A running carrier (R92, R93): its pair, its next start on the cell's clock, and whether it is local PWM. -/
structure Pwm where
  ksel : Nat
  duty : Nat
  next : Nat
  isLocal : Bool
  deriving DecidableEq, Repr

/-- What a cell latches at a sample instant (R82). -/
structure Latch where
  frame : Nat
  code : Nat
  h : Nat
  deriving DecidableEq, Repr

/-- What a cell keeps of a train for the apply instant of its frame (R136): the choice fields of its SOT, when its block
14 ended after B_n in units of 62.5 ps, and its record and bitmaps. -/
structure CnRec where
  frame : Nat
  gen : Nat
  active : Bool
  src : Bool
  up : Bool
  blk14 : Int
  w0 : Nat
  w1 : Nat
  w2 : Nat
  ack : Nat
  grant : Nat
  deriving DecidableEq, Repr

/-- A usable stamp (R209): the copy (0 a, 1 b, 2 c of the downstream-launched train, 3 c of the upstream-launched one),
the boundary in whose window it lies, its offset from that boundary in units of 62.5 ps, the FRAME_NO of its train, H1 and
H2, and the cell's clock. -/
structure Stamp where
  copy : Nat
  k : Nat
  ofs : Int
  frame : Nat
  h1 : Nat
  h2 : Nat
  clk : Nat
  deriving DecidableEq, Repr

/-- What a transmitter of a cell last sent of each kind (R135, R138, R144). -/
inductive Sent where
  /-- A train: its SOT, and the block in the cell's own slot position, `none` where that is not known. -/
  | train (sot : Nat) (slot : Option Nat)
  | urgent (content : Nat)
  /-- A packet: MGS, the data blocks, DCRC and MGE. -/
  | packet (mgs : Nat) (blocks : List Nat) (dcrc mge : Nat)
  deriving DecidableEq, Repr

/-- A cell node (log entry 141). -/
structure Cell where
  /-- Registers at CN word addresses, and the housekeeping memory (R114). -/
  regs : List (Nat × Word) := []
  hkMem : List Host.Cell := []
  /-- The cause of the last reset, as `CN_SYS_RST_CAUSE` shows it (R474). -/
  rstCause : Nat := 1
  /-- The latched further words of multi-word values (R230). -/
  wide : List (Nat × Word) := []
  /-- The root PLL has lost lock: the gate outputs are clamped until relock (R460). -/
  clamped : Bool := false
  tap : Tap := .idcode
  /-- HOP of the last outbound SOT of either direction (R130, R133), NCELL_CFG, and the ring and chip index taken from the
  first neighbour with whom a hop was confirmed (R173). -/
  hopDn : Option Nat := none
  hopUp : Option Nat := none
  ncell : Nat := 0
  ringChip : Option (Nat × Nat) := none
  /-- Configuration (R141): the CRC so far before its final XOR, RETIRE held, and the calibration under way (R112). -/
  cfgCrc : Nat := 0xFFFFFFFF
  cfgRetire : Bool := false
  calib : Bool := false
  /-- The TAG of the last packet applied, per SRC (R138). -/
  tag0 : Option Nat := none
  tag1 : Option Nat := none
  /-- The cell's clock since its reset, and ring frame time once it is set, in units of 2^-32 ns (R217). -/
  clk : Nat := 0
  isSet : Bool := false
  t : Nat := 0
  /-- The servo (R193, R218): LOCKED, the integral term, consecutive measurements within LOCK_THR, and the anomalies of the
  current series, in ns. -/
  locked : Bool := false
  freq : Rat := 0
  run : Nat := 0
  series : List Rat := []
  /-- The holdover values in ns (R214). -/
  da : Option Rat := none
  db : Option Rat := none
  /-- The usable stamps since the last update (R209), and the N of the last (R214). -/
  stamps : List Stamp := []
  lastN : Option Nat := none
  /-- The repeat latencies of CL0 and CL1 in ps (R212). -/
  hop0 : Nat := 0
  hop1 : Nat := 0
  /-- Samples (R82): the two most recent latches, the newest first; the over-range flag of the newest; its report, its 48
  bits with the CRC16, with its frame (R132). -/
  latches : List Latch := []
  ovrng : Bool := false
  report : Option (Nat × Nat) := none
  /-- Apply instants: the frame of the last one, and the records received (R136). -/
  applied : Option Nat := none
  recs : List CnRec := []
  /-- Flags of the coming report (R79): missed, short pulse, and the warnings as in R130 [37:34]. -/
  missed : Bool := false
  short : Bool := false
  warn : Nat := 0
  ldir : Bool := false
  mbox : Bool := false
  /-- Counts of R48, R106 and R109, and an urgent block that no block-mode record has followed (R105). -/
  unackRun : Nat := 0
  lossRun : Nat := 0
  frzLoss : Nat := 0
  urgent : Bool := false
  /-- The switching stage (R85 to R99). -/
  ah : GateSt := {}
  al : GateSt := {}
  bh : GateSt := {}
  bl : GateSt := {}
  todo : List (Nat × Todo) := []
  pwm : Option Pwm := none
  /-- The commit of R94: halves staged since the last one, and the pair that the next carrier start takes. -/
  half0 : Bool := false
  half1 : Bool := false
  commit : Option Word := none
  /-- The insertion timer in units of 2^-32 ns, and the frame of the first report that carried refresh-due since (R96,
  R99). -/
  insTime : Nat := 0
  dueFrom : Option Nat := none
  /-- Configuration writes that take effect at the next apply instant, and a retire command (R104, R115). -/
  pendCfg : List (Nat × Word) := []
  retire : Bool := false
  /-- Pending values of the boundary registers (R73, R230). -/
  pendOvr : Option Nat := none
  pendLead : Option Nat := none
  pendApply : Option Nat := none
  /-- The instant at which the override was decoded, on the cell's clock (R90). -/
  ovrDec : Nat := 0
  /-- The bypass sequence (R102): the instants at which the outputs are asserted, on the cell's clock; and the outputs. -/
  fastAt : Nat := 0
  mechAt : Nat := 0
  fast : Bool := false
  mech : Bool := false
  /-- Chatter detectors that fire: bit 0 `DESAT_A_N`, 1 `DESAT_B_N`, 2 `GSUP_OK`; and the level of `GSUP_OK` that its
  filter passed last (R101). -/
  chatter : Nat := 0
  gsup : Bool := true
  /-- Consecutive slice 0 conversions above OV_TRIP, the latest included (R100). -/
  ovRun : Nat := 0
  /-- The auxiliary channel whose result comes next (R110). -/
  auxNext : Nat := 0
  /-- The configuration has been rewritten since the last parity error (R100). -/
  rewritten : Bool := false
  /-- The stage of a recalibration (R112): 0 none, 1 slice 0, 2 slice 1. -/
  recal : Nat := 0
  /-- Sides, bit 0 for P and bit 1 for S (R148): bridging until closed, hop trained since reset, hop confirmed by the last
  training, and receiver orphaned (R149). -/
  broken : Nat := 0
  trained : Nat := 0
  confirmed : Nat := 0
  orphan : Nat := 0
  /-- Transmitters that are squelched for want of a stream, bit 0 for CL0 (R149). -/
  squelch : Nat := 3
  /-- The lanes (R164 to R181). -/
  lanes : List (Nat × LaneSt) := []
  /-- The housekeeping core's mailbox interrupt (R116). -/
  hkIrq : Bool := false
  /-- What the transmitters of CL0 (key 0) and CL1 (key 1) last sent. -/
  sent : List (Nat × Sent) := []
  deriving DecidableEq, Repr

/-! ### Registers -/

/-- The register at CN word address `a`. -/
def Cell.reg (c : Cell) (a : Nat) : Word := sget cnReset c.regs a
/-- `c` with the register at `a` holding `w`. -/
def Cell.setReg (c : Cell) (a : Nat) (w : Word) : Cell := { c with regs := sset cnReset c.regs a w }
/-- A field of a register. -/
def Cell.fld (c : Cell) (a lo len : Nat) : Nat := Machine.fld (c.reg a) lo len
/-- A bit of a register. -/
def Cell.bit (c : Cell) (a i : Nat) : Bool := Machine.bit (c.reg a) i
/-- `c` with a field of a register set. -/
def Cell.setFld (c : Cell) (a lo len x : Nat) : Cell := c.setReg a (Machine.setFld (c.reg a) lo len x)
/-- `c` with a bit of a register set to `b`. -/
def Cell.setBit (c : Cell) (a i : Nat) (b : Bool) : Cell := c.setFld a i 1 (b2n b)
/-- `c` with 1 added to a counter that wraps. -/
def Cell.inc (c : Cell) (a : Nat) : Cell := c.setReg a (c.reg a + 1)
/-- `c` with `n` added to a field that wraps. -/
def Cell.addFld (c : Cell) (a lo len n : Nat) : Cell := c.setFld a lo len (c.fld a lo len + n)

/-! ### State and causes (R78, R116) -/

/-- STATE values of R78. -/
def stUnconf : Nat := 0
def stBlocked : Nat := 1
def stActive : Nat := 2
def stFrozen : Nat := 3
def stRetired : Nat := 4

/-- STATE. -/
def Cell.st (c : Cell) : Nat := c.fld Reg.CN_SYS_STATE 0 3
/-- `c` in another state. -/
def Cell.setSt (c : Cell) (x : Nat) : Cell := c.setFld Reg.CN_SYS_STATE 0 3 x
/-- GSTATE: 0 bypassed, 1 inserted, 2 trim, 3 all low. -/
def Cell.gst (c : Cell) : Nat := c.fld Reg.CN_SYS_STATE 3 2
/-- `c` with another gate state. -/
def Cell.setGst (c : Cell) (x : Nat) : Cell := c.setFld Reg.CN_SYS_STATE 3 2 x
/-- BLK_CAUSE, its bit 0 for a record in block mode. -/
def Cell.causes (c : Cell) : Nat := c.fld Reg.CN_SYS_STATE 8 9
/-- A block cause is set or cleared. -/
def Cell.setCause (c : Cell) (i : Nat) (b : Bool) : Cell := c.setBit Reg.CN_SYS_STATE (8 + i) b
/-- A block cause stands. -/
def Cell.hasCause (c : Cell) (i : Nat) : Bool := c.bit Reg.CN_SYS_STATE (8 + i)
/-- The bits of BLK_CAUSE. -/
def cBlock : Nat := 0
def cUrgent : Nat := 1
def cLoss : Nat := 2
def cUnack : Nat := 3
def cSupply : Nat := 4
def cTemp : Nat := 5
def cParity : Nat := 6
def cOverride : Nat := 7
def cFreeze : Nat := 8

/-- A configured cell is in any state but Unconfigured (R130). -/
def Cell.configured (c : Cell) : Bool := c.st != stUnconf
/-- The protection table is watched in every configured state but Retired (R100). -/
def Cell.guarded (c : Cell) : Bool := c.configured && c.st != stRetired

/-! ### Position (R12, R133) -/

/-- The cell's position, once it has one: HOP of a downstream-launched train, or what an upstream-launched one gives
(log entry 81). -/
def Cell.pos (c : Cell) : Option Nat :=
  match c.hopDn with
  | some h => some h
  | none =>
    match c.hopUp with
    | some h => if h < c.ncell then some (c.ncell - 1 - h) else none
    | none => none

/-- The node identifier of a configured cell. -/
def Cell.node (c : Cell) : Nat := c.fld Reg.CN_SYS_NODE 0 18

/-! ### The clock -/

/-- FRAME_PERIOD of the cell in units of 2^-32 ns. -/
def Cell.fpU (c : Cell) : Nat := periodNs (c.fld Reg.CN_TIME_PERIOD 0 4) * nsU
/-- FRAME_NO of the counter. -/
def Cell.frame (c : Cell) : Nat := c.t / c.fpU
/-- INC in units of 2^-32 ns. -/
def Cell.incr (c : Cell) : Nat := (c.reg Reg.CN_TIME_INC0).toNat + (c.reg Reg.CN_TIME_INC1).toNat * nsU

/-- The timer of R96 runs: the cell is inserted, or runs carriers that insert it, and is neither blocked nor frozen
(log entry 126). -/
def Cell.timerRuns (c : Cell) : Bool :=
  c.st == stActive && (c.gst == 1 || c.gst == 2 || c.bit Reg.CN_SYS_STATE 21)

/-- What the counter gains while the cell's clock counts `d`: INC for each tick of 4 ns (R190, R221). -/
def Cell.counted (c : Cell) (d : Nat) : Nat := d * c.incr / (4 * nsU)
/-- What the cell's clock counts while the counter gains `e`. -/
def Cell.clocked (c : Cell) (e : Nat) : Nat := if c.incr = 0 then 0 else e * (4 * nsU) / c.incr

/-- `d` units of 2^-32 ns pass on the cell's clock, and the counter gains `e`: the insertion timer goes on with them, and
returns to 0 when `GATE_AL` has been high for 300 ns (R96) (log entry 16). -/
def Cell.advance (c : Cell) (d e : Nat) : Cell :=
  let c := { c with clk := c.clk + d, t := if c.isSet then c.t + e else c.t }
  if c.al.hi ∧ c.al.rise + 300 * nsU ≤ c.clk then { c with insTime := 0, dueFrom := none }
  else if c.timerRuns then { c with insTime := c.insTime + d } else c

/-- `d` units of 2^-32 ns pass on the cell's clock; the counter goes on by INC (R190, R221). -/
def Cell.pass (c : Cell) (d : Nat) : Cell := c.advance d (c.counted d)

/-- Ring frame time reaches `x`, when it has not passed it already (log entry 16). -/
def Cell.passTo (c : Cell) (x : Nat) : Cell := if c.isSet then c.advance (c.clocked (x - c.t)) (x - c.t) else c
/-- The cell's clock reaches `x` (log entry 16). -/
def Cell.clkTo (c : Cell) (x : Nat) : Cell := c.pass (x - c.clk)

/-- SAMPLE_LEAD and APPLY_OFFSET in force, in units of 2^-32 ns. -/
def Cell.leadU (c : Cell) : Nat := c.fld Reg.CN_TIME_SLEAD 0 12 * nsU
def Cell.applyU (c : Cell) : Nat := c.fld Reg.CN_TIME_APPLY 0 16 * nsU

end Sys2Proof.Machine
end

