-- ==== Sys2Proof/Machine/CellGate.lean ====
section
/-!
DEFINITION. The switching stage of a cell: gate states and their edges, short pulses, the trim and local PWM carriers, the
cell's own refresh pulse, protective turn-offs and the pins (R85 to R99, R117, R486).
-/

namespace Sys2Proof.Machine

/-- The gate outputs in order, and the other gate of a leg. -/
def gates : List Gate := [.ah, .al, .bh, .bl]
def Gate.other : Gate → Gate
  | .ah => .al | .al => .ah | .bh => .bl | .bl => .bh

/-- One gate output. -/
def Cell.gate (c : Cell) : Gate → GateSt
  | .ah => c.ah | .al => c.al | .bh => c.bh | .bl => c.bl
/-- `c` with a gate output changed. -/
def Cell.setGate (c : Cell) (g : Gate) (x : GateSt) : Cell :=
  match g with
  | .ah => { c with ah := x } | .al => { c with al := x } | .bh => { c with bh := x } | .bl => { c with bl := x }

/-- DEAD_TIME and MIN_PULSE in units of 2^-32 ns (R88). -/
def Cell.deadU (c : Cell) : Nat := c.fld Reg.CN_SW_DT 0 15 * edgeU
def Cell.minU (c : Cell) : Nat := c.fld Reg.CN_SW_MINP 0 17 * edgeU

/-- A gate's level now. -/
def Cell.level (c : Cell) (g : Gate) (b : Bool) : Cell :=
  let x := c.gate g
  if x.hi = b then c.setGate g { x with pend := none }
  else c.setGate g { hi := b, rise := if b then c.clk else x.rise, hold := if b then x.hold else 0, pend := none }

/-- An edge at instant `t`: at once when `t` has come. -/
def Cell.edge (c : Cell) (g : Gate) (t : Nat) (b : Bool) : Cell :=
  if t ≤ c.clk then c.level g b else c.setGate g { c.gate g with pend := some (t, b) }

/-- The gate outputs that stand high in a gate state: 0 bypassed, 1 inserted, 2 trim (bypassed between its pulses), 3 all
low (R85, R92). -/
def wanted (full : Bool) (gst : Nat) : Gate → Bool
  | .ah => gst == 1
  | .al => gst == 0 || gst == 2
  | .bh => false
  | .bl => full && gst != 3

/-- A dropped excursion, a stretched pulse, and a late stretch (R79, R89, R90, R116). -/
def Cell.dropped (c : Cell) : Cell := { ((c.inc Reg.CN_SW_DROP_CNT).setBit Reg.CN_SW_STICKY 2 true) with short := true }
def Cell.stretched (c : Cell) : Cell := { ((c.inc Reg.CN_SW_STR_CNT).setBit Reg.CN_SW_STICKY 3 true) with short := true }
def Cell.late (c : Cell) : Cell := { ((c.inc Reg.CN_SW_LATE_CNT).setBit Reg.CN_SW_STICKY 4 true) with short := true }

/-- When a gate that must fall falls: at once, but not before the end of a stretched pulse; and not before MIN_PULSE has
passed since it rose when it rose by `dec`, the instant at which the change was decoded (R89, R90) (log entry 125). -/
def Cell.offAt (c : Cell) (g : Gate) (dec : Option Nat) : Nat × Bool :=
  let x := c.gate g
  let off := max c.clk x.hold
  match dec with
  | some d => if x.rise ≤ d ∧ off < x.rise + c.minU then (x.rise + c.minU, true) else (off, false)
  | none => (off, false)

/-- The turn-off of one gate in a change of state (R86, R90). -/
def Cell.turnOff (c : Cell) (want : Gate → Bool) (dec : Option Nat) (g : Gate) : Cell :=
  let x := c.gate g
  if want g then (if x.hi then c.setGate g { x with pend := none } else c)
  else if x.hi then
    let (off, late) := c.offAt g dec
    (if late then c.late else c).edge g off false
  else c.setGate g { x with pend := none }

/-- The turn-on of one gate in a change of state: DEAD_TIME after the change, or after a delayed turn-off in its leg; a
turn-on already due for it stays (R86, R90). `off` says that the change turned the other gate of the leg off. -/
def Cell.turnOn (c : Cell) (want : Gate → Bool) (off : Gate → Bool) (g : Gate) : Cell :=
  let x := c.gate g
  if !want g || x.hi then c
  else if x.pend.isSome ∧ !off g.other then c
  else
    let t := match (c.gate g.other).pend with
      | some (t, _) => max c.clk t
      | none => c.clk
    c.edge g (t + c.deadU) true

/-- A change of state now (R86): `dec` is the instant at which the record or override was decoded, `none` for the edges of
an excursion (log entry 125). -/
def Cell.change (c : Cell) (gst : Nat) (dec : Option Nat) : Cell :=
  let want := wanted (c.bit Reg.CN_SW_CFG 0) gst
  let was := fun g => (c.gate g).hi && !want g
  let c := gates.foldl (fun c g => c.turnOff want dec g) c
  gates.foldl (fun c g => c.turnOn want was g) c

/-- A protective turn-off (R91): all gate outputs low together, at once; nothing stays scheduled. -/
def Cell.allLow (c : Cell) : Cell :=
  let c := gates.foldl (fun c g => (c.level g false)) c
  { c with todo := [], pwm := none }.setGst 3

/-- The switching stage holds its levels (R108): no edge stays scheduled. -/
def Cell.holdGates (c : Cell) : Cell :=
  let c := gates.foldl (fun c g => c.setGate g { c.gate g with pend := none }) c
  { c with todo := [], pwm := none }

/-- An instant of the stage is scheduled. -/
def Cell.plan (c : Cell) (t : Nat) (x : Todo) : Cell := { c with todo := c.todo ++ [(t, x)] }

/-- The pulse itself runs: from the bypassed state out at once and back at `back`, later when it is stretched for being
short (R89). -/
def Cell.pulse (c : Cell) (isShort : Bool) (back : Nat) : Cell :=
  let stop := c.clk + c.deadU + c.minU
  let c' := if isShort then c.stretched.setGate .ah { c.ah with hold := stop } else c
  (c'.change 1 none).plan (max back stop) .back

/-- What the cell knows of its next apply instant: when the record for it was decoded, the instant, both on its clock,
and the gate state that the record brings (R89). -/
structure NextGate where
  dec : Nat
  at_ : Nat
  gst : Nat
  deriving DecidableEq, Repr

/-- When the pulse of an excursion that returns at `back` ends, by every record decoded so far (R89): at the apply instant
when that comes first and brings another state, and not at all when it brings the inserted state. -/
def Cell.pulseEnd (c : Cell) (next : Option NextGate) (back : Nat) : Option Nat :=
  match next with
  | some n =>
    if c.clk < n.dec ∨ back ≤ n.at_ then some back else if n.gst = 1 then none else some n.at_
  | none => some back

/-- The instant of the complementary turn-on that the return from the excursion before this one has planned, or will plan
when it still waits (R89). -/
def Cell.returnOn (c : Cell) : Option Nat :=
  match c.al.pend with
  | some (t, true) => some t
  | _ => (c.todo.find? (fun x : Nat × Todo => x.2 == .back)).map (fun x => x.1 + c.deadU)

/-- The complementary pulse that this excursion would end is dropped (R89): its turn-on no longer waits, and the return that
would bring it is given up. -/
def Cell.dropReturn (c : Cell) : Cell :=
  let c := { c.dropped with todo := c.todo.filter (fun x : Nat × Todo => x.2 != Todo.back) }
  match c.al.pend with
  | some (_, true) => c.setGate .al { c.al with pend := none }
  | _ => c

/-- An excursion's first edge is due (R89): the excursion is fixed, and dropped or stretched where its pulse, or the
complementary pulse that it ends, would be short (log entry 125). -/
def Cell.excursion (c : Cell) (next : Option NextGate) (back : Nat) : Cell :=
  let stretch := c.bit Reg.CN_SW_CFG 4
  let isShort := (c.pulseEnd next back).any (fun e => decide (e < c.clk + c.deadU + c.minU))
  let due := c.returnOn
  let on := match due with
    | some t => some t
    | none => if c.al.hi then some c.al.rise else none
  let cut := match on with
    | some t => decide (c.clk < t + c.minU)
    | none => false
  if isShort ∧ !stretch then c.dropped
  else if !cut then c.pulse isShort back
  else if stretch then
    let t := on.getD 0 + c.minU
    c.stretched.plan t (.excursion (back + (t - c.clk)))
  else if due.isSome then c.dropReturn.pulse isShort back
  else c.dropped

/-- A scheduled instant of the stage has come (log entry 124). -/
def Cell.runTodo (c : Cell) (next : Option NextGate) (x : Todo) : Cell :=
  match x with
  | .excursion back => c.excursion next back
  | .back => c.change 0 none
  | .refreshed => c.change 1 none

/-- The scheduled instants: of the stage, and of single edges (log entry 124). -/
def Cell.dueTimes (c : Cell) : List Nat :=
  c.todo.map (·.1) ++ gates.filterMap (fun g => (c.gate g).pend.map (·.1))

/-- The earliest of a list. -/
def earliest : List Nat → Option Nat
  | [] => none
  | x :: xs => some (xs.foldl min x)

/-- The edge scheduled for a gate, when it has come. -/
def Cell.runEdge (c : Cell) (g : Gate) : Cell :=
  match (c.gate g).pend with
  | some (t, b) => if t ≤ c.clk then c.level g b else c
  | none => c

/-- The single edges scheduled by now (log entry 124). -/
def Cell.runEdges (c : Cell) : Cell := gates.foldl Cell.runEdge c

/-- The instant of the stage that has come by `t`, a return before an excursion that begins with it. -/
def Cell.dueTodo (c : Cell) (t : Nat) : Option (Nat × Todo) :=
  match c.todo.find? (fun x : Nat × Todo => decide (x.1 ≤ t) && x.2 == .back) with
  | some x => some x
  | none => c.todo.find? (fun x : Nat × Todo => decide (x.1 ≤ t))

/-- The earliest scheduled edge falls due (R86, R87, R89). -/
def Cell.edgeDue (c : Cell) (next : Option NextGate) : Cell :=
  match earliest c.dueTimes with
  | none => c
  | some t =>
    let c := c.clkTo t
    match c.dueTodo t with
    | some x => { c with todo := c.todo.erase x }.runTodo next x.2
    | none => c.runEdges

/-! ### Carriers (R92 to R95) -/

/-- The carrier divisor of a KSEL (R56). -/
def kOf (ksel : Nat) : Nat := 2 ^ (ksel % 4)

/-- One carrier of a pair from instant `t`: its centred pulse is scheduled (R92). -/
def Cell.carrierPulse (c : Cell) (t ksel duty : Nat) : Cell :=
  if duty = 0 then c
  else
    let tc := c.fpU / edgeU / kOf ksel
    let on := (divNear 55 (duty * tc : Nat) 65536).toNat
    let s := (divNear 56 ((tc : Int) - on) 2).toNat
    let e := (divNear 56 ((tc : Int) + on) 2).toNat
    c.plan (t + s * edgeU) (.excursion (t + e * edgeU))

/-- A carrier period starts (R92, R93); the working pair of local PWM takes a commit first (R94) (log entry 139). -/
def Cell.carrierStart (c : Cell) : Cell :=
  match c.pwm with
  | none => c
  | some p =>
    let c := c.clkTo p.next
    let c := match c.commit with
      | some w => if p.isLocal then { c.setReg Reg.CN_SW_PWM_WORK w with commit := none } else c
      | none => c
    let ksel := if p.isLocal then c.fld Reg.CN_SW_PWM_WORK 16 2 else p.ksel
    let duty := if p.isLocal then c.fld Reg.CN_SW_PWM_WORK 0 16 else p.duty
    let tc := c.fpU / kOf ksel
    { c with pwm := some { p with ksel := ksel, duty := duty, next := p.next + tc } }.carrierPulse p.next ksel duty

/-- The pair that a commit gives: the new halves, with the other half as it stands in the working pair (R94). -/
def Cell.staged (c : Cell) : Word :=
  let k := if c.half0 then c.fld Reg.CN_SW_PWM_STG0 0 2 else c.fld Reg.CN_SW_PWM_WORK 16 2
  let d := if c.half1 then c.fld Reg.CN_SW_PWM_STG1 0 16 else c.fld Reg.CN_SW_PWM_WORK 0 16
  w32 (k * 2 ^ 16 + d)

/-- A commit with a staged KSEL of 0b11 is refused (R94). -/
def Cell.commitRefused (c : Cell) : Bool := c.half0 && c.fld Reg.CN_SW_PWM_STG0 0 2 == 3

/-- A write to `CN_SW_PWM_COMMIT` (R94): at the next carrier start, or at once when local PWM is not running;
one that is pending as local PWM stops stays pending (log entries 129, 139). -/
def Cell.pwmCommit (c : Cell) : Cell :=
  if !c.half0 && !c.half1 then c
  else if c.commitRefused then c.setBit Reg.CN_SW_STICKY 1 true
  else
    let w := c.staged
    let c := if c.half0 && c.half1 then c else c.setBit Reg.CN_SW_STICKY 0 true
    let c := { c with half0 := false, half1 := false }
    if c.bit Reg.CN_SYS_STATE 21 then { c with commit := some w } else c.setReg Reg.CN_SW_PWM_WORK w

/-! ### The cell's own refresh pulse (R99) -/

/-- The pulse: `GATE_AL` is raised for the longer of 300 ns and MIN_PULSE, and never dropped. -/
def Cell.selfRefresh (c : Cell) : Cell :=
  let c := (c.inc Reg.CN_SW_SELF_REF_CNT).setBit Reg.CN_SW_STICKY 5 true
  (c.change 0 none).plan (c.clk + c.deadU + max (300 * nsU) c.minU) .refreshed

/-- The insertion timer in whole µs, saturating (R96), and whether it has reached REFRESH_LIMIT (R97). -/
def Cell.insUs (c : Cell) : Nat := min (c.insTime / (1000 * nsU)) 0xFFFFFFFF
def Cell.refreshDue (c : Cell) : Bool := decide (c.fld Reg.CN_SW_REFRESH 0 17 * 1000 * nsU ≤ c.insTime)

/-- The insertion timer reaches REFRESH_LIMIT (R97) (log entry 126). -/
def Cell.refreshReached (c : Cell) : Cell :=
  if c.timerRuns then { c with insTime := max c.insTime (c.fld Reg.CN_SW_REFRESH 0 17 * 1000 * nsU) } else c

/-! ### The pins (R117, R486, R493) -/

/-- The level of one gate pin in a configured state: LEG_SWAP and INV act on the pins alone. -/
def Cell.pinHigh (c : Cell) (pin : Gate) : Bool :=
  let sw := c.bit Reg.CN_SW_CFG 1
  let src := match pin with
    | .ah => if sw then Gate.bh else .ah
    | .al => if sw then Gate.bl else .al
    | .bh => if sw then Gate.ah else .bh
    | .bl => if sw then Gate.al else .bl
  let inv := match pin with
    | .ah | .al => c.bit Reg.CN_SW_CFG 2
    | .bh | .bl => c.bit Reg.CN_SW_CFG 3
  ((c.gate src).hi && !c.clamped) != inv

/-- The level of a gate pin: low in Unconfigured, and under EXTEST. -/
def Cell.pin (c : Cell) (pin : Gate) : Bool := c.configured && c.tap != .extest && c.pinHigh pin

/-- The levels of `BYP_FAST` and `BYP_MECH`; none where they are high impedance (R103, R486, R493). -/
def Cell.bypPins (c : Cell) : Option (Bool × Bool) :=
  if c.configured ∧ c.tap ≠ .extest then some (c.fast, c.mech) else none

end Sys2Proof.Machine
end

