-- ==== Sys2Proof/Machine/CellProt.lean ====
section
/-!
DEFINITION. The cell's states and its protection: block and retire causes, the bypass sequence, debug freeze, the
conversions that protection compares, calibration and the housekeeping core (R78, R80, R100 to R113).
-/

namespace Sys2Proof.Machine

/-! ### Entering and leaving states (R78, R91) -/

/-- Local PWM is no longer running, or is (R116). -/
def Cell.setLocal (c : Cell) (b : Bool) : Cell := c.setBit Reg.CN_SYS_STATE 21 b

/-- A freeze has ended: FREEZE reads 0 again (log entry 132). -/
def Cell.thaw (c : Cell) : Cell := { c.setBit Reg.CN_PROT_FRZ 0 false with frzLoss := 0 }

/-- A block cause with a protective turn-off (R91, R100, R109): out of a freeze it leads into Blocked with FREEZE_EXIT
beside it. -/
def Cell.blockNow (c : Cell) (cause : Nat) : Cell :=
  if !c.guarded then c
  else
    let c' := (c.setCause cause true).allLow.setLocal false
    (if c.st = stFrozen then (c'.setCause cFreeze true).thaw else c').setSt stBlocked

/-- A block cause whose turn-off is not protective: a record in block mode, or an override, decoded at `dec` (R84, R91). -/
def Cell.blockSoft (c : Cell) (cause dec : Nat) : Cell :=
  if c.st = stActive ∨ c.st = stBlocked then
    let c := { c with todo := [], pwm := none }
    ((((c.change 3 (some dec)).setGst 3).setCause cause true).setLocal false).setSt stBlocked
  else c

/-- A freeze ends other than by retirement (R109): all gate outputs low at once, Blocked with FREEZE_EXIT. -/
def Cell.freezeExit (c : Cell) : Cell :=
  if c.st = stFrozen then ((c.allLow.setCause cFreeze true).setSt stBlocked).thaw else c

/-- BYP_FAST_DELAY and BYP_MECH_DELAY in units of 2^-32 ns (R102). -/
def Cell.fastU (c : Cell) : Nat := c.fld Reg.CN_PROT_BYP 0 15 * edgeU
def Cell.mechU (c : Cell) : Nat := c.fld Reg.CN_PROT_BYP 16 10 * 1000 * nsU

/-- The cell enters Retired, its gates low now, and the bypass sequence runs (R91, R102): 1 and 2 desaturation on
`DESAT_A_N` and `DESAT_B_N`, 3 over-voltage, 4 commanded. -/
def Cell.enterRetired (c : Cell) (cause : Nat) : Cell :=
  let c := (c.allLow.setLocal false).thaw
  let c := (c.setFld Reg.CN_SYS_STATE 17 3 cause).setSt stRetired
  let c := if 1 ≤ cause ∧ cause ≤ 3 then c.setBit Reg.CN_PROT_STAT (cause - 1) true else c
  { c with fastAt := c.clk + c.fastU, retire := false, urgent := false }

/-- A retire cause from any configured state (R100) (log entry 131). -/
def Cell.retireNow (c : Cell) (cause : Nat) : Cell := if c.guarded then c.enterRetired cause else c

/-- `BYP_FAST` is asserted BYP_FAST_DELAY after gate-low, and `BYP_MECH` BYP_MECH_DELAY after it; both stay until the cell
is reset (R102, R103). -/
def Cell.bypFast (c : Cell) : Cell :=
  if c.st = stRetired ∧ !c.fast then
    let c := c.clkTo c.fastAt
    { c with fast := true, mechAt := c.clk + c.mechU }
  else c
def Cell.bypMech (c : Cell) : Cell :=
  if c.st = stRetired ∧ c.fast ∧ !c.mech then { c.clkTo c.mechAt with mech := true } else c

/-! ### Pins that protection watches (R100, R101) -/

/-- A chatter detector fires or stops; `CN_PROT_STAT` keeps that one has fired. -/
def Cell.setChatter (c : Cell) (pin : Nat) (b : Bool) : Cell :=
  let c := { c with chatter := putBit c.chatter pin b }
  if b then c.setBit Reg.CN_PROT_STAT 9 true else c

/-- Desaturation of pin A, or B when `b`, past its filter or by its chatter detector. -/
def Cell.desat (c : Cell) (b chat : Bool) : Cell :=
  (if chat then c.setChatter (b2n b) true else c).retireNow (if b then 2 else 1)

/-- The gate supply counts as lost: `GSUP_OK` low past its filter, or its chatter detector firing. -/
def Cell.noSupply (c : Cell) : Bool := !c.gsup || c.chatter.testBit 2

/-- The block cause of a lost supply, in a state that watches for it. -/
def Cell.supplyBlock (c : Cell) : Cell :=
  if c.guarded ∧ c.noSupply then (c.setBit Reg.CN_PROT_STAT 8 true).blockNow cSupply else c
/-- The cause is cleared once the supply counts as good. -/
def Cell.supplyClear (c : Cell) : Cell := if c.noSupply then c else c.setCause cSupply false

/-- `GSUP_OK` low past its filter, or its chatter detector. -/
def Cell.supplyLost (c : Cell) (chat : Bool) : Cell :=
  (if chat then c.setChatter 2 true else { c with gsup := false }).supplyBlock

/-- `GSUP_OK` has been high for GSUP_FILT. -/
def Cell.supplyBack (c : Cell) : Cell := { c with gsup := true }.supplyClear

/-- A detector stops firing: the pin counts again by the level that its filter passed (R101). -/
def Cell.chatterOff (c : Cell) (pin : Nat) : Cell :=
  let c := c.setChatter pin false
  if pin = 2 then c.supplyClear else c

/-- A parity error in the configuration of `CN_SW`, `CN_PROT` or `CN_ADC` (log entry 130). -/
def Cell.parityError (c : Cell) : Cell :=
  if c.guarded then { (c.setBit Reg.CN_SYS_CFG_STAT 3 true).blockNow cParity with rewritten := false } else c

/-- The parity cause is cleared by command, after the configuration has been rewritten (R100, R116) (log entry 130). -/
def Cell.parityClear (c : Cell) : Cell := if c.rewritten then c.setCause cParity false else c

/-! ### Conversions (R80, R100, R110, R111) -/

/-- A conversion clamped to its range, and whether it lay outside (log entry 137). -/
def clamp14 (raw : Int) : Nat := (clampI 0 16383 raw).toNat
def over14 (raw : Int) : Bool := decide (raw < 0) || decide (16383 < raw)

/-- A warning and its flag in `CN_PROT_STAT`: set when `on`, cleared when `off` (log entry 127). -/
def Cell.warning (c : Cell) (i flag : Nat) (on off : Bool) : Cell :=
  if on then { c.setBit Reg.CN_PROT_STAT flag true with warn := putBit c.warn i true }
  else if off then { c with warn := putBit c.warn i false }
  else c

/-- A conversion of `AIN_CAP` lies above OV_TRIP; one clamped to 16,383 lies above every OV_TRIP (R111). -/
def Cell.overTrip (c : Cell) (raw : Int) : Bool :=
  decide (16383 < raw) || decide (c.fld Reg.CN_PROT_OV 0 14 < clamp14 raw)

/-- A conversion of `AIN_CAP` counts towards OV_COUNT, and retires the cell when that many in a row lie above OV_TRIP
(R80, R100) (log entry 137). -/
def Cell.tripConv (c : Cell) (raw : Int) : Cell :=
  let n := if c.overTrip raw then c.ovRun + 1 else 0
  let c := { c with ovRun := n }
  if c.fld Reg.CN_PROT_CFG0 28 2 ≤ n then c.retireNow 3 else c

/-- A conversion of `AIN_CAP`, which protection compares: by slice 0, or by slice 1 while slice 0 recalibrates (R80, R111,
R112) (log entry 137). -/
def Cell.capConv (c : Cell) (raw : Int) : Cell :=
  let y := clamp14 raw
  let o := over14 raw
  let c := c.setReg Reg.CN_ADC_CAP (w32 (y + b2n o * 2 ^ 14))
  let c := if o then c.setBit Reg.CN_ADC_STAT (if c.recal = 1 then 2 else 1) true else c
  if c.guarded then
    (c.warning 0 3 (decide (c.fld Reg.CN_PROT_OV 16 14 < y)) (decide (y < c.fld Reg.CN_PROT_OV 16 14))).tripConv raw
  else { c with ovRun := 0 }

/-- Consecutive conversions, the latest last (R100). -/
def Cell.overVoltage (c : Cell) (raws : List Int) : Cell := raws.foldl Cell.capConv c

/-- A channel result of slice 1 (R110): 64 conversions of the channel whose turn it is, the first 32 discarded and the last
32 averaged; and the conditions on it (R100) (log entry 137). -/
def Cell.auxResult (c : Cell) (ch : Nat) (raws : List Int) : Cell :=
  if c.calib || c.recal ≠ 0 || raws.length ≠ 64 || ch ≠ c.auxNext then c
  else
    let sum := (raws.drop 32).foldl (fun s r => s + (clamp14 r : Int)) 0
    let y := (divAny 57 sum 32).toNat
    let c := { c.setReg (Reg.CN_ADC_AUX (ch % 4)) (w32 y) with auxNext := (ch + 1) % 4 }
    let c := if raws.any over14 then c.setBit Reg.CN_ADC_STAT 2 true else c
    if !c.guarded then c
    else if ch % 4 = 0 then
      let hot := c.fld Reg.CN_PROT_TEMP 16 14
      let c := c.warning 2 6 (decide (hot < y)) (decide (y < hot))
      let c := if y < hot then c.setCause cTemp false else c
      if c.fld Reg.CN_PROT_TEMP 0 14 < y then (c.setBit Reg.CN_PROT_STAT 5 true).blockNow cTemp else c
    else if ch % 4 = 2 then
      let ins := c.fld Reg.CN_PROT_INS 0 14
      c.warning 3 7 (decide (y < ins)) (decide (ins < y))
    else c

/-! ### Debug freeze (R107 to R109) -/

/-- The latest decision code. -/
def Cell.code (c : Cell) : Nat := c.fld Reg.CN_ADC_CODE 0 10

/-- A write of FREEZE with SAFE_CODE is refused: the code does not lie below it, or the cell is in no state that can
freeze. A frozen cell compares as well, and stays frozen either way (log entry 132). -/
def Cell.freezeRefused (c : Cell) (w : Word) : Bool :=
  Machine.bit w 0
    && !((c.st == stActive || c.st == stBlocked || c.st == stFrozen) && decide (c.code < Machine.fld w 16 10))

/-- A write to `CN_PROT_FRZ` (log entry 132). -/
def Cell.freezeWrite (c : Cell) (w : Word) : Cell :=
  if c.freezeRefused w then c.setBit Reg.CN_PROT_STAT 11 true
  else
    let frozen := c.st == stFrozen
    let c := c.setReg Reg.CN_PROT_FRZ (w &&& w32 0x3FF0001)
    if Machine.bit w 0 then (if frozen then c else (c.holdGates.setLocal false).setSt stFrozen)
    else c.freezeExit

/-! ### Calibration (R112) -/

/-- The calibration of a newly configured cell ends: Blocked, with the cause of a supply that counts as lost
(log entry 132). -/
def Cell.calDone (c : Cell) : Cell :=
  if c.calib ∧ c.st = stUnconf then
    { ((c.setBit Reg.CN_SYS_CFG_STAT 1 true).setBit Reg.CN_ADC_STAT 0 false).setSt stBlocked with
      calib := false }.supplyBlock
  else c

/-- A write to `CN_ADC_CAL`: only a Blocked cell recalibrates; a recalibration under way goes on (log entry 132). -/
def Cell.adcCal (c : Cell) : Cell :=
  if c.st = stBlocked then
    (if c.recal = 0 then { c.setBit Reg.CN_ADC_STAT 0 true with recal := 1 } else c)
  else c.setBit Reg.CN_ADC_STAT 3 true

/-- A stage of the recalibration ends. -/
def Cell.recalStage (c : Cell) : Cell :=
  match c.recal with
  | 0 => c
  | 1 => { c with recal := 2 }
  | _ => { c.setBit Reg.CN_ADC_STAT 0 false with recal := 0 }

/-! ### The housekeeping core (R113) -/

/-- The HK domain is powered (R470). -/
def Cell.hkOn (c : Cell) : Bool := c.bit Reg.CN_SYS_PWR 0

/-- The core runs when firmware is loaded, `CN_HK_CTL` lets it run and does not reset it (log entry 136). -/
def Cell.hkSync (c : Cell) : Cell :=
  c.setBit Reg.CN_HK_STAT 0 (c.bit Reg.CN_SYS_CFG_STAT 2 && c.bit Reg.CN_HK_CTL 0 && !c.bit Reg.CN_HK_CTL 1)

/-- A write of mailbox word 7 from the VP raises the core's interrupt. -/
def Cell.mboxIn (c : Cell) (w : Word) : Cell := { c.setReg (Reg.CN_HK_MBOX_IN 7) w with hkIrq := true }
/-- A write of mailbox word 7 to the VP marks the mailbox full (log entry 136). -/
def Cell.mboxOut (c : Cell) (w : Word) : Cell := { c.setReg (Reg.CN_HK_MBOX_OUT 7) w with mbox := true }

/-- An uncorrectable error in housekeeping memory resets the core and is counted. -/
def Cell.hkError (c : Cell) : Cell :=
  if c.hkOn then
    { c.setFld Reg.CN_HK_STAT 8 8 (min (c.fld Reg.CN_HK_STAT 8 8 + 1) 255) with hkIrq := false }
  else c

/-- A write by the housekeeping core at CN word address `a`: its own registers and memory alone; writes to the blocks that
R113 names are discarded and counted (log entry 136). -/
def Cell.hkWrite (c : Cell) (a : Nat) (w : Word) : Cell :=
  if !c.bit Reg.CN_HK_STAT 0 then c
  else if 0x4000 ≤ a ∧ a < 0x8000 then { c with hkMem := msetW c.hkMem (4 * (a - 0x4000)) w }
  else if 0x400 ≤ a ∧ a < 0x1800 then c.inc Reg.CN_HK_DENY_CNT
  else if a = Reg.CN_HK_MBOX_IN 7 then c.mboxIn w
  else if a = Reg.CN_HK_MBOX_OUT 7 then c.mboxOut w
  else if a = Reg.CN_HK_CTL then (c.setReg a (w &&& w32 3)).hkSync
  else if Reg.CN_HK_MBOX_IN 0 ≤ a ∧ a < Reg.CN_HK_MBOX_OUT 7 then c.setReg a w
  else c

end Sys2Proof.Machine
end

