-- ==== Sys2Proof/Machine/CellTime.lean ====
section
/-!
DEFINITION. The time of a cell: θ by the methods of R213, its servo, steps, TIME_OK and renumbering (R193 to R195, R206,
R209 to R222).
-/

namespace Sys2Proof.Machine

/-! ### What a train publishes (R126) -/

/-- T_DN and T_UP in ns; none where the train did not return. -/
def pubT (h1 : Nat) (up : Bool) : Option Rat :=
  let t : Nat := if up then h1 / 2 ^ 24 % 2 ^ 24 else h1 % 2 ^ 24
  if t = 0xFFFFFF then none else some ((t : Rat) / 16)
/-- ASYM in ns. -/
def pubAsym (h1 : Nat) : Rat := (sgn 16 (h1 / 2 ^ 48) : Rat) / 16
/-- NCELL_CFG. -/
def pubN (h2 : Nat) : Nat := h2 % 512
/-- The wrap position of a launch direction, when it is valid. -/
def pubWrap (h2 : Nat) (up : Bool) : Option Nat :=
  if up then (if h2.testBit 32 then some (h2 / 2 ^ 24 % 256) else none)
  else (if h2.testBit 23 then some (h2 / 2 ^ 15 % 256) else none)

/-- T_VPTX and T_VP of R146 in ns. -/
def tVptx : Rat := 32
def tVp : Rat := 96

/-- A stamp in ns. -/
def Stamp.ns (s : Stamp) : Rat := (s.ofs : Rat) / 16

/-- The stamp of a copy. -/
def stampOf (g : List Stamp) (copy : Nat) : Option Stamp := g.find? (fun s => s.copy == copy)

/-! ### θ (R213 to R216) -/

/-- The position of a configured cell. -/
def Cell.posReg (c : Cell) : Nat := c.fld Reg.CN_LANE_POS 0 9

/-- The one-way delay that method 4 estimates for a train (R216), in ns. -/
def Cell.model (c : Cell) (s : Stamp) (up : Bool) : Option Rat :=
  match pubT s.h1 up with
  | none => none
  | some t =>
    let n := pubN s.h2
    let p := if up then n - 1 - c.posReg else c.posReg
    let f : Rat := match pubWrap s.h2 up with
      | some w => ((p + 1 : Nat) : Rat) / ((2 * ((if up then n - 1 - w else w) + 1) : Nat) : Rat)
      | none => ((p + 1 : Nat) : Rat) / ((n + 1 : Nat) : Rat)
    some (tVptx + (t - tVp) * f)

/-- The repeat latencies in ns (R212), and the turn-back latency of `CN_TIME_WRAPLAT`. -/
def Cell.h0 (c : Cell) : Rat := (c.hop0 : Rat) / 1000
def Cell.h1 (c : Cell) : Rat := (c.hop1 : Rat) / 1000
def Cell.wrapLat (c : Cell) : Rat := (c.fld Reg.CN_TIME_WRAPLAT 0 12 : Rat) / 16

/-- A measurement: its method, θ, and S or X, in ns. -/
structure Meas where
  method : Nat
  th : Rat
  sum : Rat
  deriving DecidableEq, Repr

/-- Method 1 (R213). -/
def Cell.method1 (c : Cell) (g : List Stamp) : Option Meas :=
  match stampOf g 0, stampOf g 1 with
  | some a, some b =>
    match pubT a.h1 false, pubT b.h1 true, pubWrap a.h2 false, pubWrap b.h2 true with
    | some td, some tu, none, none =>
      let n := pubN a.h2
      let k : Rat := (((2 * c.posReg + 1 : Nat) : Int) - (n : Int) : Int)
      let s := (td + tu) / 2 - tVp - (c.h0 + c.h1) / 2 + pubAsym a.h1 * k / ((2 * (n + 1) : Nat) : Rat)
      some { method := 1, th := (a.ns + b.ns) / 2 - tVptx - s / 2, sum := s }
    | _, _, _, _ => none
  | _, _ => none

/-- Method 2 of one launch direction (R213): the cell lies on the outbound part; a cell that turns the train itself uses
its own turn-back latency. -/
def Cell.method2 (c : Cell) (g : List Stamp) (up : Bool) : Option Meas :=
  match stampOf g (b2n up) with
  | none => none
  | some a =>
    match pubT a.h1 up, pubWrap a.h2 up with
    | some t, some w =>
      let n := pubN a.h2
      let p := c.posReg
      let inside := if up then decide (w ≤ p) else decide (p ≤ w)
      let loop := if p = w then some c.wrapLat else
        match stampOf g (2 + b2n up) with
        | some s => some (s.ns - a.ns + (if up then c.h0 else c.h1))
        | none => none
      match inside, loop with
      | true, some l =>
        let x := t - tVp - l
        let q : Rat := ((2 * (n + 1) : Nat) : Rat)
        let skew := if up then pubAsym a.h1 * ((n - p : Nat) : Rat) / q else -(pubAsym a.h1 * ((p + 1 : Nat) : Rat) / q)
        some { method := 2, th := a.ns - tVptx - x / 2 + skew, sum := x }
      | _, _ => none
    | _, _ => none

/-- Method 3 (R213). -/
def Cell.method3 (c : Cell) (g : List Stamp) : Option Meas :=
  if !c.bit Reg.CN_TIME_STAT 6 then none
  else
    match stampOf g 0, c.da with
    | some a, some d => some { method := 3, th := a.ns - d, sum := 0 }
    | _, _ =>
      match stampOf g 1, c.db with
      | some b, some d => some { method := 3, th := b.ns - d, sum := 0 }
      | _, _ => none

/-- Method 4 (R216). -/
def Cell.method4 (c : Cell) (g : List Stamp) : Option Meas :=
  let one := fun up =>
    match stampOf g (b2n up) with
    | some s => (c.model s up).map (fun e => ({ method := 4, th := s.ns - e, sum := 0 } : Meas))
    | none => none
  match one false with
  | some m => some m
  | none => one true

/-- The first method whose condition is met (R213) (log entry 134). -/
def Cell.theta (c : Cell) (g : List Stamp) : Option Meas :=
  match c.method1 g with
  | some m => some m
  | none =>
  match c.method2 g false with
  | some m => some m
  | none =>
  match c.method2 g true with
  | some m => some m
  | none =>
  match c.method3 g with
  | some m => some m
  | none => c.method4 g

/-! ### The servo (R193, R206, R217 to R219) -/

/-- θ' = θ − `CN_TIME_TRIM`, in ns (R217). -/
def Cell.thetaP (c : Cell) (th : Rat) : Rat := th - (sgn 16 (c.fld Reg.CN_TIME_TRIM 0 16) : Rat) / 16

/-- A signed register in units of 2^-8 ns: the spec states no rounding of it (log entry 8). -/
def ns8 (site : Nat) (x : Rat) : Word := w32 (twos 32 (divAny site (x.num * 256) x.den))

/-- A flag of `CN_TIME_STICKY`. -/
def Cell.timeFlag (c : Cell) (i : Nat) : Cell := c.setBit Reg.CN_TIME_STICKY i true
/-- TIME_OK. -/
def Cell.timeOk (c : Cell) : Bool := c.bit Reg.CN_TIME_STAT 3
/-- `c` with TIME_OK set or cleared; a loss is flagged. -/
def Cell.setOk (c : Cell) (b : Bool) : Cell :=
  let c' := c.setBit Reg.CN_TIME_STAT 3 b
  if c.timeOk && !b then c'.timeFlag 4 else c'

/-- One servo update from θ' in ns, INC clamped and held in units of 2^-32 ns (R193). -/
def Cell.servo (c : Cell) (x : Rat) : Cell :=
  let ticks : Rat := (periodNs (c.fld Reg.CN_TIME_PERIOD 0 4) : Rat) / 4
  let f := c.freq - x / (2 ^ c.fld Reg.CN_TIME_CFG 4 4 : Nat) / ticks
  let y := 4 + f - x / (2 ^ c.fld Reg.CN_TIME_CFG 0 4 : Nat) / ticks
  let lo : Rat := 3996 / 1000
  let hi : Rat := 4004 / 1000
  let z := if y < lo then lo else if hi < y then hi else y
  let n := (divAny 61 (z.num * 2 ^ 32) z.den).toNat
  let c := { c with freq := f }
  let c := (c.setReg Reg.CN_TIME_INC0 (w32 n)).setReg Reg.CN_TIME_INC1 (w32 (n / 2 ^ 32))
  if z = y then c else c.timeFlag 3

/-- A step moves the counter by −θ' (R218). -/
def Cell.stepTime (c : Cell) (x : Rat) : Cell :=
  let d := divAny 62 (x.num * 2 ^ 32) x.den
  let c := { c with t := ((c.t : Int) - d).toNat, series := [] }
  ((c.addFld Reg.CN_TIME_STEP_CNT 0 16 1).timeFlag 0).setOk false

/-- LOCK_THR in ns. -/
def Cell.lockThr (c : Cell) : Rat := (c.fld Reg.CN_TIME_CFG 16 8 : Rat) / 4
/-- The magnitude of θ'. -/
def mag (x : Rat) : Rat := if x < 0 then -x else x

/-- A used measurement: the servo, and the lock and unlock thresholds (R195, R219) (log entry 134). -/
def Cell.useTheta (c : Cell) (method : Nat) (x : Rat) : Cell :=
  let c := { c.servo x with series := [] }
  let c :=
    if c.locked ∧ 4 * c.lockThr < mag x then { c.setOk false with locked := false, run := 0 }
    else
      let r := if mag x ≤ c.lockThr then c.run + 1 else 0
      { c with run := r, locked := c.locked || decide (c.fld Reg.CN_TIME_CFG 8 8 ≤ r) }
  let wide := decide ((c.fld Reg.CN_TIME_CFG 24 8 : Rat) < mag x)
  if method = 4 ∨ wide ∨ !c.locked then c.setOk false else c.setOk true

/-- A measurement outside the window: ACQUIRE steps at once, LOCKED after three consistent anomalies (R206, R218). -/
def Cell.anomaly (c : Cell) (method : Nat) (x : Rat) : Cell :=
  let c := if method = 4 then c.setOk false else c
  if !c.locked then { c.stepTime x with run := 0 }
  else
    let c := (c.addFld Reg.CN_TIME_STEP_CNT 16 16 1).timeFlag 1
    let win : Rat := c.fld Reg.CN_TIME_WIN 0 16
    let s := match c.series with
      | [] => [x]
      | y :: r => if mag (x - y) ≤ win then (y :: r) ++ [x] else [x]
    if 3 ≤ s.length then c.stepTime x else { c with series := s }

/-- The measurement of a frame is taken (R213, R214, R217 to R219) (log entry 134). -/
def Cell.measured (c : Cell) (g : List Stamp) (m : Meas) : Cell :=
  let c := (c.setReg Reg.CN_TIME_THETA (ns8 58 m.th)).setReg Reg.CN_TIME_SUM (ns8 59 m.sum)
  let c := (c.setFld Reg.CN_TIME_STAT 0 3 m.method).setFld Reg.CN_TIME_STAT 8 8 0
  let c := if m.method = 4 then c.timeFlag 5 else c
  let c := if m.method = 1 ∨ m.method = 2 then
      let c := match stampOf g 0 with
        | some a => { c.setReg Reg.CN_TIME_DA (ns8 60 (a.ns - m.th)) with da := some (a.ns - m.th) }
        | none => c
      let c := match stampOf g 1 with
        | some b => { c.setReg Reg.CN_TIME_DB (ns8 60 (b.ns - m.th)) with db := some (b.ns - m.th) }
        | none => c
      c.setBit Reg.CN_TIME_STAT 6 true
    else c
  let x := c.thetaP m.th
  let c := if mag x ≤ (c.fld Reg.CN_TIME_WIN 0 16 : Rat) then c.useTheta m.method x else c.anomaly m.method x
  c.setFld Reg.CN_TIME_STAT 4 2 (if c.locked then 2 else 1)

/-- A frame without a measurement (R219, R221, R230). -/
def Cell.unmeasured (c : Cell) : Cell :=
  let n := min (c.fld Reg.CN_TIME_STAT 8 8 + 1) 255
  let c := ((c.setFld Reg.CN_TIME_STAT 0 3 0).setFld Reg.CN_TIME_STAT 8 8 n).setFld Reg.CN_TIME_STAT 4 2 3
  if 16 ≤ n then c.setOk false else c

/-- The cell sets its counter from a stamp whose train publishes a valid T for its launch direction (R217). -/
def Cell.setTime (c : Cell) (s : Stamp) (est : Rat) : Cell :=
  let d := divAny 63 (est.num * 2 ^ 32) est.den
  let c := { c with
    isSet := true, t := ((s.frame * c.fpU + (c.clk - s.clk) : Nat) + d).toNat, locked := false, run := 0, series := [] }
  let c := (c.setFld Reg.CN_TIME_STAT 0 3 4).setFld Reg.CN_TIME_STAT 4 2 1
  (c.setFld Reg.CN_TIME_STAT 8 8 0).timeFlag 5

/-- The first stamp that sets the counter, with the delay that method 4 estimates. -/
def Cell.setter (c : Cell) : List Stamp → Option (Stamp × Rat)
  | [] => none
  | s :: r =>
    match (if s.copy < 2 then c.model s (s.copy == 1) else none) with
    | some e => some (s, e)
    | none => c.setter r

/-- The stamps show in `CN_TIME_A`, `CN_TIME_B` and `CN_TIME_C`. -/
def Cell.showStamps (c : Cell) (g : List Stamp) : Cell :=
  g.foldl (fun c s => c.setReg (if s.copy = 0 then Reg.CN_TIME_A else if s.copy = 1 then Reg.CN_TIME_B else Reg.CN_TIME_C)
    (w32 (twos 24 s.ofs))) c

/-- A change of N ends the holdover values (R214). -/
def Cell.noteN (c : Cell) (g : List Stamp) : Cell :=
  match g with
  | [] => c
  | s :: _ =>
    let n := pubN s.h2
    let c' := { c with lastN := some n }
    if c.lastN.isSome ∧ c.lastN ≠ some n then { c'.setBit Reg.CN_TIME_STAT 6 false with da := none, db := none } else c'

/-- The renumbering of R220: the trains of another FRAME_NO in the window, when their θ' lies within `CN_TIME_WIN`
(log entry 134). -/
def Cell.renumber (c : Cell) (g : List Stamp) : Option (Nat × Nat × Meas) :=
  match g with
  | [] => none
  | s :: _ =>
    match c.theta (g.filter (fun x => x.frame == s.frame)) with
    | some m => if mag (c.thetaP m.th) ≤ (c.fld Reg.CN_TIME_WIN 0 16 : Rat) then some (s.k, s.frame, m) else none
    | none => none

/-- The receiver of a stamp's copy (R209). -/
def Stamp.rx (s : Stamp) : Nat := if s.copy = 1 ∨ s.copy = 2 then 1 else 0

/-- The cell adopts another FRAME_NO for boundary `k`: its latches, of the numbers before, fail the SEQ check of every
record, and the receivers of the renumbering's SOTs are orphaned no longer (R149). -/
def Cell.adopt (c : Cell) (k frame : Nat) (g : List Stamp) : Cell :=
  let c := { c with
    t := ((c.t : Int) + ((frame : Int) - k) * c.fpU).toNat, latches := []
    orphan := g.foldl (fun (b : Nat) s => putBit b (Stamp.rx s) false) c.orphan }
  (c.inc Reg.CN_TIME_RENUM_CNT).timeFlag 2

/-- Once per frame: θ by the first method that can be used, the servo, steps and TIME_OK (R213); before its time is set,
the first usable stamp sets it (R217). A cell keeps time from the end of its configuration (log entry 134). -/
def Cell.thetaUpdate (c : Cell) : Cell :=
  if !c.bit Reg.CN_SYS_CFG_STAT 0 then { c with stamps := [] }
  else
    let g := c.stamps
    let c := ({ c with stamps := [] }.showStamps g).noteN g
    if !c.isSet then
      match c.setter g with
      | some (s, e) => c.setTime s e
      | none => c
    else
      let own := g.filter (fun s => s.frame == s.k)
      let alien := g.filter (fun s => s.frame != s.k)
      match c.renumber alien with
      | some (k, f, m) =>
        let g := alien.filter (fun s => s.frame == f)
        (c.adopt k f g).measured g m
      | none =>
        match c.theta own with
        | some m => c.measured own m
        | none => c.unmeasured

/-- The delay lines are calibrated against the tick: the measured delay of 64 taps, in units of 1/256 tick (R222). -/
def Cell.delayCal (c : Cell) (dl : Nat) : Cell := c.setReg Reg.CN_TIME_DL (w32 (dl % 1024))

end Sys2Proof.Machine
end

