-- ==== Sys2Proof/Machine/CellRing.lean ====
section
/-!
DEFINITION. The ring side of a cell: its lanes and clock source, hop training, bridging, the trains and URGENT blocks that
pass it, and its reset (R118 to R136, R143 to R153, R161, R170 to R176, R189, R460, R474).
-/

namespace Sys2Proof.Machine

/-! ### Lanes (R189) -/

/-- Lane CL0 or CL1 of the cell. -/
def Cell.lane (c : Cell) (i : Nat) : Lane :=
  { cfg := c.reg (Reg.CN_LANE_CFG i), rxcfg := c.reg (Reg.CN_LANE_RXCFG i), stat := c.reg (Reg.CN_LANE_LSTAT i)
    coef0 := c.reg (Reg.CN_LANE_COEF0 i), coef1 := c.reg (Reg.CN_LANE_COEF1 i), store0 := c.reg (Reg.CN_LANE_STORE0 i)
    store1 := c.reg (Reg.CN_LANE_STORE1 i), eye := c.reg (Reg.CN_LANE_EYE i), pwr := c.reg (Reg.CN_LANE_PWR i)
    lat := c.reg (Reg.CN_LANE_LAT i), sticky := c.reg (Reg.CN_LANE_STICKY i), hdr := c.reg (Reg.CN_LANE_HDR_CNT i)
    los := c.reg (Reg.CN_LANE_LOS_CNT i), prbs := c.reg (Reg.CN_LANE_PRBS_CNT i), st := sget (fun _ => {}) c.lanes i }

/-- `c` with a lane's own registers and state set. -/
def Cell.setLane (c : Cell) (i : Nat) (x : Lane) : Cell :=
  let c := (c.setReg (Reg.CN_LANE_LSTAT i) x.stat).setReg (Reg.CN_LANE_COEF0 i) x.coef0
  let c := (c.setReg (Reg.CN_LANE_COEF1 i) x.coef1).setReg (Reg.CN_LANE_STORE0 i) x.store0
  let c := (c.setReg (Reg.CN_LANE_STORE1 i) x.store1).setReg (Reg.CN_LANE_EYE i) x.eye
  let c := (c.setReg (Reg.CN_LANE_PWR i) x.pwr).setReg (Reg.CN_LANE_LAT i) x.lat
  let c := (c.setReg (Reg.CN_LANE_STICKY i) x.sticky).setReg (Reg.CN_LANE_HDR_CNT i) x.hdr
  let c := c.setReg (Reg.CN_LANE_PRBS_CNT i) x.prbs
  { c.setReg (Reg.CN_LANE_LOS_CNT i) x.los with lanes := sset (fun _ => {}) c.lanes i x.st }

/-- The sides of a cell (R119): false for P, true for S. The receiver of a side is CL0 at P and CL1 at S, its transmitter
the other. -/
def rxOf (side : Bool) : Nat := b2n side
def txOf (side : Bool) : Nat := b2n (!side)

/-- The side bridges (R148): it does so until closed, or its hop has not been trained since the cell's reset. -/
def Cell.bridging (c : Cell) (side : Bool) : Bool := c.broken.testBit (b2n side) || !c.trained.testBit (b2n side)

/-- A side's receiver has lost signal or lock, or is orphaned (R130, R149). -/
def Cell.lost (c : Cell) (side : Bool) : Bool := !(c.lane (rxOf side)).good || c.orphan.testBit (b2n side)

/-- A transmitter of the cell is cut off by a test pattern or a loopback (R189). -/
def Cell.cut (c : Cell) (tx : Nat) : Bool := Machine.fld (c.lane tx).cfg 3 4 != 0

/-- The outputs of a stream that reaches a receiver (R148, R149): the transmitter of its own direction unless its side
bridges, and, turned, that of the other direction when the far side bridges. A lost or orphaned receiver feeds none. -/
def Cell.outputs (c : Cell) (rx : Nat) : List (Nat × Bool) :=
  let side := rx == 1
  if c.lost side then []
  else
    ((if c.bridging side then [] else [(rx, false)]) ++ (if c.bridging (!side) then [(1 - rx, true)] else [])).filter
      (fun o => !c.cut o.1)

/-- A transmitter carries no stream, and its hop does not train: it is squelched (R149). -/
def Cell.unfed (c : Cell) (tx : Nat) : Bool :=
  [0, 1].all (fun rx => (c.outputs rx).all (fun o => o.1 != tx)) && !(c.lane (1 - tx)).training

/-- The root clock source (R161): CL0 while it holds lock, CL1 while only it does, else `XIN`. -/
def Cell.clkSource (c : Cell) : Nat := if (c.lane 0).locked then 1 else if (c.lane 1).locked then 2 else 0

/-- `CN_LANE_STAT`, `CN_LANE_REFSEL` and the clock bit of `CN_SYS_PWR` follow the lanes and sides (log entry 133). -/
def Cell.sync (c : Cell) : Cell :=
  let w := b2n (c.lost false) + b2n (c.lost true) * 2 + b2n (c.bridging false) * 4 + b2n (c.bridging true) * 8
    + c.trained % 4 * 16
  let c : Cell := { c.setReg Reg.CN_LANE_STAT (w32 w) with squelch := b2n (c.unfed 0) + b2n (c.unfed 1) * 2 }
  let s := c.clkSource
  if c.fld Reg.CN_LANE_REFSEL 0 2 = s then c
  else ((c.setFld Reg.CN_LANE_REFSEL 0 2 s).addFld Reg.CN_LANE_REFSEL 8 8 1).setBit Reg.CN_SYS_PWR 2 (s != 0)

/-- The side bridges, and goes on bridging until it is closed (R148); one whose hop has not been trained bridges anyway. -/
def Cell.bridge (c : Cell) (side : Bool) : Cell :=
  if c.trained.testBit (b2n side) then { c with broken := putBit c.broken (b2n side) true }.sync else c.sync

/-- An operation on a lane of the cell; a cell raises no faults. A receiver that loses signal or a lock by it makes its
side bridge (R148). -/
def Cell.onLane (c : Cell) (i : Nat) (f : Lane → Lane × List Nat) : Cell :=
  let i := i % 2
  let was := (c.lane i).good
  let c := c.setLane i (f (c.lane i)).1
  if was && !(c.lane i).good then c.bridge (i == 1) else c.sync

/-- A transmitter sends something (log entry 15). -/
def Cell.send (c : Cell) (tx : Nat) (x : Sent) : Cell := { c with sent := sput tx x c.sent }

/-! ### Hop training (R151, R171 to R176) -/

/-- `n` TRAIN blocks that a side sends (R172). -/
def Cell.sendTrain (c : Cell) (side : Bool) (n : Nat) (done : Bool) : Cell :=
  let rdy := decide (4 ≤ (c.lane (rxOf side)).trn) && decide ((c.lane (rxOf side)).trn ≤ 5)
  let (r, k, ok) := match c.ringChip with
    | some (r, k) => (r, k, true)
    | none => (0, 0, false)
  let tx := txOf side
  c.setLane tx ((c.lane tx).send n (trainContent 0 rdy done true (tx == 1) r k ok))

/-- A side starts to train: its receiver begins, and its transmitter sends TRAIN blocks (R174). -/
def Cell.hopStart (c : Cell) (side : Bool) : Cell :=
  let c := { c with confirmed := putBit c.confirmed (b2n side) false }
  ((c.setLane (rxOf side) (c.lane (rxOf side)).trainStart).sendTrain side 1 false).sync

/-- `CN_LANE_LAT` for a repeat latency in ps, rounded to 62.5 ps (R163). -/
def cellLat (ps : Nat) : Word := w32 (twos 12 (divNear 64 (2 * (ps : Int)) 125))

/-- An operation on a lane that may take a lock anew, with the repeat latency `ps` found then, which time uses in ps
(R163, R212): `took` says that the lane before and after has taken one. -/
def Cell.onLaneLat (c : Cell) (i ps : Nat) (took : Lane → Lane → Bool) (f : Word → Lane → Lane × List Nat) : Cell :=
  let i := i % 2
  let x := c.lane i
  let c := c.onLane i (f (cellLat ps))
  if took x (c.lane i) then (if i = 0 then { c with hop0 := ps } else { c with hop1 := ps }) else c

/-- A stage of a lane's training ends (R171). -/
def Cell.stageDone (c : Cell) (i : Nat) (lost : Bool) (c0 c1 : Word) (ps : Nat) : Cell :=
  let i := i % 2
  let c := c.onLaneLat i ps (fun x y => x.trn == 2 && y.trn == 3) (fun lat x => (x.stageDone true lost c0 c1 lat, []))
  if (c.lane i).training then (c.sendTrain (i == 1) 1 false).sync else c

/-- Does the end of a side take the TRAIN blocks with RXRDY and content `blk` for its confirmation (R173)? -/
def Cell.takesTrain (c : Cell) (side : Bool) (blk : Nat) : Bool :=
  (c.lane (rxOf side)).trn == 4 && blk.testBit 2 && crc8Ok blk

/-- The checks of R173 at a cell's end. -/
def Cell.trainGood (c : Cell) (side : Bool) (blk : Nat) : Bool := trainOk blk side false c.ringChip

/-- Block errors on a receiver (R123, R157). -/
def Cell.blockErrs (c : Cell) (rx n : Nat) : Cell := c.addFld Reg.CN_LANE_CRC_CNT (16 * (rx % 2)) 16 n

/-- A side confirms its hop (R173): stage 5; a block that fails the checks sets MISWIRE (log entry 80), and one whose CRC-8
fails is a block error (R172). -/
def Cell.hopConfirm (c : Cell) (side : Bool) (blk : Nat) : Cell :=
  if !crc8Ok blk then c.blockErrs (rxOf side) 1
  else if !c.takesTrain side blk then c
  else
    let rx := rxOf side
    if !c.trainGood side blk then c.setLane rx ((c.lane rx).stick 6)
    else
      let own := match c.ringChip with
        | some x => some x
        | none => if blk.testBit 10 then some (blk / 2 ^ 6 % 16, blk / 2 ^ 11 % 64) else none
      let c := { c.setLane rx (c.lane rx).confirmed with
        ringChip := own, trained := putBit c.trained (b2n side) true, confirmed := putBit c.confirmed (b2n side) true }
      (c.sendTrain side 16 true).sync

/-- The hop of a side is declared broken (R151, R176): both its lanes set TRAIN_FAIL, and it bridges until closed. -/
def Cell.hopBroken (c : Cell) (side : Bool) : Cell :=
  let c := c.setLane (txOf side) ((c.lane (txOf side)).stick 5)
  let c := c.setLane (rxOf side) (((c.lane (rxOf side)).setTrn 6).stick 5)
  { c with broken := putBit c.broken (b2n side) true }.sync

/-! ### Bridging (R148, R149, R153) -/

/-- The receiver of a side reports loss (R148, R161): one that has declared none yet declares loss of signal
(log entries 120, 133). -/
def Cell.lossSeen (c : Cell) (side : Bool) : Cell :=
  (if (c.lane (rxOf side)).good then c.onLane (rxOf side) (fun x => x.declare 0 0) else c).bridge side

/-- The receiver of a side has carried no SOT that counts for the time of R149 (log entry 133). -/
def Cell.orphaned (c : Cell) (side : Bool) : Cell := { c with orphan := putBit c.orphan (b2n side) true }.bridge side

/-- A boundary register names the boundary of FRAME_NO `n` for this cell (R501): the first boundary after the current one
with that low word. -/
def Cell.boundary (c : Cell) (at_ : Nat) : Nat := c.frame + (at_ + 0x100000000 - c.frame % 0x100000000) % 0x100000000

/-- Ring frame time reaches the boundary that a register names. -/
def Cell.toBoundary (c : Cell) (reg : Nat) : Cell := c.passTo (c.boundary (c.reg reg).toNat * c.fpU)

/-- One side of a close (R153): it stops bridging when its receiver holds signal and locks and its hop is confirmed. -/
def Cell.closeSide (c : Cell) (side : Bool) : Cell :=
  if c.bit Reg.CN_LANE_CLOSE_CTL (b2n side) ∧ (c.lane (rxOf side)).good ∧ c.confirmed.testBit (b2n side) then
    { c with broken := putBit c.broken (b2n side) false }
  else c

/-- The boundary in `CN_LANE_CLOSE_AT` comes (R153, R501). Without an armed close the register keeps the boundary that has
passed, and refuses a close that is armed late. -/
def Cell.closeAt (c : Cell) : Cell :=
  if !c.isSet ∨ c.reg Reg.CN_LANE_CLOSE_AT = 0 ∨ c.fld Reg.CN_LANE_CLOSE_CTL 0 2 = 0 then c
  else
    let c := c.toBoundary Reg.CN_LANE_CLOSE_AT
    let c := (c.closeSide false).closeSide true
    ((c.setReg Reg.CN_LANE_CLOSE_AT 0).setReg Reg.CN_LANE_CLOSE_CTL 0).sync

/-! ### Trains (R124 to R136, R209) -/

/-- A train as it reaches a cell: the receiver, the SOT content, blocks 1 to 14, the block in the cell's own slot position
(an EMPTY content, or a report when `data`), other erroneous blocks, whether an URGENT block arrived within it, the counter
frame `k` and the offset in units of 62.5 ps at which its first bit arrived, and the latency of a turn-back. -/
structure CnTrain where
  rx : Nat
  sot : Nat
  blocks : List Nat
  slot : Nat
  data : Bool
  errs : Nat
  urgent : Bool
  k : Nat
  ofs : Nat
  turn : Nat
  deriving DecidableEq, Repr

/-- Fields of its SOT, and FRAME_NO, H1 and H2. -/
def CnTrain.ring (x : CnTrain) : Nat := x.sot % 16
def CnTrain.up (x : CnTrain) : Bool := x.sot.testBit 4
def CnTrain.gen (x : CnTrain) : Nat := x.sot / 2 ^ 8 % 256
def CnTrain.chip (x : CnTrain) : Nat := x.sot / 2 ^ 16 % 64
def CnTrain.wrapped (x : CnTrain) : Bool := x.sot.testBit 22
def CnTrain.hop (x : CnTrain) : Nat := x.sot / 2 ^ 23 % 256
def CnTrain.frame (x : CnTrain) : Nat := x.blocks.getD 0 0
def CnTrain.h1 (x : CnTrain) : Nat := x.blocks.getD 1 0
def CnTrain.h2 (x : CnTrain) : Nat := x.blocks.getD 2 0

/-- The SOT is free of error, and TRAIN_CRC matches (R127). -/
def CnTrain.sotOk (x : CnTrain) : Bool := crc8Ok x.sot
def CnTrain.crcOk (x : CnTrain) : Bool :=
  x.sotOk && x.blocks.length == 14 && x.blocks.getD 13 0 % 2 ^ 32 == trainCrc (x.blocks.take 13)

/-- The SOT as the cell repeats it: HOP counted on an outbound copy (R135). -/
def CnTrain.passed (x : CnTrain) : Nat :=
  if x.sotOk && !x.wrapped then withCrc8 (x.sot % 2 ^ 48 - x.hop * 2 ^ 23 + (x.hop + 1) % 256 * 2 ^ 23) else x.sot
/-- The SOT of the copy that the cell turns back: WRAPPED set (R135). -/
def CnTrain.turned (x : CnTrain) : Nat := if x.sotOk then withCrc8 (x.passed % 2 ^ 48 ||| 2 ^ 22) else x.sot

/-- An EMPTY block whose bytes complement each other, and its position (R122, R123). -/
def CnTrain.emptyOk (x : CnTrain) : Bool := !x.data && x.slot % 256 + x.slot / 256 % 256 == 255
def CnTrain.emptyPos (x : CnTrain) : Nat := x.slot % 256

/-- A slot of an Unconfigured cell (R130). -/
def Cell.unconfSlot (c : Cell) : Nat :=
  let dn := c.hopDn.getD 0x1FF
  let up := c.hopUp.getD 0x1FF
  let err := match c.hopDn, c.hopUp with
    | some d, some u => decide (d + u + 1 ≠ c.ncell)
    | _, _ => false
  dn % 512 * 2 ^ 13 + up % 512 * 2 ^ 22 + b2n err * 2 ^ 31 + 0xA10C * 2 ^ 32

/-- An Unconfigured cell takes its position from an outbound copy that passes its checks (R133)
(log entries 81, 132). -/
def Cell.takeHop (c : Cell) (x : CnTrain) : Cell :=
  let c := { c with ncell := pubN x.h2 }
  let c := if x.up then { c with hopUp := some x.hop } else { c with hopDn := some x.hop }
  match c.pos with
  | some p => (c.setReg Reg.CN_LANE_POS (w32 (p % 512 + b2n c.hopDn.isNone * 2 ^ 9))).setReg Reg.CN_SYS_NODE
      (w32 (nodeId x.chip x.ring p))
  | none => c

/-- What the cell writes into its slot, if it does (R132, R133). -/
def Cell.slotData (c : Cell) (x : CnTrain) : Option Nat :=
  if !x.sotOk || !x.emptyOk then none
  else if c.configured then
    match c.report with
    | some (f, r) => if f = x.frame ∧ x.emptyPos = c.posReg then some r else none
    | none => none
  else if x.wrapped || !x.crcOk then none
  else
    match c.pos with
    | some p => if x.emptyPos = p then some (withCrc16 c.unconfSlot (nodeId x.chip x.ring p) x.frame) else none
    | none => none

/-- The window of a counter boundary in which a SOT arrives: the boundary and the offset from it (R209). -/
def Cell.window (c : Cell) (x : CnTrain) : Option (Nat × Int) :=
  if !c.isSet then some (x.frame, 0)
  else if x.ofs ≤ c.fld Reg.CN_TIME_APPLY 0 16 * 16 then some (x.k, (x.ofs : Int))
  else
    let fp := periodNs (c.fld Reg.CN_TIME_PERIOD 0 4) * 16
    if fp ≤ x.ofs + c.fld Reg.CN_TIME_WIN 0 16 * 16 then some (x.k + 1, (x.ofs : Int) - fp) else none

/-- The copy that a train is for the cell (R209). -/
def CnTrain.copy (x : CnTrain) : Option Nat :=
  if !x.wrapped then (if x.up = (x.rx == 1) then some (b2n x.up) else none)
  else if x.up = (x.rx == 0) then some (2 + b2n x.up)
  else none

/-- The stamp of a train, when it is usable; one discarded for an URGENT block is flagged (R144, R209)
(log entry 134). -/
def Cell.stamp (c : Cell) (x : CnTrain) (k : Nat) (ofs : Int) : Cell :=
  match x.copy with
  | none => c
  | some n =>
    if !x.crcOk || !c.bit Reg.CN_SYS_CFG_STAT 0 then c
    else if x.urgent then c.timeFlag 6
    else if c.stamps.any (fun s => s.copy == n) then c
    else
      let s : Stamp := { copy := n, k := k, ofs := ofs, frame := x.frame, h1 := x.h1, h2 := x.h2, clk := c.clk }
      { c with stamps := c.stamps ++ [s] }

/-- A bitmap of a train (R124). -/
def trainBitmap (bs : List Nat) (i : Nat) : Nat :=
  bs.getD i 0 + bs.getD (i + 1) 0 * 2 ^ 64 + bs.getD (i + 2) 0 * 2 ^ 128 + bs.getD (i + 3) 0 * 2 ^ 192

/-- The record of a train for the apply instant of its frame (R136). Block 14 ends 15 blocks of 6.4 ns after the first
bit of the SOT. -/
def CnTrain.record (x : CnTrain) (ofs : Int) : CnRec :=
  { frame := x.frame, gen := x.gen, active := x.sot.testBit 6, src := x.sot.testBit 5, up := x.up, blk14 := ofs + 1536
    w0 := x.blocks.getD 3 0 % 2 ^ 32, w1 := x.blocks.getD 3 0 / 2 ^ 32, w2 := x.blocks.getD 4 0 % 2 ^ 32
    ack := trainBitmap x.blocks 5, grant := trainBitmap x.blocks 9 }

/-- The train goes on (R135, R148). -/
def Cell.repeatTrain (c : Cell) (x : CnTrain) (slot : Option Nat) : Cell :=
  let s := match slot with
    | some d => some d
    | none => if c.pos.isSome then some x.slot else none
  (c.outputs x.rx).foldl (fun c o =>
    let c := c.send o.1 (.train (if o.2 then x.turned else x.passed) s)
    if o.2 then c.setReg Reg.CN_TIME_WRAPLAT (w32 (x.turn % 4096)) else c) c

/-- A SOT that counts has reached a receiver: it is orphaned no longer (R149). -/
def Cell.heard (c : Cell) (rx : Nat) : Cell := { c with orphan := putBit c.orphan rx false }.sync

/-- The update of θ, after which the sides show a receiver that a renumbering reached (R149, R213). -/
def Cell.timeUpdate (c : Cell) : Cell :=
  let y := c.thetaUpdate
  if y.orphan = c.orphan then y else y.sync

/-- A train passes the cell (R132 to R136, R144, R209): it is stamped, its slot is written, and its record is kept for the
apply instant of its frame. A receiver without signal or lock receives nothing (log entry 133). -/
def Cell.trainIn (c : Cell) (x : CnTrain) : Cell :=
  if !(c.lane (x.rx % 2)).good then c
  else
    let bad := x.errs + b2n (!x.sotOk) + b2n (!x.data && !x.emptyOk)
    let c := if bad = 0 then c else c.blockErrs x.rx bad
    if !x.sotOk then c.repeatTrain x none
    else
      let c := c.passTo (x.k * c.fpU + x.ofs * edgeU)
      let c := if !c.configured ∧ !x.wrapped ∧ x.crcOk then c.takeHop x else c
      let c := match c.window x with
        | none => c
        | some (k, ofs) =>
          let c := if !c.isSet || x.frame == k then c.heard (x.rx % 2) else c
          let c := c.stamp x k ofs
          if x.crcOk ∧ c.isSet ∧ c.configured then { c with recs := c.recs ++ [x.record ofs] } else c
      c.repeatTrain x (c.slotData x)

/-! ### URGENT (R105, R144) -/

/-- An URGENT block reaches a receiver: it is repeated, and every gate goes low. -/
def Cell.urgentIn (c : Cell) (rx content : Nat) : Cell :=
  if !(c.lane (rx % 2)).good then c
  else
    let c := (c.outputs (rx % 2)).foldl (fun c o => c.send o.1 (.urgent content)) c
    if !crc8Ok content then c.blockErrs rx 1
    else if !urgentOk content then c
    else
      let c := (c.inc Reg.CN_LANE_URG_CNT).setBit Reg.CN_PROT_STAT 10 true
      if c.guarded then { c.blockNow cUrgent with urgent := true } else c

/-! ### Reset (R460, R470, R474) -/

/-- A reset of the whole cell into Unconfigured: power-on (0), by the VP (1), or the lane watchdog (2). The regulator
strap and the test access port stand (log entries 17, 132, 138). -/
def Cell.reset (c : Cell) (cause : Nat) : Cell :=
  ({ rstCause := 2 ^ cause, tap := c.tap } : Cell).setBit Reg.CN_SYS_PWR 1 (c.bit Reg.CN_SYS_PWR 1)

/-- The power-on reset is released; `CORE_INT` is sampled (R470) (log entry 138). -/
def Cell.powerOn (c : Cell) (coreInt : Bool) : Cell := (c.setBit Reg.CN_SYS_PWR 1 coreInt).reset 0

/-- The root PLL loses lock: the gate outputs are clamped to their off levels (R460); its relock ends in a reset by the
watchdog. -/
def Cell.pllLost (c : Cell) : Cell := { c with clamped := true }
def Cell.pllBack (c : Cell) : Cell := if c.clamped then c.reset 2 else c

end Sys2Proof.Machine
end

