-- ==== Sys2Proof/Machine/CellApply.lean ====
section
/-!
DEFINITION. The frame of a cell: sampling and the decision code, the report, the choice of a record, and the apply instant
(R48, R58 to R60, R64, R73, R78 to R84, R99, R105, R106, R130 to R132, R136).
-/

namespace Sys2Proof.Machine

/-! ### Sampling (R80 to R82) -/

/-- The decision code of three conversions (R81). -/
def decisionCode (cfg : Word) (c0 c1 c2 : Nat) : Nat :=
  let w : Int := (c0 + 2 * c1 + c2 : Nat)
  let x : Int := (w - 4 * (fld cfg 0 14 : Int)) * (fld cfg 16 16 : Int) / 262144
  (clampI 0 1023 x).toNat

/-- The frame of the coming sample instant, B_n − SAMPLE_LEAD. -/
def Cell.sampleFrame (c : Cell) : Nat :=
  let n := (c.t + c.leadU + (c.fpU - 1)) / c.fpU
  match c.latches with
  | l :: _ => if l.frame = n then n + 1 else n
  | [] => n

/-- The sample instant: the conversions that start at it and 16 ns and 32 ns after it give the decision code, and code,
FRAME_NO and hash are latched (R81, R82). A frozen cell whose code reaches SAFE_CODE leaves the freeze (R109)
(log entry 127). -/
def Cell.sample (c : Cell) (r0 r1 r2 : Int) : Cell :=
  if !c.configured || !c.isSet then c
  else
    let n := c.sampleFrame
    let c := c.passTo (n * c.fpU - c.leadU)
    let c := ((c.capConv r0).capConv r1).capConv r2
    let code := decisionCode (c.reg Reg.CN_ADC_CODE_CFG) (clamp14 r0) (clamp14 r1) (clamp14 r2)
    let uv := c.fld Reg.CN_PROT_UV 0 14
    let c := if c.guarded then c.warning 1 4 (decide (clamp14 r0 < uv)) (decide (uv < clamp14 r0)) else c
    let c := c.setReg Reg.CN_ADC_CODE (w32 (code + n % 256 * 2 ^ 24))
    let c := { c with
      latches := { frame := n, code := code, h := hash c.node n } :: c.latches.take 1
      ovrng := over14 r0 || over14 r1 || over14 r2 }
    if c.st = stFrozen ∧ c.fld Reg.CN_PROT_FRZ 16 10 ≤ code then c.freezeExit else c

/-! ### The report (R79, R130 to R132) -/

/-- The report's 48 bits as the cell stands. -/
def Cell.reportBits (c : Cell) (code : Nat) : Nat :=
  code % 1024 + c.st * 2 ^ 10 + c.gst * 2 ^ 13 + b2n c.missed * 2 ^ 15 + b2n c.refreshDue * 2 ^ 16
    + c.fld Reg.CN_SW_SELF_REF_CNT 0 3 * 2 ^ 17 + c.causes * 2 ^ 20 + c.fld Reg.CN_SYS_STATE 17 3 * 2 ^ 29
    + b2n c.short * 2 ^ 32 + b2n c.ovrng * 2 ^ 33 + c.warn % 16 * 2 ^ 34 + c.fld Reg.CN_SYS_STATE 20 2 * 2 ^ 38
    + b2n c.timeOk * 2 ^ 40 + b2n c.ldir * 2 ^ 41 + b2n c.mbox * 2 ^ 42 + b2n (c.lost false) * 2 ^ 43
    + b2n (c.lost true) * 2 ^ 44

/-- 240 ns after the sample instant the report of its frame is assembled; the flags of the time since the previous one
begin afresh, and the first report with refresh-due is noted (R97, R99). -/
def Cell.assemble (c : Cell) : Cell :=
  match c.latches with
  | [] => c
  | l :: _ =>
    if !c.configured || !c.isSet || decide (c.report.map (·.1) = some l.frame) then c
    else
      let c := c.passTo (l.frame * c.fpU - c.leadU + 240 * nsU)
      let r := withCrc16 (c.reportBits l.code) c.node l.frame
      { c with
        report := some (l.frame, r), missed := false, short := false
        dueFrom := if c.refreshDue then (match c.dueFrom with | some m => some m | none => some l.frame) else c.dueFrom }

/-! ### The choice of a record (R136) -/

/-- GEN x counts as higher than GEN y. -/
def genHigher (x y : Nat) : Bool := decide (1 ≤ (x + 256 - y % 256) % 256) && decide ((x + 256 - y % 256) % 256 ≤ 127)

/-- The record of `x` goes before that of `best`, which was received earlier. -/
def CnRec.beats (x best : CnRec) : Bool :=
  genHigher x.gen best.gen
    || (x.gen == best.gen && ((x.active && !best.active) || (x.active == best.active && !x.src && best.src)))

/-- The record chosen for the apply instant of frame `f`, whose block 14 ended 200 ns before it at the latest. -/
def Cell.chosen (c : Cell) (f : Nat) : Option CnRec :=
  let limit : Int := (c.fld Reg.CN_TIME_APPLY 0 16 * 16 : Nat) - 3200
  (c.recs.filter (fun r => r.frame == f && decide (r.blk14 ≤ limit))).foldl (fun best r =>
    match best with
    | none => some r
    | some b => if r.beats b then some r else some b) none

/-- A chosen record is valid for a latch (R59). -/
def CnRec.valid (r : CnRec) (l : Latch) : Bool :=
  decide (w0Mode r.w0 ≤ 3) && !(w2TrimV r.w2 && w2Ksel r.w2 == 3) && w1Seq r.w1 == l.frame % 256

/-! ### Taking a record (R59) -/

/-- The cell's index within its VP, as a record names it. -/
def Cell.idx (c : Cell) : Nat := c.node % 4096

/-- The gate state that a record or override brings: Active, unless a block cause remains (R78). `dec` is the instant at
which it was decoded (log entry 125). -/
def Cell.takeState (c : Cell) (gst dec : Nat) : Cell :=
  if c.causes ≠ 0 then c
  else
    let c := { c with todo := [], pwm := none }.setLocal false
    ((c.setSt stActive).change gst (some dec)).setGst gst

/-- The trim cell runs its carriers from this apply instant; KSEL and TRIM_DUTY enter the trim pair together (R58, R60,
R95) (log entry 139). -/
def Cell.takeTrim (c : Cell) (ksel duty dec : Nat) : Cell :=
  let c := (c.setReg Reg.CN_SW_TRIM (w32 (ksel * 2 ^ 16 + duty))).takeState 2 dec
  if c.st = stActive then { c with pwm := some { ksel := ksel, duty := duty, next := c.clk, isLocal := false } } else c

/-- The override in force: forced bypassed or inserted, or local PWM in its place (R73, R84, R93). GSTATE shows the
override's state, as which the engine counts the cell (log entry 129). -/
def Cell.takeOverride (c : Cell) (action : Nat) : Cell :=
  let dec := c.ovrDec
  let gst := if action = 1 then 0 else 1
  if !c.bit Reg.CN_SW_PWM_CTL 0 then c.takeState gst dec
  else
    let c := c.takeState 2 dec
    if c.st = stActive then
      { (c.setGst gst).setLocal true with
        pwm := some { ksel := 0, duty := 0, next := c.clk, isLocal := true } }
    else c

/-- Whether the report was acknowledged by the record, and a grant given (R55). -/
def Cell.ackedBy (c : Cell) (r : CnRec) : Bool := r.ack.testBit c.posReg
def Cell.grantedBy (c : Cell) (r : CnRec) : Bool := r.grant.testBit c.posReg

/-- A cell whose report is not acknowledged holds, and blocks at UNACK_LIMIT (R48) (log entry 128). -/
def Cell.notAcked (c : Cell) : Cell :=
  let c := { c with unackRun := c.unackRun + 1 }
  if c.fld Reg.CN_SW_UNACK 0 8 ≤ c.unackRun then c.blockNow cUnack else c

/-- A record in normal or all mode (R59) (log entry 128). -/
def Cell.takeNormal (c : Cell) (r : CnRec) (l : Latch) (dec : Nat) : Cell :=
  let c := c.setCause cBlock false
  let c := if c.ackedBy r then { c.setCause cUnack false with unackRun := 0 } else c
  let o := c.fld Reg.CN_SW_OVR 0 2
  if o = 3 then c.blockSoft cOverride c.ovrDec
  else if o ≠ 0 then c.takeOverride o
  else if c.grantedBy r then { c.takeState 0 dec with dueFrom := none }
  else if !c.ackedBy r then c.notAcked
  else if w2TrimV r.w2 ∧ w2Idx r.w2 = c.idx then c.takeTrim (w2Ksel r.w2) (w2Duty r.w2) dec
  else if w0Mode r.w0 = modeAll then c.takeState 1 dec
  else c.takeState (if inserts (w0Dir r.w0) (w0B r.w0) (w0C r.w0) l.code l.h then 1 else 0) dec

/-- A valid record is taken (R59, R78, R105, R106, R109) (log entry 128). -/
def Cell.takeRecord (c : Cell) (r : CnRec) (l : Latch) (dec : Nat) : Cell :=
  let c := { (c.setCause cLoss false).setCause cFreeze false with ldir := r.up, lossRun := 0 }
  if c.st = stRetired then c
  else if w0Mode r.w0 = modeBlock then { c.setCause cUrgent false with urgent := false }.blockSoft cBlock dec
  else if w0Mode r.w0 = modeHold then c
  else c.takeNormal r l dec

/-- No valid record: the cell holds, and a missed broadcast counts towards LOSS_LIMIT (R59, R106, R109). -/
def Cell.missRecord (c : Cell) : Cell :=
  let limit := c.fld Reg.CN_PROT_CFG0 16 8
  let c := { c.inc Reg.CN_SW_MISS_CNT with missed := true }
  if c.st = stRetired then c
  else if c.st = stFrozen then
    let c := { c with frzLoss := c.frzLoss + 1 }
    if limit ≤ c.frzLoss then c.freezeExit else c
  else
    let c := { c with lossRun := c.lossRun + 1 }
    if limit ≤ c.lossRun ∧ !c.hasCause cLoss then (c.inc Reg.CN_PROT_LOSS_CNT).blockNow cLoss else c

/-! ### The apply instant -/

/-- The frame of the coming apply instant, B_n + APPLY_OFFSET. -/
def Cell.applyFrame (c : Cell) : Nat :=
  let n := (c.t + (c.fpU - 1) - c.applyU) / c.fpU
  if c.applied = some n then n + 1 else n

/-- Configuration writes that have arrived take effect (R115). -/
def Cell.applyCfg (c : Cell) : Cell :=
  { c.pendCfg.foldl (fun c p => c.setReg p.1 p.2) c with pendCfg := [] }

/-- Local PWM begins a new carrier sequence at every apply instant (R93). -/
def Cell.localAgain (c : Cell) : Cell :=
  match c.pwm with
  | some p => if p.isLocal then { c with pwm := some { p with next := c.clk } } else c
  | none => c

/-- The cell's own refresh pulse, eight frames or more after the first report with refresh-due, when the state taken is
inserted (R99) (log entry 126). -/
def Cell.ownRefresh (c : Cell) (f : Nat) : Cell :=
  match c.dueFrom with
  | some m =>
    if m + 8 ≤ f ∧ c.st = stActive ∧ c.gst = 1 ∧ c.pwm = none ∧ c.refreshDue then c.selfRefresh else c
  | none => c

/-- The record of the apply instant of frame `f`, with the latch of the frame before and the instant at which it was
decoded, 200 ns after its last bit, on the cell's clock (R82, R83, R90). -/
def Cell.recordFor (c : Cell) (f : Nat) : Option (CnRec × Latch × Nat) :=
  match c.chosen f, c.latches.find? (fun l => l.frame + 1 == f) with
  | some r, some l =>
    if r.valid l then
      some (r, l, ((c.clk : Int) - c.applyU + (r.blk14 * edgeU + 200 * nsU)).toNat)
    else none
  | _, _ => none

/-- What a cell does with the record of an apply instant, or without one (log entry 129). -/
def Cell.act (c : Cell) (f : Nat) : Cell :=
  match c.recordFor f with
  | none => c.missRecord
  | some (r, l, dec) =>
    if c.st = stFrozen then { c with frzLoss := 0 }
    else if c.urgent ∧ w0Mode r.w0 ≠ modeBlock then c
    else c.takeRecord r l dec

/-- A force-blocked override at an apply instant (R84): Blocked with cause OVERRIDE; a frozen cell leaves its freeze by it
(R109). -/
def Cell.forceBlocked (c : Cell) : Cell :=
  if c.fld Reg.CN_SW_OVR 0 2 ≠ 3 then c
  else if c.st = stFrozen then (c.setCause cOverride true).freezeExit
  else c.blockSoft cOverride c.ovrDec

/-- What the records decoded so far bring at the next apply instant (R89): none while nothing is known of it. -/
def Cell.nextGate (c : Cell) : Option NextGate :=
  if !c.configured || !c.isSet then none
  else
    let f := c.applyFrame
    let x := c.passTo (f * c.fpU + c.applyU)
    match x.recordFor f with
    | some (_, _, dec) =>
      let y := x.act f
      some { dec := dec, at_ := x.clk, gst := if y.st = stActive then y.gst else 3 }
    | none => none

/-- The earliest scheduled edge of the cell falls due. -/
def Cell.gateEdge (c : Cell) : Cell := c.edgeDue c.nextGate

/-- The apply instant: configuration writes and a retire command take effect, a force-blocked override blocks, the chosen
record is taken or missed, and the cell's own refresh may follow (R59, R84, R99, R104, R115) (log entry 131). -/
def Cell.apply (c : Cell) : Cell :=
  if !c.configured || !c.isSet then c
  else
    let f := c.applyFrame
    let c := (c.passTo (f * c.fpU + c.applyU)).applyCfg
    let c := if c.retire then c.retireNow 4 else c
    let c := c.forceBlocked
    let c := ((c.localAgain).act f).ownRefresh f
    { c with applied := some f, recs := [], latches := c.latches.filter (fun l => l.frame + 1 != f) }

/-- A retire command takes effect at the first apply instant after it arrives (R104). -/
def Cell.retireCmd (c : Cell) : Cell :=
  if c.retire ∧ c.isSet then (c.passTo (c.applyFrame * c.fpU + c.applyU)).retireNow 4 else c

/-! ### Boundary registers (R73, R84, R230, R501) -/

/-- The boundary in `CN_SW_OVR_AT` comes: the pending action is in force (log entry 129). Without one the register keeps
the boundary that has passed, and refuses what comes late (R501). -/
def Cell.overrideAt (c : Cell) : Cell :=
  if !c.isSet ∨ c.reg Reg.CN_SW_OVR_AT = 0 ∨ c.pendOvr = none then c
  else
    let c := c.toBoundary Reg.CN_SW_OVR_AT
    let c := match c.pendOvr with
      | some a =>
        let c := (c.setReg Reg.CN_SW_OVR (w32 a)).setBit Reg.CN_SYS_STATE 20 (a != 0)
        if a = 3 then (if c.guarded then c.setCause cOverride true else c) else c.setCause cOverride false
      | none => c
    { c.setReg Reg.CN_SW_OVR_AT 0 with pendOvr := none }

/-- The boundary in `CN_TIME_CHG_AT` comes: the pending values are in force. Without one the register keeps the boundary
(R501). -/
def Cell.timeChangeAt (c : Cell) : Cell :=
  if !c.isSet ∨ c.reg Reg.CN_TIME_CHG_AT = 0 ∨ (c.pendLead = none ∧ c.pendApply = none) then c
  else
    let c := c.toBoundary Reg.CN_TIME_CHG_AT
    let c := match c.pendLead with
      | some x => c.setReg Reg.CN_TIME_SLEAD (w32 x)
      | none => c
    let c := match c.pendApply with
      | some x => c.setReg Reg.CN_TIME_APPLY (w32 x)
      | none => c
    { c.setReg Reg.CN_TIME_CHG_AT 0 with pendLead := none, pendApply := none }

end Sys2Proof.Machine
end

