-- ==== Sys2Proof/Machine/CellMg.lean ====
section
/-!
DEFINITION. The management channel at a cell: packets, reads, writes with their refusals, configuration and reset (R114,
R115, R137, R138, R141, R157, R230, R501).
-/

namespace Sys2Proof.Machine

/-- A packet as it reaches a receiver: MGS, its data blocks, DCRC and MGE (R137). -/
structure CnPkt where
  rx : Nat
  mgs : Nat
  blocks : List Nat
  dcrc : Nat
  mge : Nat
  deriving DecidableEq, Repr

/-- The fields of MGS. -/
def CnPkt.dest (p : CnPkt) : Nat := p.mgs % 256
def CnPkt.bcast (p : CnPkt) : Bool := p.mgs.testBit 8
def CnPkt.opc (p : CnPkt) : Nat := p.mgs / 2 ^ 9 % 8
def CnPkt.first (p : CnPkt) : Bool := p.mgs.testBit 12
def CnPkt.odd (p : CnPkt) : Bool := p.mgs.testBit 13
def CnPkt.src (p : CnPkt) : Bool := p.mgs.testBit 14
def CnPkt.addr (p : CnPkt) : Nat := p.mgs / 2 ^ 16 % 65536
def CnPkt.tag (p : CnPkt) : Nat := p.mgs / 2 ^ 40 % 256

/-- The words of the data blocks, low half first. -/
def blockWords (bs : List Nat) : List Nat := bs.flatMap (fun b => [b % 2 ^ 32, b / 2 ^ 32 % 2 ^ 32])
/-- The words that the packet writes or reads: the high word of the last block is left out when ODD is set. -/
def CnPkt.words (p : CnPkt) : List Nat := if p.odd then (blockWords p.blocks).dropLast else blockWords p.blocks
/-- Address and word, in order. -/
def CnPkt.writes (p : CnPkt) : List (Nat × Word) := (p.words.zipIdx).map (fun x : Nat × Nat => (p.addr + x.2, w32 x.1))
/-- The addresses that it covers. -/
def CnPkt.addrs (p : CnPkt) : List Nat := (List.range p.words.length).map (fun i => p.addr + i)
/-- DCRC matches. -/
def CnPkt.dcrcOk (p : CnPkt) : Bool := p.dcrc == crc32Words (blockWords p.blocks)

/-! ### Reads -/

/-- A value of two words: its lowest word latches the other (R230). -/
def Cell.wideLow (c : Cell) (a : Nat) (x : Nat) : Word × Cell :=
  (w32 x, { c with wide := sput (a + 1) (w32 (x / 2 ^ 32)) c.wide })
/-- The further word of such a value: as latched, or before any latch as it stands (log entry 26). -/
def Cell.wideHigh (c : Cell) (a x : Nat) : Word × Cell := ((c.wide.lookup a).getD (w32 (x / 2 ^ 32)), c)

/-- The register at CN word address `a` as a read returns it, and the cell after the read. Housekeeping memory without
power has no stated contents (log entry 9) (log entries 2, 136). -/
def Cell.read (c : Cell) (a : Nat) : Word × Cell :=
  if 0x4000 ≤ a ∧ a < 0x8000 then
    (if c.hkOn then mgetW c.hkMem (4 * (a - 0x4000)) else w32 (Config.openNat 15 a), c)
  else if a = Reg.CN_TIME_FRAME0 then c.wideLow a c.frame
  else if a = Reg.CN_TIME_FRAME1 then c.wideHigh a c.frame
  else if a = Reg.CN_TIME_INC0 then c.wideLow a c.incr
  else if a = Reg.CN_TIME_INC1 then c.wideHigh a c.incr
  else if a = Reg.CN_TIME_OFS then (w32 (c.t % c.fpU / nsU), c)
  else if a = Reg.CN_TIME_FRAC then (w32 (c.t % nsU), c)
  else if a = Reg.CN_SYS_RST_CAUSE then (w32 c.rstCause, c)
  else if a = Reg.CN_SW_INS_TIME then (w32 c.insUs, c)
  else if a = Reg.CN_HK_MBOX_OUT 7 then (c.reg a, { c with mbox := false })
  else
    match cnRow a with
    | some r => (if r.acc = .wo then 0 else c.reg a, c)
    | none => (0, c)

/-- A run of reads. -/
def Cell.readAll (c : Cell) : List Nat → List Word × Cell
  | [] => ([], c)
  | a :: as =>
    let (w, c) := c.read a
    let (ws, c) := c.readAll as
    (w :: ws, c)

/-! ### Refusals (R115, R138, R501) -/

/-- A nonzero value names a boundary that has passed; every one has while the cell's time is not set (R501)
(log entry 135). -/
def Cell.passed (c : Cell) (x : Nat) : Bool :=
  let d := (x + 0x100000000 - c.frame % 0x100000000) % 0x100000000
  x != 0 && (!c.isSet || d == 0 || decide (0x80000000 ≤ d))

/-- What a register holds after the packet. -/
def Cell.after (c : Cell) (ws : List (Nat × Word)) (a : Nat) : Word := (ws.reverse.lookup a).getD (c.reg a)

/-- A value lies outside the range that its field states (log entry 29). -/
def cnRangeBad (a : Nat) (w : Word) : Bool :=
  let f := fld w
  if a = Reg.CN_SW_DT then decide (32000 < f 0 15)
  else if a = Reg.CN_SW_MINP then decide (f 0 17 < 1600) || decide (80000 < f 0 17)
  else if a = Reg.CN_SW_REFRESH then decide (f 0 17 < 100) || decide (100000 < f 0 17)
  else if a = Reg.CN_SW_UNACK then decide (f 0 8 < 2)
  else if a = Reg.CN_PROT_CFG0 then
    decide (250 < f 0 8) || decide (f 8 8 < 1) || decide (100 < f 8 8) || decide (f 16 8 < 2) || decide (f 24 4 < 2)
      || f 28 2 == 0
  else if a = Reg.CN_PROT_CFG1 then decide (f 0 16 < 25)
  else if a = Reg.CN_PROT_BYP then decide (32000 < f 0 15) || decide (1000 < f 16 10)
  else if a = Reg.CN_TIME_PERIOD then decide (10 < f 0 4)
  else if a = Reg.CN_TIME_SLEAD then decide (f 0 12 < 250) || decide (4000 < f 0 12)
  else if a = Reg.CN_TIME_APPLY then decide (f 0 16 < 500)
  else if a = Reg.CN_LANE_EYE_CFG then decide (f 16 8 < 1) || decide (100 < f 16 8)
  else if a = Reg.CN_LANE_PWR_CFG then decide (f 16 16 < 100) || decide (60000 < f 16 16)
  else if a = Reg.CN_LANE_TXEQ 0 ∨ a = Reg.CN_LANE_TXEQ 1 then txeqRefused w
  else if a = Reg.CN_LANE_RXCFG 0 ∨ a = Reg.CN_LANE_RXCFG 1 then rxcfgRefused w
  else if a = Reg.CN_LANE_CFG 0 ∨ a = Reg.CN_LANE_CFG 1 then f 3 2 == 3 || f 5 2 == 3
  else false

/-- A configuration write that the cell refuses in its state: out of range, `CN_SW_CFG` and lane tests only while Blocked,
`CN_TIME_PERIOD` only in configuration, a commit with a staged KSEL of 0b11. -/
def Cell.cfgRefused (c : Cell) (ws : List (Nat × Word)) (cfg : Bool) (a : Nat) (w : Word) : Bool :=
  cnRangeBad a w
    || (a == Reg.CN_SW_CFG && !cfg && c.st != stBlocked)
    || (a == Reg.CN_TIME_PERIOD && !cfg)
    || ((a == Reg.CN_LANE_CFG 0 || a == Reg.CN_LANE_CFG 1) && c.st != stBlocked && Machine.fld w 3 4 != 0)
    || (a == Reg.CN_SW_PWM_COMMIT && (c.half0 || (ws.lookup Reg.CN_SW_PWM_STG0).isSome)
      && Machine.fld (c.after ws Reg.CN_SW_PWM_STG0) 0 2 == 3)

/-- A write that R501 refuses: it names a boundary that has passed, or stages or arms a change while the boundary register
of that change, as the packet leaves it, does (log entry 135). -/
def Cell.boundaryRefused (c : Cell) (ws : List (Nat × Word)) (cfg : Bool) (a : Nat) (w : Word) : Bool :=
  let gone := fun r => c.passed (c.after ws r).toNat
  if a = Reg.CN_SW_OVR_AT ∨ a = Reg.CN_LANE_CLOSE_AT ∨ a = Reg.CN_TIME_CHG_AT then c.passed w.toNat
  else if a = Reg.CN_SW_OVR then gone Reg.CN_SW_OVR_AT
  else if a = Reg.CN_LANE_CLOSE_CTL then Machine.fld w 0 2 != 0 && gone Reg.CN_LANE_CLOSE_AT
  else if a = Reg.CN_TIME_SLEAD ∨ a = Reg.CN_TIME_APPLY then !cfg && gone Reg.CN_TIME_CHG_AT
  else false

/-- The word is refused (R138). -/
def Cell.wordRefused (c : Cell) (ws : List (Nat × Word)) (cfg : Bool) (x : Nat × Word) : Bool :=
  c.cfgRefused ws cfg x.1 x.2 || c.boundaryRefused ws cfg x.1 x.2
    || (x.1 == Reg.CN_ADC_CAL && c.st != stBlocked)
    || (x.1 == Reg.CN_PROT_FRZ && c.freezeRefused x.2)

/-- The flags that a refused word sets (R107, R112, R116, R189). -/
def Cell.flagRefused (c : Cell) (ws : List (Nat × Word)) (cfg : Bool) (x : Nat × Word) : Cell :=
  let c := if c.cfgRefused ws cfg x.1 x.2 then c.setBit Reg.CN_SW_STICKY 1 true else c
  let c := if x.1 / 0x40 = 0x54 ∧ c.cfgRefused ws cfg x.1 x.2 then c.setBit (Reg.CN_LANE_STICKY 0) 8 true else c
  let c := if x.1 / 0x40 = 0x55 ∧ c.cfgRefused ws cfg x.1 x.2 then c.setBit (Reg.CN_LANE_STICKY 1) 8 true else c
  let c := if x.1 = Reg.CN_ADC_CAL ∧ c.st ≠ stBlocked then c.setBit Reg.CN_ADC_STAT 3 true else c
  if x.1 = Reg.CN_PROT_FRZ ∧ c.freezeRefused x.2 then c.setBit Reg.CN_PROT_STAT 11 true else c

/-! ### Writes -/

/-- A write to `CN_PROT_CMD`: a keyed RETIRE is held by a configuration, or acts at the next apply instant; bit 1 clears
the parity cause (R104, R116, R141). -/
def Cell.protCmd (c : Cell) (cfg : Bool) (w : Word) : Cell :=
  let c := if Machine.bit w 0 ∧ Machine.fld w 16 16 = 0xA5 then
      (if cfg then { c with cfgRetire := true } else if c.guarded then { c with retire := true } else c)
    else c
  if Machine.bit w 1 then c.parityClear else c

/-- A plain register takes a word: configuration of `CN_SW`, `CN_PROT` and `CN_ADC` at the next apply instant, outside a
configuration (R115). -/
def Cell.plainWrite (c : Cell) (cfg : Bool) (a : Nat) (w : Word) : Cell :=
  match cnRow a with
  | some r =>
    if r.acc = .rws ∨ r.acc = .rw then
      let x := (w &&& w32 r.mask) ||| (w32 r.reset &&& ~~~ (w32 r.mask))
      if !cfg ∧ 0x800 ≤ a ∧ a < 0x1400 then { c with pendCfg := sput a x c.pendCfg, rewritten := true }
      else c.setReg a x
    else c
  | none => c

/-- A write of `CN_LANE_RXCFG`: CTLE_FIX takes its code at once (log entry 34). -/
def Cell.rxcfgWrite (c : Cell) (i : Nat) (w : Word) : Cell :=
  let c := c.plainWrite true (Reg.CN_LANE_RXCFG i) w
  if Machine.bit w 1 then c.setFld (Reg.CN_LANE_COEF0 i) 0 5 (Machine.fld w 2 5) else c

/-- The boundary registers and what they stage (R73, R153, R230, R501) (log entry 135). -/
def Cell.boundaryWrite (c : Cell) (cfg : Bool) (a : Nat) (w : Word) : Cell :=
  if a = Reg.CN_SW_OVR then { c with pendOvr := some (Machine.fld w 0 2), ovrDec := c.clk }
  else if a = Reg.CN_SW_OVR_AT then
    (if w = 0 then { c.setReg a 0 with pendOvr := none } else { c.setReg a w with ovrDec := c.clk })
  else if a = Reg.CN_LANE_CLOSE_AT then (if w = 0 then (c.setReg a 0).setReg Reg.CN_LANE_CLOSE_CTL 0 else c.setReg a w)
  else if a = Reg.CN_LANE_CLOSE_CTL then c.setReg a (w &&& w32 3)
  else if a = Reg.CN_TIME_CHG_AT then
    (if w = 0 then { c.setReg a 0 with pendLead := none, pendApply := none } else c.setReg a w)
  else if a = Reg.CN_TIME_SLEAD then
    (if cfg then c.setReg a (w &&& w32 0xFFF) else { c with pendLead := some (Machine.fld w 0 12) })
  else if cfg then c.setReg a (w &&& w32 0xFFFF) else { c with pendApply := some (Machine.fld w 0 16) }

/-- One word of a WRITE or CONFIG is applied (log entry 135). -/
def Cell.wordIn (cfg : Bool) (c : Cell) (x : Nat × Word) : Cell :=
  let (a, w) := x
  if 0x4000 ≤ a then (if c.hkOn then { c with hkMem := msetW c.hkMem (4 * (a - 0x4000)) w } else c)
  else if [Reg.CN_SW_OVR, Reg.CN_SW_OVR_AT, Reg.CN_LANE_CLOSE_AT, Reg.CN_LANE_CLOSE_CTL, Reg.CN_TIME_CHG_AT,
      Reg.CN_TIME_SLEAD, Reg.CN_TIME_APPLY].contains a then c.boundaryWrite cfg a w
  else if a = Reg.CN_SW_STICKY_CLR then c.setReg Reg.CN_SW_STICKY (c.reg Reg.CN_SW_STICKY &&& ~~~ w)
  else if a = Reg.CN_TIME_STICKY_CLR then c.setReg Reg.CN_TIME_STICKY (c.reg Reg.CN_TIME_STICKY &&& ~~~ w)
  else if a = Reg.CN_LANE_STICKY_CLR 0 then c.setReg (Reg.CN_LANE_STICKY 0) (c.reg (Reg.CN_LANE_STICKY 0) &&& ~~~ w)
  else if a = Reg.CN_LANE_STICKY_CLR 1 then c.setReg (Reg.CN_LANE_STICKY 1) (c.reg (Reg.CN_LANE_STICKY 1) &&& ~~~ w)
  else if a = Reg.CN_ADC_STAT then c.setReg a (c.reg a &&& ~~~ (w &&& w32 0xE))
  else if a = Reg.CN_SW_PWM_STG0 then { c.setReg a (w &&& w32 3) with half0 := true }
  else if a = Reg.CN_SW_PWM_STG1 then { c.setReg a (w &&& w32 0xFFFF) with half1 := true }
  else if a = Reg.CN_SW_PWM_COMMIT then c.pwmCommit
  else if a = Reg.CN_PROT_CMD then c.protCmd cfg w
  else if a = Reg.CN_PROT_FRZ then c.freezeWrite w
  else if a = Reg.CN_ADC_CAL then c.adcCal
  else if a = Reg.CN_HK_CTL then (c.plainWrite true a w).hkSync
  else if a = Reg.CN_HK_MBOX_IN 7 then c.mboxIn w
  else if a = Reg.CN_HK_MBOX_OUT 7 then c.mboxOut w
  else if a = Reg.CN_LANE_RXCFG 0 then c.rxcfgWrite 0 w
  else if a = Reg.CN_LANE_RXCFG 1 then c.rxcfgWrite 1 w
  else c.plainWrite cfg a w

/-- Every word of a packet is applied, or none (R138): its status, and the cell. -/
def Cell.wordsIn (c : Cell) (p : CnPkt) (cfg : Bool) : Nat × Cell :=
  let ws := p.writes
  if p.addrs.any (fun a => !cnInMap a) then (2, c)
  else if ws.any (c.wordRefused ws cfg) then (3, ws.foldl (fun c x => c.flagRefused ws cfg x) c)
  else (1, ws.foldl (Cell.wordIn cfg) c)

/-! ### Configuration (R141, R470) -/

/-- FIRST restarts the CRC and discards any configuration held (log entry 135). -/
def Cell.cfgFirst (c : Cell) : Cell :=
  let keep := fun (p : Nat × Word) =>
    match cnRow p.1 with
    | some r => r.acc != .rws && r.acc != .rw
    | none => true
  ({ c with
    regs := c.regs.filter keep, hkMem := [], cfgCrc := 0xFFFFFFFF, cfgRetire := false, calib := false, pendOvr := none
    pendLead := none, pendApply := none, half0 := false, half1 := false, hkIrq := false }).setFld Reg.CN_SYS_CFG_STAT 0 3 0

/-- The CRC goes on over the data blocks, and firmware powers the HK domain (R141, R470). -/
def Cell.cfgTaken (c : Cell) (p : CnPkt) : Cell :=
  let crc := (p.blocks.flatMap (leBytes 8)).foldl crc32Byte c.cfgCrc
  { c.setReg Reg.CN_SYS_CFG_CRC (w32 (crc ^^^ 0xFFFFFFFF)) with cfgCrc := crc }

/-- Words at or above 0x4000 power the housekeeping core's domain. -/
def Cell.cfgPower (c : Cell) (p : CnPkt) : Cell :=
  if p.addrs.any (fun a => decide (0x4000 ≤ a)) then
    (c.setBit Reg.CN_SYS_PWR 0 true).setBit Reg.CN_SYS_CFG_STAT 2 true
  else c

/-- A CONFIG packet. -/
def Cell.configIn (c : Cell) (p : CnPkt) : Nat × Cell :=
  let c0 := if p.first then c.cfgFirst else c
  let (st, c1) := (if p.addrs.all cnInMap then c0.cfgPower p else c0).wordsIn p true
  if st = 1 then (1, (c1.cfgTaken p).hkSync)
  else (st, if st = 3 then p.writes.foldl (fun c x => c.flagRefused p.writes true x) c else c)

/-- A CONFIG_END packet: the configuration ends when the CRC matches; the cell then calibrates, or enters Retired at once
when it holds RETIRE (R104, R112, R141). -/
def Cell.configEnd (c : Cell) (p : CnPkt) : Nat × Cell :=
  if p.blocks.getD 0 0 % 2 ^ 32 ≠ (c.reg Reg.CN_SYS_CFG_CRC).toNat then (5, c)
  else
    let c := (c.setBit Reg.CN_SYS_CFG_STAT 0 true).hkSync
    (1, if c.cfgRetire then c.enterRetired 4 else { c.setBit Reg.CN_ADC_STAT 0 true with calib := true })

/-! ### Packets (R138) -/

/-- The packet is addressed to the cell. -/
def Cell.addressed (c : Cell) (p : CnPkt) : Bool :=
  p.bcast || (if c.configured then c.posReg == p.dest else c.pos == some p.dest)

/-- The TAG last applied from a SRC, and the packet that carries it again. -/
def Cell.tagOf (c : Cell) (src : Bool) : Option Nat := if src then c.tag1 else c.tag0
def Cell.repeated (c : Cell) (p : CnPkt) : Bool := p.opc != 0 && c.tagOf p.src == some p.tag

/-- An applied packet's TAG is kept. -/
def Cell.keepTag (c : Cell) (p : CnPkt) : Cell :=
  if p.src then { c.setFld Reg.CN_LANE_TAG 8 8 p.tag with tag1 := some p.tag }
  else { c.setFld Reg.CN_LANE_TAG 0 8 p.tag with tag0 := some p.tag }

/-- The MGE of an answer: RESP counted, STATUS the larger (R138). -/
def mgeAnswer (mge status : Nat) : Nat :=
  let s := max (mge % 256) status
  let r := (mge / 256 % 512 + 1) % 512
  withCrc8 (s + r * 256)

/-- The packet goes on along the cell's path (R135, R148). -/
def Cell.passPacket (c : Cell) (p : CnPkt) (blocks : List Nat) (dcrc mge : Nat) : Cell :=
  (c.outputs (p.rx % 2)).foldl (fun c o => c.send o.1 (.packet p.mgs blocks dcrc mge)) c

/-- The answer with a status: counted, and written into the MGE when that is free of error (log entry 135). -/
def Cell.answer (c : Cell) (p : CnPkt) (status : Nat) (blocks : List Nat) (dcrc : Nat) : Cell :=
  let c := if status = 1 then c.addFld Reg.CN_LANE_MG_CNT 0 16 1 else c.addFld Reg.CN_LANE_MG_CNT 16 16 1
  if crc8Ok p.mge then c.passPacket p blocks dcrc (mgeAnswer p.mge status)
  else (c.blockErrs p.rx 1).passPacket p blocks dcrc p.mge

/-- The data blocks of a READ's reply: the words read in the place of the data, the low half of a block first; a high half
that ODD leaves out stays as it came (log entry 135). -/
def readBlocks : List Nat → List Nat → List Nat
  | lo :: hi :: ws, _ :: bs => (lo + hi * 2 ^ 32) :: readBlocks ws bs
  | [lo], b :: bs => (lo + b / 2 ^ 32 * 2 ^ 32) :: bs
  | _, bs => bs

/-- A READ: the words read replace the data, and DCRC is computed again; a word outside the map reads 0 and makes the
status 0x02. -/
def Cell.readPacket (c : Cell) (p : CnPkt) : Cell :=
  let (ws, c) := c.readAll p.addrs
  let bs := readBlocks (ws.map (·.toNat)) p.blocks
  c.answer p (if p.addrs.all cnInMap then 1 else 2) bs (crc32Words (blockWords bs))

/-- The status of a packet that may change the cell, and the cell after it. -/
def Cell.perform (c : Cell) (p : CnPkt) : Nat × Cell :=
  match p.opc with
  | 1 => c.wordsIn p false
  | 2 => c.configIn p
  | 3 => c.configEnd p
  | _ =>
    if p.addrs.any (fun a => !cnInMap a) then (2, c)
    else if p.blocks.getD 0 0 % 2 ^ 32 = 0xA5 then (1, c)
    else (3, c)

/-- The opcode is not accepted in the cell's state. -/
def Cell.opcRefused (c : Cell) (p : CnPkt) : Bool :=
  decide (5 ≤ p.opc) || (if c.configured then p.opc == 2 || p.opc == 3 else p.opc == 1 || p.opc == 4)

/-- A packet for the cell (R138): DCRC, the repeat rule, the opcode, and what it does. A RESET is answered and then
resets the cell (R474), which keeps its TAG as the last one applied. -/
def Cell.takePacket (c : Cell) (p : CnPkt) : Cell :=
  let bs := p.blocks
  if !p.dcrcOk then c.answer p 4 bs p.dcrc
  else if decide (p.opc < 5) && c.repeated p then c.answer p 1 bs p.dcrc
  else if c.opcRefused p then c.answer p 3 bs p.dcrc
  else if p.opc = 0 then c.readPacket p
  else
    let (st, c) := c.perform p
    let c := if st = 1 then c.keepTag p else c
    let c := c.answer p st bs p.dcrc
    if p.opc = 4 ∧ st = 1 then { (c.reset 1).keepTag p with sent := c.sent } else c

/-- A packet with an opcode that `ops` admits reaches the cell. -/
def Cell.packetIn (c : Cell) (ops : Nat → Bool) (p : CnPkt) : Cell :=
  if !ops p.opc || !(c.lane (p.rx % 2)).good then c
  else if !crc8Ok p.mgs then (c.blockErrs p.rx 1).passPacket p p.blocks p.dcrc p.mge
  else if c.addressed p then c.takePacket p
  else c.passPacket p p.blocks p.dcrc p.mge

end Sys2Proof.Machine
end

