-- ==== Sys2Proof/Machine/Adc.lean ====
section
/-!
DEFINITION. The analogue inputs (R288 to R313): codes, over-range, results, injected conversions, calibration, moon
rotation, low-power bursts and streams.
-/

namespace Sys2Proof.Machine

/-! ### Codes (R292) -/

/-- The code of a raw output with a slice's factors, and whether it is over range (R292). -/
def adcCode (ofs : Int) (gain : Nat) (inv : Bool) (raw : Int) (limit : Bool) : Int × Bool :=
  let x := divNear 11 ((16 * raw - ofs) * gain) 524288
  let c := clampI (-8192) 8191 x
  ((if inv then (if c = -8192 then 8191 else -c) else c), limit || c != x)

/-- A code as its field. -/
def code14 (c : Int) : Nat := twos 14 c

/-- The moon slice that reaches a channel: 0 for MS0, 1 for MS1 (R288). -/
def moonOf (ch : Nat) : Nat := ch / 8 % 2

/-- Channel `c` is enabled and not removed. -/
def Vp.chOn (v : Vp) (c : Nat) : Bool := decide (c < 16) && v.bit Reg.ADC_CH_EN c && !v.isRemoved 8 c
/-- The slice that serves a channel. -/
def Vp.sliceOf (v : Vp) (c : Nat) : Nat := if v.adc.onMoon.testBit c then 16 + moonOf c else c
/-- A slice is removed. -/
def Vp.sliceGone (v : Vp) (s : Nat) : Bool := v.adc.removed.testBit s
/-- A channel converts at all: it is enabled, and the slice that serves it has not been removed (log entry 153). -/
def Vp.chServed (v : Vp) (c : Nat) : Bool := v.chOn c && !v.sliceGone (v.sliceOf c)
/-- The calibration of all slices runs (R300): no channel converts. -/
def Vp.calAllRun (v : Vp) : Bool := v.bit Reg.ADC_CAL_STAT 0
/-- The block is in low-power mode (R307). -/
def Vp.lp (v : Vp) : Bool := v.bit Reg.ADC_MODE 0

/-- A cause of `ADC_INT_STAT`, and a flag of `ADC_STICKY`. -/
def Vp.adcInt (v : Vp) (i : Nat) : Vp := v.intCause 8 Reg.ADC_INT_EN Reg.ADC_INT_STAT i
def Vp.adcSticky (v : Vp) (i : Nat) : Vp := v.setBit Reg.ADC_STICKY i true

/-- The handover of moon `x`, if one is under way. -/
def Vp.hoOf (v : Vp) (x : Nat) : Option Handover := v.adc.ho.lookup x
/-- The channel that moon `x` serves, connects to or has served; 31 for none. -/
def Vp.moonCh (v : Vp) (x : Nat) : Nat :=
  match v.hoOf x with
  | some h => h.ch
  | none => ((List.range 8).map (8 * x + ·)).find? (fun c => v.adc.onMoon.testBit c) |>.getD 31
/-- Moon `x` is there, serves no channel, takes part in no handover and is not being calibrated (R288). -/
def Vp.moonFree (v : Vp) (x : Nat) : Bool :=
  !v.sliceGone (16 + x) && v.moonCh x == 31 && !(v.adc.busy && v.adc.slice == 16 + x)
/-- A moon that serves its channel for good (R301, R304). -/
def Vp.moonPerm (v : Vp) (x : Nat) : Bool :=
  (v.hoOf x).isNone && decide (v.moonCh x < 16) && v.sliceGone (v.moonCh x)

/-- The stage of a moon as `ADC_ROT_STAT` shows it. -/
def Vp.moonStage (v : Vp) (x : Nat) : Nat :=
  if v.sliceGone (16 + x) then 7
  else match v.hoOf x with
    | some h => h.stage
    | none =>
      if v.adc.busy ∧ v.adc.slice = 16 + x then 5
      else if v.moonCh x = 31 then 0
      else if v.moonPerm x then 6 else 4

/-- STATE and CH of a slice as `ADC_SL_STAT` shows them. -/
def Vp.sliceSync (v : Vp) (s : Nat) : Vp :=
  let ch := if s < 16 then (if v.chServed s && !v.adc.onMoon.testBit s then s else 31)
    else (let c := v.moonCh (s - 16); if v.adc.onMoon.testBit c then c else 31)
  let calib := v.adc.busy && v.adc.slice == s
  let st := if v.sliceGone s then 3 else if calib then 1 else if ch = 31 then 2 else 0
  (v.setFld (Reg.ADC_SL_STAT s) 0 2 st).setFld (Reg.ADC_SL_STAT s) 3 5 (if st = 0 then ch else 31)

/-- The registers that show the calibrator and the slices. -/
def Vp.adcSync (v : Vp) : Vp :=
  let v := (List.range 18).foldl Vp.sliceSync v
  let v := v.setFld Reg.ADC_CAL_STAT 8 5 (if v.adc.busy then v.adc.slice else 31)
  let v := v.setBit Reg.ADC_CAL_STAT 0 (v.adc.kind == .all)
  let v := v.setBit Reg.ADC_CAL_STAT 2 (v.adc.kind == .one)
  let r := Reg.ADC_ROT_STAT
  let v := ((v.setFld r 0 5 (if v.adc.rotating then (v.adc.step + 17) % 18 else 0)).setFld r 5 5 (v.moonCh 0)).setFld r 10 5 (v.moonCh 1)
  let v := (v.setFld r 15 3 (v.moonStage 0)).setFld r 18 3 (v.moonStage 1)
  v.setBit r 21 (v.lp || !v.bit Reg.ADC_MODE 1)

/-! ### Conversions (R290 to R292, R303) -/

/-- The code that slice `s` forms for channel `c` from a raw output (R292). -/
def Vp.slCode (v : Vp) (s c : Nat) (raw : Int) (limit : Bool) : Int × Bool :=
  adcCode (sgn 16 (v.reg (Reg.ADC_SL_OFS s)).toNat) (v.reg (Reg.ADC_SL_GAIN s)).toNat (v.bit (Reg.ADC_CH_CFG c) 2) raw limit

/-- The output of channel `c` at one conversion, and whether it is over range: in a crossfade the two slices' codes are
blended, and their flags joined (R292, R303). -/
def Vp.codeOf (v : Vp) (c : Nat) (x : RawConv) : Int × Bool :=
  let moon := 16 + moonOf c
  let a := v.slCode (if x.moon then moon else c) c x.raw x.limit
  if x.k = 0 then a
  else
    let b := v.slCode (if x.moon then c else moon) c x.rawIn x.limitIn
    (a.1 + divNear 61 ((b.1 - a.1) * x.k) 768, a.2 || b.2)

/-- Ticks between the conversions now made (R290, R307). -/
def Vp.convTicks (v : Vp) : Nat := if v.lp then 8 else 2

/-- The number of a run's conversions up to tick `u`. -/
def ConvRun.upTo (r : ConvRun) (u : Nat) : Nat := if u < r.start then 0 else min r.n ((u - r.start) / r.step + 1)

/-- The number of conversions after tick `t` and up to tick `u`. -/
def Vp.convCount (v : Vp) (t u : Nat) : Nat := v.adc.runs.foldl (fun k r => k + (r.upTo u - r.upTo t)) 0

/-- The sample instant of the `j`th conversion before the last one at or before tick `u`, in runs listed latest first. -/
def convBack : List ConvRun → Nat → Nat → Nat
  | [], u, j => u - 2 * j
  | r :: rs, u, j =>
    let k := r.upTo u
    if j < k then r.start + (k - 1 - j) * r.step else convBack rs u (j - k)

/-- Does the conversion at tick `u` belong to a low-power burst (R309)? -/
def Vp.convLp (v : Vp) (u : Nat) : Bool :=
  match v.adc.runs.find? (fun r => r.upTo u != 0) with
  | some r => r.step == 8
  | none => false

/-- No conversion follows the present tick (R300, R307). -/
def Vp.convStop (v : Vp) : Vp :=
  { v with adc := { v.adc with runs := v.adc.runs.map (fun r => { r with n := r.upTo v.up }) } }

/-- A run of conversions begins at tick `u`; as many runs are kept as the unsettled conversions of R295 can span. -/
def Vp.convStart (v : Vp) (u step n : Nat) : Vp :=
  { v with adc := { v.adc with runs := ⟨u, step, n⟩ :: v.adc.runs.take 47 } }

/-- Conversions at full rate begin at the next ADC clock edge, after a burst still running (R290, R307). -/
def Vp.convFull (v : Vp) : Vp :=
  let u := max v.up v.adc.burstEnd
  v.convStart (u + u % 2) 2 (2 ^ 64)

/-! ### Over range (R293 to R295) -/

/-- The channels of the group of `c` (R289). -/
def group (c : Nat) : List Nat := (List.range 4).map (4 * (c / 4) + ·)

/-- Is a conversion of channel `c` at tick `u` unsettled: among the first 3 after its own excursion, or, for an excursion in
its group, from that excursion's beginning on and before the 4th conversion after it (the 40th after a hard one) (R294,
R295)? (log entry 94) -/
def Vp.setl (v : Vp) (c u : Nat) : Bool :=
  (group c).any (fun d =>
    match v.adc.ovrAt.lookup d with
    | none => false
    | some (t0, t, hard) =>
      let k := if d ≠ c ∧ hard then 39 else 3
      (decide (t < u) && decide (v.convCount t u ≤ k)) || (d != c && decide (t0 ≤ u) && decide (u ≤ t)))

/-- The unsettled bit of the last of `n` conversions at tick `u`, and of the `j`th before it. -/
def Vp.setlBack (v : Vp) (c u j : Nat) : Bool := v.setl c (convBack v.adc.runs u j)

/-- A run of conversions of channel `c`, the last at tick `u`, as the channel's output (R292 to R295, R303). -/
def Vp.convs (v : Vp) (c u : Nat) (xs : List RawConv) : List Conv :=
  xs.mapIdx (fun i x => let y := v.codeOf c x; ⟨y.1, y.2, v.setlBack c u (xs.length - 1 - i)⟩)

/-- Runs of raw conversions, the last 14 ADC clocks old, as the samples that the trigger units and records take (R315); a
removed channel gives its held code (R313, R325). -/
def Vp.rawSmps (v : Vp) (raw : List (Nat × List RawConv)) : List (Nat × List Smp) :=
  raw.map (fun p => (p.1,
    if v.isRemoved 8 p.1 then
      p.2.map (fun _ => ⟨((v.adc.held.lookup p.1).getD ⟨0, false, 0, 0⟩).code, false, false, false⟩)
    else (v.convs p.1 (v.up - 28) p.2).map (fun x => ⟨x.code, x.ovr, x.setl, false⟩)))

/-- An over-range conversion of channel `c`, 14 ADC clocks after its sample instant (R293, R295): it counts for the frame
that its sample instant lies in (R296). -/
def Vp.overRange (v : Vp) (c : Nat) (hard : Bool) : Vp :=
  let t := v.up - 28
  let (t0, h) := match v.adc.ovrAt.lookup c with
    | some (t0, t', h') => if v.convCount t' t ≤ 1 then (t0, hard || h') else (t, hard)
    | none => (t, hard)
  let v := { v with adc := { v.adc with ovrAt := sput c (t0, t, h) v.adc.ovrAt } }
  let v := if t ≤ v.adc.frameUp then { v with adc := { v.adc with lateOvr := putBit v.adc.lateOvr c true } }
    else { v with adc := { v.adc with frameOvr := putBit v.adc.frameOvr c true } }
  let v := (v.setBit Reg.ADC_OVR_STICKY c true).adcInt 0
  if hard then (v.setBit Reg.ADC_OVR_STICKY (16 + c) true).adcInt 1 else v

/-- The latest conversion of a channel as `ADC_CH_LAST` shows it (log entry 95). -/
def Vp.setLast (v : Vp) (c : Nat) (code : Int) (ovr setl : Bool) : Vp :=
  v.setReg (Reg.ADC_CH_LAST c)
    (w32 (code14 code + b2n ovr * 2 ^ 14 + b2n setl * 2 ^ 15 + v.sliceOf c * 2 ^ 16))

/-- The pin of an enabled channel goes over range, above or below (R293). -/
def Vp.adcOverRange (v : Vp) (c : Nat) (high hard : Bool) : Vp :=
  if !v.chServed c || v.calAllRun then v
  else
    let inv := v.bit (Reg.ADC_CH_CFG c) 2
    let code := (adcCode 0 32768 inv (if high then 8703 else -8704) true).1
    let v := v.overRange c hard
    v.setLast c code true (v.setl c (v.up - 28))

/-! ### Results (R296, R297) -/

/-- A mean rounded to nearest, halves away from zero (R296) (log entry 95). -/
def meanAway (sum : Int) (n : Nat) : Int :=
  if sum < 0 then -((2 * (-sum) + n) / (2 * n : Nat)) else (2 * sum + n) / (2 * n : Nat)

/-- The frame that ends at the boundary which now stands: its conversions form codes with the factors that then hold
(R296). -/
def Vp.frameCodes (v : Vp) (frames : List AdcFrame) : Vp :=
  { v with adc := { v.adc with
    frame := frames.map (fun f => ⟨f.ch, f.raws.map (v.codeOf f.ch), v.up - f.age⟩)
    lateOvr := v.adc.frameOvr, frameOvr := 0, frameUp := v.up } }

/-- The codes of a frame summed up. -/
def FrameCodes.sum (f : FrameCodes) : Int := f.codes.foldl (fun a x => a + x.1) 0

/-- Was a conversion of the frame over range (R296)? -/
def Vp.frameOver (v : Vp) (f : FrameCodes) : Bool := f.codes.any (fun x => x.2) || v.adc.lateOvr.testBit f.ch

/-- The conversions of channel `c` in the frame that ended last, unless there are none (R296). -/
def Vp.frameOf (v : Vp) (c : Nat) : Option FrameCodes :=
  if v.calAllRun || !v.chServed c then none else v.adc.frame.find? (fun f => f.ch == c && !f.codes.isEmpty)

/-- The result of one channel 128 ns after B_n (R296, R297) (log entry 95). -/
def Vp.resultOf (v : Vp) (c : Nat) : Vp :=
  if !v.chOn c then v
  else
    let r := Reg.ADC_CH_RES c
    let v := match v.frameOf c with
      | none => ((v.setBit r 14 false).setBit r 15 false)
      | some f =>
        let n := f.codes.length
        let last := f.codes.getLastD (0, false)
        let ovr := v.frameOver f
        let code := if v.bit (Reg.ADC_CH_CFG c) 0 then last.1 else meanAway f.sum n
        let v := v.setFld r 0 14 (code14 code)
        let v := (v.setBit r 14 ovr).setBit r 15 ((List.range n).any (v.setlBack c f.at_))
        let v := if ovr && !v.adc.lateOvr.testBit c then (v.setBit Reg.ADC_OVR_STICKY c true).adcInt 0 else v
        v.setLast c last.1 last.2 (v.setl c f.at_)
    let v := v.setFld r 16 8 v.time.prevNo
    let v := if v.bit Reg.ADC_RES_NEW c then (v.setBit Reg.ADC_RES_OVRUN c true).adcInt 8 else v
    v.setBit Reg.ADC_RES_NEW c true

/-- The results of the frame that ended (R296). -/
def Vp.adcResults (v : Vp) : Vp := (List.range 16).foldl Vp.resultOf v

/-- A channel as a loop engine sees it: the code and over-range bit of its latest conversion, and the sum and number of the
conversions since the last latch (R235). -/
def ainSum (xs : List (Int × Bool)) : AinSample :=
  let last := xs.getLastD (0, false)
  ⟨last.1, last.2, xs.foldl (fun a x => a + x.1) 0, xs.length⟩

/-- The analogue inputs as the loop engines take them, from the conversions of each channel since the last latch: a removed
channel, and every channel while all slices calibrate, holds its last values with its over-range bit clear (R300, R313), and
so does a channel that made no conversion, whose mean is then that of none (log entry 9). -/
def Vp.ainSeen (v : Vp) (ain : List (List RawConv)) : List AinSample :=
  ain.mapIdx (fun c xs =>
    let old := match v.adc.held.lookup c with
      | some y => { y with ovr := false }
      | none => ⟨0, false, 0, 0⟩
    if v.calAllRun || v.isRemoved 8 c || !v.chServed c then old
    else if xs.isEmpty then { old with sum := 0, n := 0 }
    else ainSum (xs.map (v.codeOf c)))

/-- The values seen are kept. -/
def Vp.ainKeep (v : Vp) (ain : List AinSample) : Vp :=
  { v with adc := { v.adc with
    held := (List.range ain.length).foldl (fun h c => sput c (ain.getD c ⟨0, false, 0, 0⟩) h) v.adc.held } }

/-! ### Calibration (R300 to R306) -/

/-- The calibrator's own state. -/
def Vp.setCal (v : Vp) (k : CalKind) (s : Nat) (busy : Bool) : Vp :=
  { v with adc := { v.adc with kind := k, slice := s, busy := busy } }

/-- The slice that makes the injected conversion pending for a channel: the one that served it at the request (R298). -/
def Vp.injFrom (v : Vp) (c : Nat) : Nat := (v.adc.injSlice.lookup c).getD (v.sliceOf c)

/-- Is an injected conversion pending on a slice (R305)? -/
def Vp.injOn (v : Vp) (s : Nat) : Bool :=
  (List.range 16).any (fun c => v.bit Reg.ADC_INJ_PEND c && v.injFrom c == s)

/-- A slice starts its calibration, or waits for the injected conversion pending on it (R305). -/
def Vp.calStart (v : Vp) (k : CalKind) (s : Nat) : Vp :=
  if v.injOn s then
    { (v.setCal k s false) with adc := { (v.setCal k s false).adc with waitAt := some v.up } }
  else v.setCal k s true

/-- The wait is over: it is counted, the longest kept, and the calibration starts (R305). -/
def Vp.calWaitEnd (v : Vp) : Vp :=
  match v.adc.waitAt with
  | none => v
  | some t =>
    if v.injOn v.adc.slice then v
    else
      let n := (v.up - t + 1) / 2
      let v := (v.addFld Reg.ADC_CAL_WAIT_CNT 0 16 1).adcSticky 5
      let v := if v.fld Reg.ADC_CAL_WAIT_CNT 16 8 < n then v.setFld Reg.ADC_CAL_WAIT_CNT 16 8 (min n 255) else v
      { v with adc := { v.adc with waitAt := none, busy := true } }

/-- The next slice of the order S0 to S15, MS0, MS1 from `s` on that is not removed (R300). -/
def Vp.nextAll (v : Vp) (s : Nat) : Option Nat := (List.range 18).find? (fun x => decide (s ≤ x) && !v.sliceGone x)

/-- A moon that has become free serves for good a channel of its eight whose slice has been removed (R301, R304)
(log entry 153). -/
def Vp.moonAdopt (v : Vp) (x : Nat) : Vp :=
  if v.moonFree x then
    match ((List.range 8).map (8 * x + ·)).find? v.sliceGone with
    | some c => { v with adc := { v.adc with onMoon := putBit v.adc.onMoon c true } }
    | none => v
  else v

/-- The handover of moon `x` is given up; where `c` is a channel that the moon serves, it goes back to its own slice. -/
def Vp.moonDrop (v : Vp) (x c : Nat) : Vp :=
  { v with adc := { v.adc with ho := sdel x v.adc.ho, onMoon := putBit v.adc.onMoon c false
                               next := if v.adc.next.any (fun (p : Nat × Option Nat) => p.1 == c) then none else v.adc.next } }

/-- All slices are calibrated (R300), and no channel converts: a handover or a calibration under way is given up, its channel
with its slice (log entry 93). -/
def Vp.calAll (v : Vp) : Vp :=
  let keep := (List.range 16).foldl (fun b c =>
    if v.adc.onMoon.testBit c && v.sliceGone c then putBit b c true else b) 0
  let v := { v with adc := { v.adc with ho := [], onMoon := keep, waitAt := none, next := none } }
  let v := (v.setBit Reg.ADC_CAL_STAT 1 false).convStop
  match v.nextAll 0 with
  | some s => (v.calStart .all s).adcSync
  | none => v

/-- The calibrator leaves slice `s`. -/
def Vp.calLeave (v : Vp) (s : Nat) : Vp :=
  if v.adc.slice = s ∧ v.adc.kind ≠ .all then { (v.setCal .none 31 false) with
    adc := { (v.setCal .none 31 false).adc with waitAt := none } } else v

/-- A slice is removed (R301, R304): its moon, where it is there and serves no other channel, serves the channel for good; a
removed moon's channel goes back to its own slice (log entry 153). -/
def Vp.sliceOut (v : Vp) (s : Nat) : Vp :=
  let v := { v with adc := { v.adc with removed := putBit v.adc.removed s true, again := v.adc.again.filter (· != s)
                                        next := if v.adc.next.any (fun (p : Nat × Option Nat) => p.1 == s) then none else v.adc.next } }
  let v := (v.adcSticky 3).calLeave s
  if s < 16 then
    let x := moonOf s
    let mine := v.moonCh x == s && !v.sliceGone (16 + x)
    let v := if mine then { v with adc := { v.adc with ho := sdel x v.adc.ho, onMoon := putBit v.adc.onMoon s true } } else v
    v.moonAdopt x
  else
    let c := v.moonCh (s - 16)
    if c < 16 then (v.moonDrop (s - 16) c).calLeave c else v

/-- A slice is removed, which is an uncorrected-contained fault (R301, R304, R313). -/
def Vp.dropSlice (v : Vp) (s : Nat) : Vp := (v.sliceOut s).raise 8 (0x10 + s) 5 unc (Reg.ADC_SL_STAT s)

/-- After the start-up calibration a moon slice that failed is removed, and a channel slice without valid factors whose moon
can serve its channel; one whose moon cannot stays in service (R301) (log entry 153). -/
def Vp.startupRemovals (v : Vp) : Vp :=
  let bad := fun (v : Vp) (s : Nat) => !v.bit (Reg.ADC_SL_STAT s) 2
  let v := ([16, 17].filter (bad v)).foldl Vp.dropSlice v
  ((List.range 16).filter (bad v)).foldl (fun v s => if v.moonFree (moonOf s) then v.dropSlice s else v) v

/-- The handover of channel `ch` to its moon, or back, begins (R303). -/
def Vp.hoStart (v : Vp) (ch : Nat) (back : Bool) : Vp :=
  { v with adc := { v.adc with ho := sput (moonOf ch) ⟨ch, 1, back⟩ v.adc.ho } }

/-- The order of a rotation pass (R302). -/
def rotOrder : List Nat := [0, 8, 1, 9, 2, 10, 3, 11, 4, 12, 5, 13, 6, 14, 7, 15, 16, 17]

/-- The calibration of slice `s` ends with the factors found (R301). -/
def Vp.takeFactors (v : Vp) (s : Nat) (ofs : Int) (gain : Nat) : Vp :=
  let st := Reg.ADC_SL_STAT s
  let v := (v.addFld st 16 16 1).setReg (Reg.ADC_SL_CAL_AT s) (w32 v.frameNo)
  if ofs.natAbs ≤ 4096 ∧ 0x7000 ≤ gain ∧ gain ≤ 0x9000 then
    ((v.setReg (Reg.ADC_SL_OFS s) (w32 (twos 16 ofs))).setReg (Reg.ADC_SL_GAIN s) (w32 gain)).setBit st 2 true
  else ((v.adcSticky 1).adcInt 6).raise 8 (0x10 + s) 3 cor st

/-- A channel slice that has been calibrated behind its moon takes its channel back (R303). -/
def Vp.backIfMoon (v : Vp) (s : Nat) : Vp :=
  if s < 16 ∧ v.adc.onMoon.testBit s ∧ !v.sliceGone s then v.hoStart s true else v

/-- May the channel slice `s` be calibrated through its moon: its channel is enabled, and the moon is there and serves
no other channel for good (R302)? -/
def Vp.viaMoon (v : Vp) (s : Nat) : Bool :=
  decide (s < 16) && v.chOn s && !v.sliceGone (16 + moonOf s) && !v.moonPerm (moonOf s)

/-- The steps from `step` on that name removed slices, or a moon that serves for good, take no time (R302). -/
def Vp.skipSteps (v : Vp) : Nat → Nat → Nat
  | 0, st => st
  | n + 1, st =>
    let s := rotOrder.getD st 31
    if st < 18 ∧ (v.sliceGone s ∨ (16 ≤ s ∧ v.moonPerm (s - 16))) then v.skipSteps n (st + 1) else st

/-- The rotation runs: it is enabled, in normal mode, after the start-up calibration (R302, R307). -/
def Vp.rotOn (v : Vp) : Bool := v.bit Reg.ADC_MODE 1 && !v.lp && v.adcDone

/-- A pass whose last step is over is counted, and the next begins with the first step (R302). -/
def Vp.passEnd (v : Vp) : Vp :=
  if v.adc.kind == .none && v.adc.rotating && v.adc.again.isEmpty && decide (18 ≤ v.skipSteps 18 v.adc.step) then
    ({ v with adc := { v.adc with step := 0 } }).addFld Reg.ADC_ROT_STAT 22 10 1
  else v

/-- The slice of the step made ready, at its start: the calibrator is free, and the channel is on its moon where the slice is
calibrated through it (R302, R303). When the rotation has been paused meanwhile, the moon gives the channel back (log entry
154). -/
def Vp.stepStart (v : Vp) : Vp :=
  match v.adc.next with
  | none => v
  | some (s, st) =>
    if v.adc.kind != .none || (v.viaMoon s && !v.adc.onMoon.testBit s && v.rotOn) then v
    else
      let v := { v with adc := { v.adc with next := none } }
      if v.rotOn then
        let v := match st with
          | some n => { v with adc := { v.adc with step := n + 1, rotating := true } }
          | none => { v with adc := { v.adc with again := v.adc.again.filter (· != s) } }
        v.calStart .rot s
      else if v.adc.onMoon.testBit s then v.backIfMoon s
      else { v with adc := { v.adc with ho := v.adc.ho.filter (fun p => p.2.ch != s) } }

/-- A step is made ready: the moon begins to take the channel over where the slice is calibrated through it; it starts at once
where nothing stands before it (R302, R303). -/
def Vp.stepReady (v : Vp) (s : Nat) (st : Option Nat) : Vp :=
  let v := { v with adc := { v.adc with next := some (s, st) } }
  if v.viaMoon s ∧ !v.adc.onMoon.testBit s then v.hoStart s false else v.stepStart

/-- Can the calibration of slice `s` be prepared: its moon is free for it, or serves its channel, or takes no part in it; a
moon is calibrated while it serves no channel (R302)? -/
def Vp.canReady (v : Vp) (s : Nat) : Bool :=
  if 16 ≤ s then (v.hoOf (s - 16)).isNone && v.moonCh (s - 16) == 31
  else !v.viaMoon s || (v.hoOf (moonOf s)).isNone && (v.adc.onMoon.testBit s || v.moonFree (moonOf s))

/-- The next step of the rotation: a slice to be calibrated again before the step of the order (R302, R304). While the
calibrator is at a slice the step is made ready, so that it starts as that calibration ends; a step of the next pass is not
made ready before a pause (log entry 154). -/
def Vp.rotationNext (v : Vp) : Vp :=
  if !v.rotOn || v.adc.next.isSome || !(v.adc.kind == .none || v.adc.kind == .rot) then v
  else
    match v.adc.again.filter (· != v.adc.slice) with
    | s :: _ => if v.canReady s then v.stepReady s none else v
    | [] =>
      let st := v.skipSteps 18 v.adc.step
      let wraps := decide (18 ≤ st)
      let st := if wraps then v.skipSteps 18 0 else st
      if 18 ≤ st ∨ (wraps ∧ v.adc.kind = .rot ∧ v.fld Reg.ADC_ROT_CFG 0 16 ≠ 0) then v
      else
        let s := rotOrder.getD st 31
        if v.canReady s then v.stepReady s (some st) else v

/-- The calibrator starts the next step of the rotation order, or makes it ready (R302). -/
def Vp.rotationStep (v : Vp) : Vp := v.rotationNext.adcSync

/-- A slice's calibration ends (R300 to R306). -/
def Vp.calDone (v : Vp) (ofs : Int) (gain : Nat) : Vp :=
  if !v.adc.busy then v
  else
    let s := v.adc.slice
    let v := v.takeFactors s ofs gain
    match v.adc.kind with
    | .all =>
      match v.nextAll (s + 1) with
      | some x => (v.calStart .all x).adcSync
      | none =>
        let v := (v.setCal .none 31 false).setBit Reg.ADC_CAL_STAT 1 true
        let v := if v.adcDone then v else v.startupRemovals
        let v := { v with adcDone := true, adc := { v.adc with step := 0 } }
        let v := ((if v.lp then v else v.convFull).moonAdopt 0).moonAdopt 1
        (v.adcInt 4).adcSync
    | k =>
      let v := (v.setCal .none 31 false).backIfMoon s
      let v := if 16 ≤ s then v.moonAdopt (s - 16) else v
      if k = .one then (v.adcInt 4).adcSync
      else v.passEnd.stepStart.adcSync

/-- The calibrator takes up slice `s` (R306). -/
def Vp.calTake (v : Vp) (k : CalKind) (s : Nat) : Vp :=
  if v.viaMoon s then (if v.adc.onMoon.testBit s then v.calStart k s else (v.setCal k s false).hoStart s false)
  else v.calStart k s

/-- A handover is cancelled at the seam check (R304). -/
def Vp.seamCancel (v : Vp) (x : Nat) (h : Handover) : Vp :=
  let v := { v with adc := { v.adc with ho := sdel x v.adc.ho } }
  let v := (((v.adcSticky 2).adcInt 5).inc Reg.ADC_SEAM_CNT).raise 8 (0x10 + h.ch) 2 cor Reg.ADC_SEAM_CNT
  if !h.back then
    match v.adc.next with
    | some (s, st) =>
      if s = h.ch then
        let v := { v with adc := { v.adc with
          next := none, rotating := true
          step := match st with
            | some n => n + 1
            | none => v.adc.step } }
        ((v.moonAdopt x).passEnd.rotationNext).adcSync
      else (v.moonAdopt x).adcSync
    | none => ((v.calLeave h.ch).moonAdopt x).adcSync
  else
    let v := v.setBit (Reg.ADC_SL_STAT h.ch) 2 false
    if v.adc.failed.contains h.ch then
      (({ v with adc := { v.adc with failed := v.adc.failed.filter (· != h.ch) } }).dropSlice h.ch).adcSync
    else
      ({ v with adc := { v.adc with failed := v.adc.failed ++ [h.ch], again := v.adc.again ++ [h.ch] } }).adcSync

/-- The sum of (incoming - outgoing) over the conversions of the compare stage, each pair the raw outputs of the outgoing and
of the incoming slice (R303). -/
def Vp.compareSum (v : Vp) (h : Handover) (pairs : List (Int × Int)) : Int :=
  let moon := 16 + moonOf h.ch
  let (o, i) := if h.back then (moon, h.ch) else (h.ch, moon)
  pairs.foldl (fun a p => a + ((v.slCode i h.ch p.2 false).1 - (v.slCode o h.ch p.1 false).1)) 0

/-- A handover is done: the incoming slice serves the channel (R303). -/
def Vp.handoverDone (v : Vp) (x : Nat) (h : Handover) : Vp :=
  let v := { v with adc := { v.adc with ho := sdel x v.adc.ho, onMoon := putBit v.adc.onMoon h.ch (!h.back) } }
  if h.back then ({ v with adc := { v.adc with failed := v.adc.failed.filter (· != h.ch) } }).moonAdopt x
  else if v.adc.next.any (fun (p : Nat × Option Nat) => p.1 == h.ch) then v.stepStart
  else if v.adc.slice = h.ch then v.calStart v.adc.kind h.ch
  else v

/-- A stage of moon `x`'s handover ends (R303, R304); at the end of compare with its 256 pairs of raw outputs. -/
def Vp.handoverEnd (v : Vp) (x : Nat) (pairs : List (Int × Int)) : Vp :=
  match v.hoOf x with
  | none => v
  | some h =>
    if h.stage = 2 ∧ pairs.length ≠ 256 then v
    else if h.stage = 2 ∧ 256 * v.fld Reg.ADC_ROT_CFG 16 8 < (v.compareSum h pairs).natAbs then v.seamCancel x h
    else if h.stage < 3 then
      ({ v with adc := { v.adc with ho := sput x { h with stage := h.stage + 1 } v.adc.ho } }).adcSync
    else (v.handoverDone x h).adcSync

/-- A write of ONE to `ADC_CAL_CMD` (R306). -/
def Vp.calOne (v : Vp) (s : Nat) : Vp :=
  let bad := v.bit Reg.ADC_MODE 1 || v.adc.kind != .none || decide (18 ≤ s) || v.sliceGone s
    || (decide (16 ≤ s) && v.moonCh (s - 16) != 31) || (!v.lp && !v.canReady s)
  if bad then v.adcSticky 0
  else if v.lp then (v.calStart .one s).adcSync
  else (v.calTake .one s).adcSync

/-- A write to `ADC_CAL_CMD` (R300, R306): acted on only while the seal is open (log entry 93). -/
def Vp.calCmd (v : Vp) (w : Word) : Vp :=
  if !v.bit Reg.HOST_SEAL 0 then v
  else if Machine.bit w 0 then (if armIds.any v.armRuns then v else v.calAll)
  else if Machine.bit w 1 then v.calOne (Machine.fld w 8 5)
  else v

/-! ### Injected conversions (R298, R299) -/

/-- A request for channel `c` (R298): the slice that serves the channel makes the conversion; in the overlap of a handover
that is the slice that served when it began. -/
def Vp.injOne (v : Vp) (c : Nat) : Vp :=
  if !v.chServed c then v.adcSticky 0
  else if v.bit Reg.ADC_INJ_PEND c then v
  else if v.lp && decide (v.up < v.adc.burstEnd) then
    ((v.addFld Reg.ADC_INJ_CNT 16 16 1).adcSticky 4).adcInt 3
  else ({ v with adc := { v.adc with injSlice := sput c (v.sliceOf c) v.adc.injSlice } }).setBit Reg.ADC_INJ_PEND c true

/-- A write to `ADC_INJ_REQ` (R298). -/
def Vp.injReq (v : Vp) (w : Word) : Vp :=
  ((List.range 16).filter (Machine.bit w)).foldl Vp.injOne v

/-- An injected conversion returns, 14 ADC clocks after its sample instant (R299): the raw output of the slice that served
the channel at the request, never blended. -/
def Vp.injResult (v : Vp) (c : Nat) (raw : Int) (limit hard : Bool) : Vp :=
  if !v.bit Reg.ADC_INJ_PEND c || decide (16 ≤ c) then v
  else
    let s := v.injFrom c
    let (code, ovr) := v.slCode s c raw limit
    let setl := v.setl c (v.up - 28)
    let v := v.setReg (Reg.ADC_INJ_RES c)
      (w32 (code14 code + b2n ovr * 2 ^ 14 + b2n setl * 2 ^ 15 + 2 ^ 16 + s * 2 ^ 17))
    let (n, t) := v.frameTime (28 * v.incr + v.fld (Reg.ADC_CH_DLY c) 0 16 * 2 ^ 28)
    let v := v.setReg (Reg.ADC_INJ_TS c) (w32 (t % 2 ^ 24 + n % 64 * 2 ^ 24))
    let v := ((v.setBit Reg.ADC_INJ_PEND c false).addFld Reg.ADC_INJ_CNT 0 16 1).adcInt 2
    let v := if ovr then v.overRange c hard else v
    ({ v with adc := { v.adc with injSlice := sdel c v.adc.injSlice } }).calWaitEnd.adcSync

/-! ### Bursts and streams (R307 to R310) -/

/-- A low-power burst starts, LP_OFS after the boundary, to which the clock is brought (R307): LP_LEN conversions, 32 ns
apart. -/
def Vp.lpBurst (v : Vp) : Vp :=
  if v.lp && v.frameNo % max 1 (v.fld Reg.ADC_MODE 4 4) == 0 && !v.calAllRun then
    let v := v.frameAt (8 * v.fld Reg.ADC_MODE 18 14)
    let n := v.fld Reg.ADC_MODE 8 10
    let v := v.convStart v.up 8 n
    { v with adc := { v.adc with burstEnd := v.up + 8 * n } }
  else v

/-- A write of `ADC_MODE` takes effect: low-power mode begins or ends (R307, R308). -/
def Vp.lpChange (v : Vp) (was : Bool) : Vp :=
  if v.lp == was || v.calAllRun then v else if v.lp then v.convStop else v.convFull

/-- The size of a stream buffer (R310). -/
def Vp.strSize (v : Vp) (c : Nat) : Nat := 0x1000 * 2 ^ v.fld (Reg.ADC_STR_CFG c) 0 4

/-- A sample of a line. -/
def Conv.half (x : Conv) : Nat := code14 x.code + b2n x.ovr * 2 ^ 14 + b2n x.setl * 2 ^ 15

/-- The words of a stream line (R309). -/
def lineWords (ofs frame : Nat) (gap lp : Bool) (sidx : Nat) (xs : List Conv) : List Word :=
  let h := ofs % 2 ^ 24 + frame % 64 * 2 ^ 24 + b2n gap * 2 ^ 30 + b2n lp * 2 ^ 31 + xs.length % 32 * 2 ^ 32
    + sidx % 2 ^ 27 * 2 ^ 37
  let half := fun j => match xs[j]? with | some x => x.half | none => 0
  [w32 h, w32 (h / 2 ^ 32)] ++ (List.range 14).map (fun j => w32 (half (2 * j) + half (2 * j + 1) * 2 ^ 16))

/-- A stream line is written, or lost under STOP (R309, R310): `xs` are its conversions, whose last result came out `lag`
ticks ago, and `sidx` the number of the first (log entry 155). -/
def Vp.streamLine (v : Vp) (c lag sidx : Nat) (xs : List RawConv) : Vp :=
  if !v.chServed c || !v.bit (Reg.ADC_CH_CFG c) 1 || v.calAllRun || xs.isEmpty || decide (28 < xs.length) then v
  else
    let wp := v.fld (Reg.ADC_STR_WP c) 0 20
    let next := (wp + 64) % v.strSize c
    if v.bit (Reg.ADC_STR_CFG c) 4 && next == v.fld (Reg.ADC_STR_RP c) 0 20 then
      let v := ((v.inc (Reg.ADC_STR_LOST c)).adcSticky 6).adcInt 7
      let v := { v with adc := { v.adc with gap := putBit v.adc.gap c true } }
      v.raise 8 c 4 cor (Reg.ADC_STR_LOST c)
    else
      let u := v.up - 28 - lag
      let first := convBack v.adc.runs u (xs.length - 1)
      let (fr, ofs) := v.frameTime ((v.up - first) * v.incr)
      let ws := lineWords ofs fr (v.adc.gap.testBit c) (v.convLp u) sidx (v.convs c u xs)
      let v := { v with mem := msetWs v.mem ((v.reg (Reg.ADC_STR_BASE c)).toNat + wp) ws
                        adc := { v.adc with gap := putBit v.adc.gap c false } }
      let v := if next = 0 then v.addFld (Reg.ADC_STR_WP c) 20 12 1 else v
      v.setFld (Reg.ADC_STR_WP c) 0 20 next

end Sys2Proof.Machine
end

