-- ==== Sys2Proof/Machine/Acq.lean ====
section
/-!
DEFINITION. Records and fault location (R314 to R341): derived channels, trigger units, pools, measurements and the
locator.
-/

namespace Sys2Proof.Machine

/-- A cause of `ACQ_INT_STAT`, and a flag of `ACQ_STICKY`. -/
def Vp.acqInt (v : Vp) (i : Nat) : Vp := v.intCause 9 Reg.ACQ_INT_EN Reg.ACQ_INT_STAT i
def Vp.acqSticky (v : Vp) (i : Nat) : Vp := v.setBit Reg.ACQ_STICKY i true

/-- The words of a TS128 time (R10), fraction first. -/
def ts128 (t : Nat) : List Word := [w32 t, w32 (nsOf t), w32 (secOf t), w32 (secOf t / 2 ^ 32)]

/-! ### Derived channels (R314 to R316) -/

/-- The weight of an input, in 1/16. -/
def Vp.dcW (v : Vp) (d i : Nat) : Int := sgn 8 (v.fld (Reg.ACQ_DC_W d) (8 * i) 8)
/-- An input of a derived channel. -/
def Vp.dcIn (v : Vp) (d i : Nat) : Nat := v.fld (Reg.ACQ_DC_CFG d) (2 + 5 * i) 5
/-- OP and LAG of a derived channel. -/
def Vp.dcOp (v : Vp) (d : Nat) : Nat := v.fld (Reg.ACQ_DC_CFG d) 0 2
def Vp.dcLag (v : Vp) (d : Nat) : Nat := v.fld (Reg.ACQ_DC_CFG d) 17 4 + 1

/-- No sample. -/
def noSmp : Smp := ⟨0, false, false, false⟩

/-- A derived value clamped to 16 bits, with its bits (R315). -/
def dSmp (x : Int) (ovr setl : Bool) : Smp :=
  let y := clampI (-32768) 32767 x
  ⟨y, ovr, setl, y != x⟩

/-- Sample `i` of channel code `c` in a run of raw conversions that began with sample `start` (R314, R315, R316): the inputs
of a derived channel have lower numbers, which `n` bounds. -/
def Vp.smp (v : Vp) (raw : List (Nat × List Smp)) (start : Nat) : Nat → Nat → Nat → Smp
  | 0, _, _ => noSmp
  | n + 1, c, i =>
    if c < 16 then
      match raw.lookup c with
      | some l => l.getD i noSmp
      | none => noSmp
    else
      let d := c - 16
      let a := v.smp raw start n (v.dcIn d 0) i
      match v.dcOp d with
      | 1 =>
        let b := v.smp raw start n (v.dcIn d 1) i
        dSmp (a.val - b.val) (a.ovr || b.ovr) (a.setl || b.setl)
      | 2 =>
        if i < start + v.dcLag d then ⟨0, a.ovr, true, false⟩
        else
          let b := v.smp raw start n (v.dcIn d 0) (i - v.dcLag d)
          dSmp (a.val - b.val) (a.ovr || b.ovr) (a.setl || b.setl)
      | 3 =>
        let b := v.smp raw start n (v.dcIn d 1) i
        let e := v.smp raw start n (v.dcIn d 2) i
        dSmp (divNear 13 (v.dcW d 0 * a.val + v.dcW d 1 * b.val + v.dcW d 2 * e.val) 16)
          (a.ovr || b.ovr || e.ovr) (a.setl || b.setl || e.setl)
      | _ => noSmp

/-- The raw channel whose time-stamp a channel code takes: input A, and its input A (R315) (log entry 96). -/
def Vp.stampCh (v : Vp) : Nat → Nat → Nat
  | 0, c => c % 16
  | n + 1, c => if c < 16 then c else v.stampCh n (v.dcIn (c - 16) 0)

/-- The front-end delay of a channel code in units of 2^-32 ns (R291). -/
def Vp.chDly (v : Vp) (c : Nat) : Nat := v.fld (Reg.ADC_CH_DLY (v.stampCh 24 c)) 0 16 * 268435456

/-- Is channel `c` a derived channel that is Off (R316)? -/
def Vp.chOff (v : Vp) (c : Nat) : Bool := decide (16 ≤ c) && v.dcOp (c - 16) == 0

/-- A write of `ACQ_DC_CFG` names only raw channels and derived channels of lower number (R315). -/
def dcRefused (d : Nat) (w : Word) : Bool :=
  [0, 1, 2].any (fun i => decide (16 + d ≤ Machine.fld w (2 + 5 * i) 5))

/-- The raw channels behind a channel code. -/
def Vp.rawOf (v : Vp) : Nat → Nat → List Nat
  | 0, _ => []
  | n + 1, c =>
    if c < 16 then [c]
    else match v.dcOp (c - 16) with
      | 1 => v.rawOf n (v.dcIn (c - 16) 0) ++ v.rawOf n (v.dcIn (c - 16) 1)
      | 2 => v.rawOf n (v.dcIn (c - 16) 0)
      | 3 => [0, 1, 2].flatMap (fun i => v.rawOf n (v.dcIn (c - 16) i))
      | _ => []

/-! ### Pools (R321, R326) -/

/-- A pool's STATE. -/
def Vp.poolSt (v : Vp) (p : Nat) : Nat := v.fld (Reg.ACQ_P_STAT p) 0 3
/-- `v` with a pool's STATE set, and the pools shown in `ACQ_STAT`. -/
def Vp.setPoolSt (v : Vp) (p st : Nat) : Vp :=
  let v := v.setFld (Reg.ACQ_P_STAT p) 0 3 st
  (v.setBit Reg.ACQ_STAT p (st == 1)).setBit Reg.ACQ_STAT (16 + p) (st == 2)

/-- CH_MASK of a pool, and its channel codes in ascending order. -/
def chsOf (mask : Nat) : List Nat := (List.range 24).filter mask.testBit
/-- Bytes of one sample instant. -/
def instBytes (mask : Nat) : Nat := (chsOf mask).foldl (fun n c => n + (if c < 16 then 2 else 4)) 0
/-- STRIDE (R321). -/
def strideOf (head tail mask : Nat) : Nat := (256 + (head + tail) * instBytes mask + 63) / 64 * 64

/-- HEAD, TAIL, CH_MASK, SEG_FIRST, SEG_CNT and base of a pool. -/
def Vp.pHead (v : Vp) (p : Nat) : Nat := v.fld (Reg.ACQ_P_HEAD p) 0 20
def Vp.pTail (v : Vp) (p : Nat) : Nat := v.fld (Reg.ACQ_P_TAIL p) 0 22
def Vp.pMask (v : Vp) (p : Nat) : Nat := v.fld (Reg.ACQ_P_CH p) 0 24
def Vp.segFirst (v : Vp) (p : Nat) : Nat := v.fld (Reg.ACQ_P_SEG p) 0 10
def Vp.segCnt (v : Vp) (p : Nat) : Nat := v.fld (Reg.ACQ_P_SEG p) 16 11
def Vp.pBase (v : Vp) (p : Nat) : Nat := (v.reg (Reg.ACQ_P_BASE p)).toNat
/-- STRIDE of a pool as its registers stand. -/
def Vp.pStride (v : Vp) (p : Nat) : Nat := strideOf (v.pHead p) (v.pTail p) (v.pMask p)
/-- `ACQ_P_STRIDE` follows the registers. -/
def Vp.strideSync (v : Vp) (p : Nat) : Vp := v.setReg (Reg.ACQ_P_STRIDE p) (w32 (v.pStride p))

/-- Two ranges of numbers meet. -/
def meets (a n b m : Nat) : Bool := decide (a < b + m) && decide (b < a + n)

/-- The memory of a pool. -/
def Vp.poolMem (v : Vp) (p : Nat) : Nat × Nat := (v.pBase p, v.segCnt p * v.pStride p)
/-- Is a pool enabled? -/
def Vp.poolOn (v : Vp) (p : Nat) : Bool := v.bit (Reg.ACQ_P_CFG p) 0
/-- Is a stream enabled (R309)? -/
def Vp.strOn (v : Vp) (c : Nat) : Bool := v.bit (Reg.ADC_CH_CFG c) 1

/-- The pools. -/
def poolIds : List Nat := List.range 16

/-- Is pool `p`'s configuration refused as the write `w` of its `ACQ_P_CFG` enables it (R321)
(log entry 98)? -/
def Vp.poolRefused (v : Vp) (p : Nat) (w : Word) : Bool :=
  let (a, n) := v.poolMem p
  v.fld (Reg.ACQ_TU_CFG p) 8 4 != p
    || decide (1024 < v.segFirst p + v.segCnt p)
    || poolIds.any (fun q => q != p && v.poolOn q
        && (meets (v.segFirst p) (v.segCnt p) (v.segFirst q) (v.segCnt q) || meets a n (v.poolMem q).1 (v.poolMem q).2))
    || decide (a < 0x02000000) || decide (0x03000000 < a + n)
    || (List.range 16).any (fun c => v.strOn c && meets a n (v.reg (Reg.ADC_STR_BASE c)).toNat (v.strSize c))
    || a % 64 != 0 || v.pMask p == 0 || !(v.pMask p).testBit (Machine.fld w 2 5)
    || (chsOf (v.pMask p)).any v.chOff

/-- Is a stream's buffer refused, with its base and SIZE given (R310)? -/
def Vp.streamRefused (v : Vp) (c base size : Nat) : Bool :=
  let n := 0x1000 * 2 ^ size
  base % n != 0 || decide (base < 0x02000000) || decide (0x03000000 < base + n)
    || (List.range 16).any (fun d => d != c && v.strOn d && meets base n (v.reg (Reg.ADC_STR_BASE d)).toNat (v.strSize d))
    || poolIds.any (fun p => v.poolOn p && meets base n (v.poolMem p).1 (v.poolMem p).2)

/-- May pool `p` take segment `s` (R330)? -/
def Vp.segFree (v : Vp) (p s : Nat) : Bool :=
  if v.bit (Reg.ACQ_P_CFG p) 1 then !v.acq.heldSegs.contains s
  else !v.acq.queue.any (fun q => q.1 == p && q.2.seg == s)

/-- The segments of a pool in the order in which it tries them, after segment `s` (R330). -/
def Vp.segsAfter (v : Vp) (p s : Nat) : List Nat :=
  (List.range (v.segCnt p)).map (fun i => v.segFirst p + (s - v.segFirst p + 1 + i) % v.segCnt p)

/-- The address of a segment of a pool. -/
def Vp.segAddr (v : Vp) (p s : Nat) : Nat := v.pBase p + (s - v.segFirst p) * v.pStride p

/-- A pool takes a segment and is Armed with its head empty: header word 1 is written as 0 (R326, R330)
(log entry 98). -/
def Vp.takeSeg (v : Vp) (p s : Nat) : Vp :=
  let v := { v with mem := msetW v.mem (v.segAddr p s + 4) 0
                    acq := { v.acq with complete := v.acq.complete.filter (· != s)
                                        heldSegs := v.acq.heldSegs.filter (· != s) ++ [s] } }
  (v.setFld (Reg.ACQ_P_STAT p) 4 10 s).setPoolSt p 1

/-- A pool takes its next segment, or enters Full (R330). -/
def Vp.rearm (v : Vp) (p : Nat) : Vp :=
  match (v.segsAfter p (v.fld (Reg.ACQ_P_STAT p) 4 10)).find? (v.segFree p) with
  | some s => v.takeSeg p s
  | none => ((v.setPoolSt p 4).acqSticky 2).acqInt 3

/-- A pool that has become enabled is Armed at the boundary, in its first segment (R326) (log entry 98). -/
def Vp.poolEnable (v : Vp) (p : Nat) : Vp :=
  let own := fun (s : Nat) => decide (v.segFirst p ≤ s) && decide (s < v.segFirst p + v.segCnt p)
  let v := { v with acq := { v.acq with heldSegs := v.acq.heldSegs.filter (fun s => !own s) } }
  v.takeSeg p (v.segFirst p)

/-- A Full pool takes a segment that has become free (R330). -/
def Vp.unfull (v : Vp) (p : Nat) : Vp :=
  if v.poolSt p = 4 then
    match (v.segsAfter p (v.fld (Reg.ACQ_P_STAT p) 4 10)).find? (v.segFree p) with
    | some s => v.takeSeg p s
    | none => v
  else v

/-- A write to `ACQ_P_FREE` is refused (R340). -/
def Vp.freeRefused (v : Vp) (p : Nat) (w : Word) : Bool :=
  let s := Machine.fld w 0 10
  decide (s < v.segFirst p) || decide (v.segFirst p + v.segCnt p ≤ s) || !v.bit (Reg.ACQ_P_CFG p) 1
    || !v.acq.complete.contains s

/-- A write to `ACQ_P_FREE` (R330, R340). -/
def Vp.pFree (v : Vp) (p : Nat) (w : Word) : Vp :=
  let s := Machine.fld w 0 10
  if v.freeRefused p w then v.acqSticky 0
  else
    let v := { v with acq := { v.acq with heldSegs := v.acq.heldSegs.filter (· != s)
                                          complete := v.acq.complete.filter (· != s) } }
    v.unfull p

/-! ### Trigger units (R317 to R320) -/

/-- SRC and lead of a unit. -/
def Vp.tuSrc (v : Vp) (u : Nat) : Nat := v.fld (Reg.ACQ_TU_CFG u) 3 5
def Vp.tuLead (v : Vp) (u : Nat) : Nat := v.fld (Reg.ACQ_TU_CFG u) 8 4

/-- Is a write of `ACQ_TU_CFG` refused (R316, R319, R340)? -/
def Vp.tuRefused (v : Vp) (u : Nat) (w : Word) : Bool :=
  let lead := Machine.fld w 8 4
  let src := Machine.fld w 3 5
  Machine.fld w 1 2 == 3 || decide (24 ≤ src) || (lead != u && v.tuLead lead != lead)
    || v.chOff src

/-- A unit runs (R317). -/
def Vp.tuRuns (v : Vp) (u : Nat) : Bool :=
  v.bit (Reg.ACQ_TU_CFG u) 0 && v.poolOn (v.tuLead u) && v.bit Reg.ACQ_CFG 0 && v.launched
    && !v.isRemoved 9 u && !v.isRemoved 9 (0x10 + v.tuLead u)

/-- The group of a pool (R319). -/
def Vp.groupOf (v : Vp) (p : Nat) : List Nat := poolIds.filter (fun u => v.tuLead u == p && v.tuRuns u)

/-- A crossing by one unit: its direction, and its two samples. -/
structure Cross where
  unit : Nat
  falling : Bool
  x0 : Smp
  x1 : Smp
  deriving DecidableEq, Repr

/-- Unit `u` compares sample `x` (R317); a crossing also needs the sample before it in the run (R320). -/
def Vp.compare (v : Vp) (u : Nat) (prev : Option Smp) (x : Smp) : Vp × List Cross :=
  let lvl := sgn 16 (v.fld (Reg.ACQ_TU_LEVEL u) 0 16)
  let hys : Int := v.fld (Reg.ACQ_TU_HYST u) 0 15
  let slope := v.fld (Reg.ACQ_TU_CFG u) 1 2
  let st := Reg.ACQ_TU_STAT u
  let rise := slope != 1 && v.bit st 0 && decide (lvl ≤ x.val) && prev.isSome
  let fall := slope != 0 && v.bit st 1 && decide (x.val ≤ lvl) && prev.isSome
  let v := if rise then v.setBit st 0 false else v
  let v := if fall then v.setBit st 1 false else v
  let v := if slope != 1 && decide (x.val ≤ lvl - hys) then v.setBit st 0 true else v
  let v := if slope != 0 && decide (lvl + hys ≤ x.val) then v.setBit st 1 true else v
  let p := prev.getD x
  (v, (if rise then [⟨u, false, p, x⟩] else []) ++ (if fall then [⟨u, true, p, x⟩] else []))

/-- f of R318: the crossing of `num / den` between two samples, in 1/256 of the spacing. -/
def interp (num den : Int) : Int :=
  let f := if den < 0 then divNear 14 (256 * (-num)) (-den).toNat else divNear 14 (256 * num) den.toNat
  clampI 1 256 f

/-- tc of a crossing whose second sample is stamped `t` (R318), in units of 2^-32 ns. -/
def Vp.crossTime (v : Vp) (c : Cross) (t : Nat) : Nat :=
  let lvl := sgn 16 (v.fld (Reg.ACQ_TU_LEVEL c.unit) 0 16)
  let f := interp (lvl - c.x0.val) (c.x1.val - c.x0.val)
  let d := v.convTicks * v.incr
  (t - d) + (divNear 15 (d * f) 256).toNat

/-- A time difference in units of 2^-5 ns; the spec states no rounding (log entry 8). -/
def in5 (site : Nat) (d : Int) : Int := divAny site d 134217728

/-- The crossings of one sample instant start a record (R327, R328): `taken` samples are in the head ring, and the
instant lies `ago` ticks before now (log entry 96). -/
def Vp.openRec (v : Vp) (p taken ago : Nat) (cs : List (Cross × Nat)) (c0 : Cross × Nat) : Vp :=
  let best := cs.foldl (fun b c => if c.2 < b.2 then c else b) c0
  let clamp := cs.any (fun c => c.1.x0.ovr || c.1.x1.ovr)
  let head := v.pHead p
  let hv := min taken head
  let (fr, ofs) := v.frameTime (ago * v.incr + v.chDly (v.tuSrc p))
  let seq := (v.reg (Reg.ACQ_P_REC_CNT p)).toNat
  let seg := v.fld (Reg.ACQ_P_STAT p) 4 10
  let r : AcqRec := {
    seg := seg, seq := seq, head := head, tail := v.pTail p, mask := v.pMask p
    measCh := v.fld (Reg.ACQ_P_CFG p) 2 5, base := v.segAddr p seg, hv := hv
    hwrap := if hv = head ∧ head ≠ 0 then taken % head else 0
    trigSrc := cs.foldl (fun b c => putBit b c.1.unit true) 0, lateSrc := 0, retrig := 0
    ts := best.2, falling := best.1.falling
    uofs := cs.map (fun c => (c.1.unit, in5 16 ((c.2 : Int) - best.2)))
    frame := fr, ofs := ofs, tstate := v.timeState, align := v.bit Reg.TIME_STATE 7, clamp := clamp, short := false
    at_ := v.up - ago }
  let v := v.inc (Reg.ACQ_P_REC_CNT p)
  let v := { v with acq := { v.acq with cur := sput p r v.acq.cur } }
  let v := cs.foldl (fun v c => v.addFld (Reg.ACQ_TU_CNT c.1.unit) 0 16 1) v
  let v := if clamp then v.acqSticky 4 else v
  let v := if hv < head then v.acqInt 2 else v
  v.setPoolSt p 2

/-- A crossing in the tail of a record (R327). -/
def Vp.joinRec (v : Vp) (p : Nat) (r : AcqRec) (c : Cross) (t : Nat) : Vp :=
  if r.trigSrc.testBit c.unit || r.lateSrc.testBit c.unit then
    { v with acq := { v.acq with cur := sput p { r with retrig := min (r.retrig + 1) 0xFFFF } v.acq.cur } }
  else
    let r := { r with lateSrc := putBit r.lateSrc c.unit true, uofs := r.uofs ++ [(c.unit, in5 16 ((t : Int) - r.ts))]
                      clamp := r.clamp || c.x0.ovr || c.x1.ovr }
    let v := { v with acq := { v.acq with cur := sput p r v.acq.cur } }
    let v := if c.x0.ovr || c.x1.ovr then v.acqSticky 4 else v
    v.addFld (Reg.ACQ_TU_CNT c.unit) 0 16 1

/-- A missed trigger (R331). -/
def Vp.missed (v : Vp) (p : Nat) (c : Cross) (t : Nat) : Vp :=
  let e := v.fld Reg.ACQ_MISS_WP 0 4
  let seq := v.fld Reg.ACQ_MISS_WP 16 16
  let cause := if v.poolSt p = 4 then 1 else 0
  let v := v.setReg (Reg.ACQ_MISS_E (4 * e)) (w32 (c.unit + cause * 16 + b2n c.falling * 64 + seq * 65536))
  let v := (v.setReg (Reg.ACQ_MISS_E (4 * e + 1)) (w32 t)).setReg (Reg.ACQ_MISS_E (4 * e + 2)) (w32 (nsOf t))
  let v := v.setReg (Reg.ACQ_MISS_E (4 * e + 3)) (w32 (secOf t))
  let v := (v.setFld Reg.ACQ_MISS_WP 0 4 (e + 1)).setFld Reg.ACQ_MISS_WP 16 16 (seq + 1)
  let v := (v.inc Reg.ACQ_MISS_CNT).addFld (Reg.ACQ_TU_CNT c.unit) 16 16 1
  (v.acqSticky 1).acqInt 1

/-- The crossings of one sample instant, by the pool's STATE. A sample past the tail finds the pool Re-arming (R330, R331). -/
def Vp.crossings (v : Vp) (p taken ago : Nat) (cs : List (Cross × Nat)) : Vp :=
  match cs with
  | [] => v
  | c0 :: _ =>
    if v.poolSt p = 1 then v.openRec p taken ago cs c0
    else if v.poolSt p = 2 then
      cs.foldl (fun v c => match v.acq.cur.lookup p with
        | some r => if r.tail ≤ v.convCount r.at_ (v.up - ago) then v.missed p c.1 c.2 else v.joinRec p r c.1 c.2
        | none => v) v
    else if v.poolSt p = 0 then v
    else cs.foldl (fun v c => v.missed p c.1 c.2) v

/-- The group of pool `p` compares sample `i` of a run whose last sample, of index `last`, came out of the converter now,
14 ADC clocks after its instant. -/
def Vp.trigSample (p last lead taken : Nat) (raw : List (Nat × List Smp)) (v : Vp) (i : Nat) : Vp :=
  let ago := 28 + (last - i) * v.convTicks
  let (v, cs) := (v.groupOf p).foldl (fun (a : Vp × List (Cross × Nat)) u =>
    let src := a.1.tuSrc u
    let prev := if i = 0 then none else some (a.1.smp raw 0 24 src (i - 1))
    let (w, c) := a.1.compare u prev (a.1.smp raw 0 24 src i)
    let t := w.taiAgo ago - w.chDly src
    (w, a.2 ++ c.map (fun c => (c, w.crossTime c t)))) (v, [])
  v.crossings p (taken + (i - lead)) ago cs

/-- A run of raw conversions reaches the units of pool `p` (R317, R320, R327, R331): the first `lead` samples are the
history that derived channels and the first comparison need (none at the start of a run), and `taken` samples are in the
head ring before the first one compared (log entry 97). -/
def Vp.trigRun (v : Vp) (p lead taken : Nat) (raw : List (Nat × List Smp)) : Vp :=
  let n := raw.foldl (fun n l => max n l.2.length) 0
  let v := ((List.range (n - lead)).map (lead + ·)).foldl (Vp.trigSample p (n - 1) lead taken raw) v
  (List.range 8).foldl (fun v d =>
    if v.dcOp d = 0 ∨ n = 0 ∨ !(v.rawOf 24 (16 + d)).all (fun c => (raw.lookup c).isSome) then v
    else
      let x := v.smp raw 0 24 (16 + d) (n - 1)
      let v := v.setReg (Reg.ACQ_DC_VAL d) (w32 (twos 16 x.val + b2n x.ovr * 2 ^ 16 + b2n x.setl * 2 ^ 17 + b2n x.sat * 2 ^ 18))
      if x.sat then v.acqSticky 5 else v) v

/-! ### Records in memory (R323 to R325) -/

/-- The position of the sample of rank `i` (R323). -/
def AcqRec.pos (r : AcqRec) (i : Nat) : Nat := if i < r.hv then (if r.head = 0 then 0 else (r.hwrap + i) % r.head) else r.head + (i - r.hv)

/-- The offset of a channel's block in its segment. -/
def AcqRec.blockOfs (r : AcqRec) (c : Nat) : Nat :=
  256 + (r.head + r.tail) * instBytes (r.mask % 2 ^ c)

/-- A half or whole word of a sample, as two bytes or four (R309, R323). -/
def Smp.word (x : Smp) (derived : Bool) : Nat :=
  if derived then twos 16 x.val + b2n x.ovr * 2 ^ 16 + b2n x.setl * 2 ^ 17 + b2n x.sat * 2 ^ 18
  else code14 x.val + b2n x.ovr * 2 ^ 14 + b2n x.setl * 2 ^ 15

/-- A number stored as little-endian bytes. -/
def msetN (m : List Host.Cell) (a : Nat) : List Nat → List Host.Cell
  | [] => m
  | b :: bs => msetN (mset m a (BitVec.ofNat 8 b)) (a + 1) bs

/-- A number of `n` little-endian bytes. -/
def mgetN (m : List Host.Cell) (a : Nat) : Nat → Nat
  | 0 => 0
  | n + 1 => (mget m a).toNat + 256 * mgetN m (a + 1) n

/-- The bytes of a sample of channel code `c`. -/
def chBytes (c : Nat) : Nat := if c < 16 then 2 else 4

/-- The samples of one channel stand in the segment; positions without a valid sample hold 0 (R323). -/
def AcqRec.store (r : AcqRec) (m : List Host.Cell) (c : Nat) (xs : List Smp) : List Host.Cell :=
  let k := chBytes c
  let a := r.base + r.blockOfs c
  let m := (List.range (r.head + r.tail)).foldl (fun m i => msetN m (a + k * i) (leBytes k 0)) m
  (List.range xs.length).foldl (fun m i =>
    msetN m (a + k * r.pos i) (leBytes k ((xs.getD i noSmp).word (decide (16 ≤ c))))) m

/-- The valid samples of a channel as the segment holds them, oldest first. -/
def AcqRec.load (r : AcqRec) (m : List Host.Cell) (c : Nat) : List Int :=
  let k := chBytes c
  (List.range (r.hv + r.tv)).map (fun i =>
    sgn (if c < 16 then 14 else 16) (mgetN m (r.base + r.blockOfs c + k * r.pos i) k))

/-- The 64 words of the header (R324), with the measurements `ms` at words 24 to 33. -/
def AcqRec.header (r : AcqRec) (lead : Nat) (ms : List Nat) : List Word :=
  let uofs := (List.range 16).map (fun u => match r.uofs.lookup u with | some d => twos 32 d | none => 0x80000000)
  let m := fun i => ms.getD i 0
  [w32 (1 + lead * 2 ^ 8 + r.seg % 1024 * 2 ^ 12), w32 r.flags, w32 r.head, w32 r.tail, w32 r.hv, w32 r.tv, w32 r.hwrap,
    w32 r.mask] ++ ts128 r.ts ++ [w32 (r.trigSrc % 65536 + r.lateSrc % 65536 * 65536), w32 r.frame, w32 (r.ofs % 2 ^ 24),
    w32 (r.tstate % 8 + r.retrig % 65536 * 65536)] ++ ts128 r.tfirst ++ ts128 r.tlast
    ++ (List.range 10).map (fun i => w32 (m i)) ++ [0, 0] ++ uofs.map w32 ++ [w32 r.seq] ++ List.replicate 11 0

/-- A record becomes COMPLETE: its header is written, REC is posted, and the locator may take it (R319, R333, R335). -/
def Vp.complete (v : Vp) (p : Nat) (r : AcqRec) (ms : List Nat) : Vp :=
  let r := { r with flags := r.flags ||| 1 }
  let v := { v with mem := msetWs v.mem r.base (r.header p ms)
                    acq := { v.acq with complete := v.acq.complete.filter (· != r.seg) ++ [r.seg]
                                        lastTs := sput p r.ts v.acq.lastTs } }
  let v := (v.setReg (Reg.ACQ_P_LAST p) (w32 r.seg)).acqInt 0
  let v := v.post (.event (8 + p))
  if v.bit Reg.ACQ_LOC_CFG 0 && v.bit Reg.ACQ_CFG 0 && v.fld Reg.ACQ_LOC_CFG 2 4 == p then
    if r.flags &&& 0x1C80 = 0 ∧ r.mask.testBit (v.fld Reg.ACQ_LOC_CFG 6 5) then
      { v with acq := { v.acq with loc := v.acq.loc ++ [r] } }
    else v.setBit Reg.ACQ_LOC_STAT 5 true
  else v

/-- A record is written without measurements (R333, R341): what words 24 to 32 then hold is not stated (log entry 9). -/
def Vp.unmeasuredRec (v : Vp) (p : Nat) (r : AcqRec) : Vp :=
  let ms := [16, 16, 17, 24, 24, 32, 32, 17, 22].mapIdx (fun i n => Config.openNat 22 (v.free + i) % 2 ^ n)
  let v := { v with free := v.free + 9 }
  (((v.addFld Reg.ACQ_MQ_STAT 16 16 1).acqSticky 3).acqInt 4).complete p { r with flags := r.flags ||| 128 } ms

/-- What the recorder knows of a record, with what its conversions show of a crossfade (R325). -/
def RecFacts.seen (f : RecFacts) (raw : List (Nat × List RawConv)) : RecFacts :=
  { f with handover := f.handover || raw.any (fun p => p.2.any (fun x => x.k != 0)) }

/-- The last tail sample is taken, or a record closed early is finished (R329, R330, R333): `raw` holds the raw
conversions of the record, oldest first, after the `lead` conversions before it that derived channels need (R316)
(log entry 97). -/
def Vp.tailDone (v : Vp) (p lead : Nat) (raw : List (Nat × List Smp)) (facts : RecFacts) : Vp :=
  match v.acq.cur.lookup p with
  | none => v
  | some r =>
    let n := raw.foldl (fun n l => max n l.2.length) 0 - lead
    let tv := min (n - r.hv) r.tail
    let gap := facts.breaks.any (fun b => decide (lead < b))
    let start := fun (i : Nat) => facts.breaks.foldl (fun a b => if b ≤ i then max a b else a) 0
    if n < r.hv + 1 ∨ (!r.short ∧ tv < r.tail) then v
    else
      let chs := chsOf r.mask
      let xs := fun c => (List.range (r.hv + tv)).map (fun i => v.smp raw (start (lead + i)) 24 c (lead + i))
      let mem := chs.foldl (fun m c => r.store m c (xs c)) v.mem
      let any := fun (f : Smp → Bool) => chs.any (fun c => (xs c).any f)
      let last := v.taiAgo 28 - v.chDly (v.tuSrc p)
      let span := if gap then facts.span else (r.hv + tv - 1) * v.convTicks
      let first := last - span * v.incr
      let stepped := match v.time.stepAt with
        | some t => decide (v.up - 28 - span < t) && decide (t ≤ v.up - 28)
        | none => false
      let lost := chs.any (fun c => (v.rawOf 24 c).any (fun a => v.isRemoved 8 a))
      let flags := b2n (decide (r.hv < r.head)) * 2 + b2n (decide (tv < r.tail)) * 4 + b2n (any (·.ovr)) * 8
        + b2n (any (·.setl)) * 16 + b2n (any (·.sat)) * 32 + b2n r.clamp * 64 + b2n r.align * 256
        + b2n (r.tstate != 2) * 512 + b2n stepped * 1024 + b2n gap * 2048 + b2n facts.lp * 4096
        + b2n facts.handover * 8192 + b2n lost * 16384
      let r := { r with tv := tv, tfirst := first, tlast := last, flags := flags, spacing := v.convTicks }
      let v := { v with mem := mem, acq := { v.acq with cur := sdel p v.acq.cur } }
      let v := if v.acq.queue.length < 16 then
          let v := { v with acq := { v.acq with queue := v.acq.queue ++ [(p, r)] } }
          v.setFld Reg.ACQ_MQ_STAT 0 5 v.acq.queue.length
        else
          v.unmeasuredRec p r
      if v.poolOn p && (v.poolSt p == 2 || v.poolSt p == 3) then (v.setPoolSt p 3).rearm p else v

/-- Records in their tail close early as low-power mode takes effect or their pool is disabled (R329) (log entry 98). -/
def Vp.closeEarly (v : Vp) (p : Nat) : Vp :=
  if v.poolSt p = 2 then
    match v.acq.cur.lookup p with
    | some r => ({ v with acq := { v.acq with cur := sput p { r with short := true } v.acq.cur } }).setPoolSt p 3
    | none => v
  else v

/-! ### Measurements (R332) -/

/-- The first rank at or after `i` at which `f` holds (log entry 99). -/
def findFrom (f : Int → Bool) : List Int → Nat → Nat → Option Nat
  | [], _, _ => none
  | x :: xs, at_, i => if i ≤ at_ ∧ f x then some at_ else findFrom f xs (at_ + 1) i

/-- The last rank of at most `i` at which the signal passes from one side to the other, as `up x y` says of two samples
that follow each other. -/
def lastPass (up : Int → Int → Bool) : List Int → Nat → Nat → Option Nat → Option Nat
  | x :: y :: xs, at_, i, b => lastPass up (y :: xs) (at_ + 1) i (if at_ + 1 ≤ i ∧ up x y then some (at_ + 1) else b)
  | _, _, _, b => b

/-- The instant, in 1/256 of the spacing, at which the signal reaches the level `num / den` at rank `i`. -/
def instant (xs : List Int) (num : Int) (den i : Nat) : Int :=
  if i = 0 then 0
  else
    let x0 := xs.getD (i - 1) 0
    let x1 := xs.getD i 0
    256 * (i - 1 : Nat) + interp (num - den * x0) (den * (x1 - x0))

/-- t90 and t10 of a rising signal at or after rank `k - 1` (R332), in 1/256 of the spacing. -/
def riseOf (xs : List Int) (val ampl : Int) (k : Nat) : Option Int :=
  let n10 := 10 * val + ampl
  let n90 := 10 * val + 9 * ampl
  match findFrom (fun x => decide (n90 ≤ 10 * x)) xs 0 (k - 1) with
  | none => none
  | some i =>
    let t90 := if i ≤ k - 1 then 256 * (i : Int) else instant xs n90 10 i
    match lastPass (fun x y => decide (10 * x < n10) && decide (n10 ≤ 10 * y)) xs 0 i none with
    | none => none
    | some j => some (t90 - instant xs n10 10 j)

/-- The upward crossings of `num / den`, each after a sample at or below `low / den` (R332), in 1/256 of the spacing. -/
def upCross (all : List Int) (num low : Int) (den : Nat) : List Int → Nat → Bool → List Int
  | [], _, _ => []
  | x :: xs, i, q =>
    if q && decide (num ≤ den * x) then instant all num den i :: upCross all num low den xs (i + 1) false
    else upCross all num low den xs (i + 1) (q || decide (den * x ≤ low))

/-- The differences of successive samples with their ranks. -/
def diffs : List Int → Nat → List (Int × Nat)
  | x :: y :: xs, i => (y - x, i + 1) :: diffs (y :: xs) (i + 1)
  | _, _ => []

/-- The steepest difference; between equal magnitudes the spec does not choose (log entry 9). -/
def steepest (ds : List (Int × Nat)) : Int × Nat :=
  match ds with
  | [] => (0, 0)
  | d :: ds => ds.foldl (fun b x =>
      if b.1.natAbs < x.1.natAbs ∨ (b.1.natAbs = x.1.natAbs ∧ Config.tieUp 17 x.1 x.2) then x else b) d

/-- Words 24 to 33 of a record (R332) (log entry 99). -/
def Vp.measureRec (v : Vp) (r : AcqRec) : List Nat :=
  let xs := r.load v.mem r.measCh
  let n := xs.length
  let peak := xs.foldl max (xs.headD 0)
  let val := xs.foldl min (xs.headD 0)
  let ampl := peak - val
  let sum := xs.foldl (· + ·) 0
  let sq := xs.foldl (fun (a : Int) x => a + x * x) 0
  let ms := 65536 * sq.toNat
  let root := isqrt (ms / max 1 n)
  let rms := if root * root * n = ms then root else root + b2n (Config.roundUp 18 ms n)
  let d := r.spacing * v.incr
  let rise := if r.falling then riseOf (xs.map (fun x => -x)) (-peak) ampl r.hv else riseOf xs val ampl r.hv
  let ups := upCross xs (32 * sum + n * ampl) (32 * sum - n * ampl) (32 * n) xs 0 false
  let period := match ups with
    | a :: b :: rest => some (in5 20 ((divAny 19 (((b :: rest).getLastD b - a) * d) (256 * (rest.length + 1)))))
    | _ => none
  let riseW := rise.map (fun t => in5 21 (divAny 22 (t * d) 256))
  let st := steepest (diffs xs 0)
  [twos 16 peak, twos 16 val, twos 17 ampl, twos 24 (divAny 23 (256 * sum) (max 1 n)), rms % 2 ^ 24,
    (match riseW with | some t => twos 32 t | none => 0xFFFFFFFF),
    (match period with | some t => twos 32 t | none => 0xFFFFFFFF),
    twos 17 st.1, r.pos st.2 % 2 ^ 22, b2n rise.isSome + 2 * b2n period.isSome]

/-- The measurement engine finishes the record at the front of its queue (R333). -/
def Vp.measDone (v : Vp) : Vp :=
  match v.acq.queue with
  | [] => v
  | (p, r) :: rest =>
    let ms := v.measureRec r
    let v := { v with acq := { v.acq with queue := rest } }
    let v := v.setFld Reg.ACQ_MQ_STAT 0 5 rest.length
    (v.complete p r ms).unfull p

/-! ### The locator (R335 to R338) -/

/-- The time of the sample of rank `i` (R334). -/
def AcqRec.time (r : AcqRec) (i : Nat) : Int :=
  (r.tfirst : Int) + (i * ((r.tlast : Int) - r.tfirst)) / (max 1 (r.hv + r.tv - 1) : Nat)

/-- One step of the search: qualified, the instant from which it runs, and the candidates found. -/
structure LocScan where
  qual : Bool
  start : Int
  found : List Int
  deriving DecidableEq, Repr

/-- The search over the samples of LOC_CH (R335): `x0` is the sample before (log entries 9, 100). -/
def Vp.locScan (v : Vp) (r : AcqRec) : List Int → Nat → Int → LocScan → LocScan
  | [], _, _, s => s
  | x :: xs, i, x0, s =>
    let lvl : Int := v.fld Reg.ACQ_LOC_LEVEL 0 15
    let hys : Int := v.fld Reg.ACQ_LOC_LEVEL 16 15
    let t := r.time i
    if t < s.start ∨ 4 ≤ s.found.length then v.locScan r xs (i + 1) x s
    else if s.qual ∧ lvl ≤ x.natAbs then
      let pos := decide (0 < x)
      let same := pos == !r.falling
      let pol := v.fld Reg.ACQ_LOC_CFG 11 2
      let f := interp ((if pos then lvl else -lvl) - x0) (x - x0)
      let tc := r.time (i - 1) + divNear 24 ((t - r.time (i - 1)) * f) 256
      let inWin := decide ((tc - r.ts) * (v.reg Reg.ACQ_LOC_VEL).toNat
        ≤ 2 * (v.reg Reg.ACQ_LOC_LEN).toNat * 65536 * 1000 * nsUnit)
      if inWin ∧ (pol = 2 ∨ (pol = 0 ∧ same) ∨ (pol = 1 ∧ !same)) then
        v.locScan r xs (i + 1) x
          ⟨false, tc + v.fld Reg.ACQ_LOC_BLANK 0 16 * 1000 * nsUnit, s.found ++ [tc]⟩
      else v.locScan r xs (i + 1) x { s with qual := false }
    else v.locScan r xs (i + 1) x { s with qual := s.qual || decide ((x.natAbs : Int) ≤ lvl - hys) }

/-- VEL times a time in units of 2^-32 ns, over 2, in m 24.8. -/
def Vp.locDist (v : Vp) (site : Nat) (d : Int) : Int := divAny site (d * (v.reg Reg.ACQ_LOC_VEL).toNat) 2199023255552000

/-- The locator finishes its search (R335, R336) (log entry 100). -/
def Vp.locDone (v : Vp) : Vp :=
  match v.acq.loc with
  | [] => v
  | r :: rest =>
    let xs := r.load v.mem (v.fld Reg.ACQ_LOC_CFG 6 5)
    let blank := v.fld Reg.ACQ_LOC_BLANK 0 16 * 1000 * nsUnit
    let s := v.locScan r xs 0 (xs.headD 0) ⟨false, r.ts + blank, []⟩
    let v := { v with acq := { v.acq with loc := rest } }
    let v := (List.range s.found.length).foldl (fun v i =>
      let d := s.found.getD i 0 - r.ts
      (v.setReg (Reg.ACQ_LOC_CAND i) (w32 (twos 32 (in5 25 d)))).setReg (Reg.ACQ_LOC_DIST i)
        (w32 (twos 32 (v.locDist 26 d)))) v
    let v := (List.range 4).foldl (fun v i => v.setReg (Reg.ACQ_LOC_T1 i) ((ts128 r.ts).getD i 0)) v
    let short := decide (((r.tlast : Int) - r.ts) * (v.reg Reg.ACQ_LOC_VEL).toNat
      < 2 * (v.reg Reg.ACQ_LOC_LEN).toNat * 65536 * 1000 * nsUnit)
    let st := Reg.ACQ_LOC_STAT
    let v := ((v.setBit st 0 true).setFld st 1 3 s.found.length).setBit st 4 short
    let v := ((v.setBit st 5 false).setBit st 12 (r.flags.testBit 9)).setFld st 16 16 r.seq
    v.acqInt 5

/-- t_A of R337: t1 of the latest single-ended run, or the TS of the pool's latest COMPLETE record; with none the spec
states no value (log entry 9) (log entry 100). -/
def Vp.tA (v : Vp) : Nat × Vp :=
  if v.bit Reg.ACQ_LOC_CFG 0 && v.bit Reg.ACQ_LOC_STAT 0 then
    let w := fun i => (v.reg (Reg.ACQ_LOC_T1 i)).toNat
    ((w 2 + w 3 * 2 ^ 32) * 1000000000 * nsUnit + w 1 * nsUnit + w 0, v)
  else match v.acq.lastTs.lookup (v.fld Reg.ACQ_LOC_CFG 2 4) with
    | some t => if v.bit Reg.ACQ_LOC_CFG 0 then (Config.openNat 3 v.free, { v with free := v.free + 1 }) else (t, v)
    | none => (Config.openNat 3 v.free, { v with free := v.free + 1 })

/-- The highest word of the remote arrival time is written (R337, R338): one rejected is reported in ACQ alone
(log entries 9, 151). -/
def Vp.locRemote (v : Vp) (w : Word) : Vp :=
  let v := v.setReg (Reg.ACQ_LOC_REM 3) w
  if !v.bit Reg.ACQ_LOC_CFG 1 || !v.bit Reg.ACQ_CFG 0 then v
  else
    let q := fun i => (v.reg (Reg.ACQ_LOC_REM i)).toNat
    let st := Reg.ACQ_LOC_STAT
    if 999999999 < q 1 then (v.setBit st 8 true).acqInt 7
    else
      let tb : Nat := (q 2 + q 3 * 2 ^ 32) * 1000000000 * nsUnit + q 1 * nsUnit + q 0
      let (ta, v) := v.tA
      let len : Int := (v.reg Reg.ACQ_LOC_LEN).toNat
      let tol : Int := (v.reg Reg.ACQ_LOC_TOL).toNat
      let vel : Int := (v.reg Reg.ACQ_LOC_VEL).toNat
      let half := fun (d : Int) => d * vel + len * 281474976710656000
      -- x in units of m / (2 * 2^48 * 1000)
      let x2 := half ((ta : Int) - tb)
      let u : Int := 562949953421312000
      let out := decide (x2 < -tol * u) || decide ((len + tol) * u < x2)
      let x := divAny 27 (x2 * 256) 562949953421312000
      let fits := decide (-2147483648 ≤ x) && decide (x ≤ 2147483647)
      let v := if fits then v.setReg Reg.ACQ_LOC_DE_DIST (w32 (twos 32 x))
        else { (v.setReg Reg.ACQ_LOC_DE_DIST (w32 (Config.openNat 4 v.free))) with free := v.free + 1 }
      let near := (List.range (v.fld st 1 3)).find? (fun i =>
        v.bit st 0 && decide ((((v.reg (Reg.ACQ_LOC_DIST i)).toNat : Int) * 2199023255552000 - x2).natAbs ≤ (tol * u).toNat))
      let v := ((v.setBit st 6 (!out)).setBit st 7 out).setBit st 8 false
      let v := v.setFld st 9 3 (match near with | some i => i + 1 | none => 0)
      v.acqInt 6

end Sys2Proof.Machine
end

