-- ==== Sys2Proof/Machine/Grid.lean ====
section
/-!
DEFINITION. Grid trackers, transducer links and phasors (R342 to R359). The spec gives the tracker's equations over real
numbers and no number format: the model holds angles in units of 2^-64 turn, frequencies in 2^-64 Hz and rates in
2^-64 Hz/s, with the direction of each rounding free (log entries 8 and 10).
-/

namespace Sys2Proof.Machine

/-! ### Real functions in fixed point -/

/-- 2^96, the unit of the trigonometric functions, and 2^64, one turn. -/
def one96 : Nat := 2 ^ 96
def turn : Nat := 2 ^ 64

/-- The terms of x - x^3/3 + x^5/5 - …: `p` is the power of x (log entry 10). -/
def atanSum (x2 : Int) : Nat → Int → Nat → Int → Int
  | 0, _, _, s => s
  | n + 1, p, k, s => atanSum x2 n (-(p * x2) / (one96 : Nat)) (k + 2) (s + p / (k : Nat))

/-- arctan of a number in 0 to 1 in units of 2^-96: three halvings of the angle, then the series. -/
def atan96 (x : Nat) : Int :=
  let half := fun (t : Nat) => t * one96 / (one96 + isqrt (one96 * one96 + t * t))
  let t : Nat := half (half (half x))
  8 * atanSum ((t : Int) * t / (one96 : Nat)) 24 t 1 0

/-- The angle of a nonzero vector in units of 2^-64 turn, 0 to one turn. -/
def argTurns (y x : Int) : Int :=
  let ay := y.natAbs
  let ax := x.natAbs
  let rad := if ay ≤ ax then atan96 (ay * one96 / max 1 ax) else
    (piNum * one96 / (2 * piDen) : Nat) - atan96 (ax * one96 / max 1 ay)
  let a := divAny 28 (rad * turn * piDen) (2 * piNum * one96)
  let a := if x < 0 then (turn / 2 : Nat) - a else a
  (if y < 0 then -a else a) % (turn : Nat)

/-- Terms of the series of cosine and sine: `p` is x^k / k!. -/
def trigSum (x : Int) : Nat → Nat → Int → Int × Int → Int × Int
  | 0, _, _, s => s
  | n + 1, k, p, (c, s) =>
    let r := match k % 4 with
      | 0 => (c + p, s)
      | 1 => (c, s + p)
      | 2 => (c - p, s)
      | _ => (c, s - p)
    trigSum x n (k + 1) (p * x / ((k + 1) * one96 : Nat)) r

/-- Cosine and sine of an angle in units of 2^-64 turn, in units of 2^-96 (log entry 10). -/
def cosSin (a : Int) : Int × Int :=
  let b := (a % (turn : Nat)).toNat
  let q := b / (turn / 4)
  let x : Int := (b % (turn / 4) * 2 * piNum * one96 / (piDen * turn) : Nat)
  let (c, s) := trigSum x 48 0 (one96 : Nat) (0, 0)
  match q with
  | 0 => (c, s)
  | 1 => (-s, c)
  | 2 => (-c, -s)
  | _ => (s, -c)

/-- √3 and √2 in units of 2^-96. -/
def sqrt3 : Nat := isqrt (3 * one96 * one96)
def sqrt2 : Nat := isqrt (2 * one96 * one96)

/-- An angle wrapped into (-1/2, 1/2] turn. -/
def wrapTurn (a : Int) : Int :=
  let b := a % (turn : Nat)
  if (turn / 2 : Nat) < b then b - (turn : Nat) else b

/-! ### Transducer inputs (R342 to R345) -/

/-- A cause of `GRID_INT_STAT`, and a flag of `GRID_STICKY`. -/
def Vp.gridInt (v : Vp) (i : Nat) : Vp := v.intCause 10 Reg.GRID_INT_EN Reg.GRID_INT_STAT i
def Vp.gridSticky (v : Vp) (i : Nat) : Vp := v.setBit Reg.GRID_STICKY i true

/-- The CRC16 of a transducer word (R131, R343). -/
def tliCrc (w : Nat) : Nat := crcBytes 16 0x1021 0xFFFF (leBytes 6 (w % 2 ^ 48))

/-- An input is enabled and not removed. -/
def Vp.tliOn (v : Vp) (j : Nat) : Bool := decide (j < 8) && v.bit (Reg.GRID_TLI_CFG j) 0 && !v.isRemoved 10 (0x10 + j)

/-- An output is enabled and not removed. -/
def Vp.tloOn (v : Vp) (o : Nat) : Bool := v.bit (Reg.GRID_TLO_CFG o) 0 && !v.isRemoved 10 (0x18 + o)

/-- A word leaves on an output. -/
def Vp.tloSend (v : Vp) (o w : Nat) : Vp :=
  ({ v with grid := { v.grid with sent := sput o w v.grid.sent } }).inc (Reg.GRID_TLO_CNT o)

/-- The outputs that repeat input `j` pass the word on unchanged (R346). -/
def Vp.tliRepeat (v : Vp) (j w : Nat) : Vp :=
  [0, 1, 2, 3].foldl (fun v o =>
    if v.tloOn o && !v.bit (Reg.GRID_TLO_CFG o) 1 && v.fld (Reg.GRID_TLO_CFG o) 2 3 == j then v.tloSend o w else v) v

/-- A good word is taken (R344) (log entry 101). -/
def Vp.tliGood (v : Vp) (j w : Nat) : Vp :=
  let dly := v.fld (Reg.GRID_TLI_DLY j) 0 24
  let stamp : Int := (v.tai : Int) - dly * 268435456
  let (fr, ofs) := v.frameTime (dly * 268435456)
  let old := sget (fun _ => []) v.grid.words j
  let word : TliWord := ⟨(match old with | x :: _ => x.no + 1 | [] => 1), w / 2 ^ 32 % 256, sgn 32 w, stamp⟩
  let v := (v.setReg (Reg.GRID_TLI_VAL j) (w32 w)).setReg (Reg.GRID_TLI_TS j) (w32 (ofs % 2 ^ 24 + fr % 64 * 2 ^ 24))
  let v := v.setReg (Reg.GRID_TLI_META j) (w32 (w / 2 ^ 32 % 256 + w / 2 ^ 40 % 16 * 256 + 2 ^ 14))
  let v := v.addFld (Reg.GRID_TLI_CNT j) 0 16 1
  ({ v with grid := { v.grid with words := sput j ((word :: old).take 64) v.grid.words } }).noteWrite (0x140 + j)

/-- A complete transducer word arrives (R344). -/
def Vp.tliWord (v : Vp) (j w : Nat) : Vp :=
  if !v.tliOn j then v
  else
    let v := v.tliRepeat j w
    let seq := w / 2 ^ 32 % 256
    let src := w / 2 ^ 40 % 16
    let cfg := Reg.GRID_TLI_CFG j
    let cnt2 := Reg.GRID_TLI_CNT2 j
    if w / 2 ^ 48 % 65536 ≠ tliCrc w then (v.addFld (Reg.GRID_TLI_CNT j) 16 16 1).gridInt 6
    else if v.bit cfg 5 ∧ src ≠ v.fld cfg 1 4 then (v.addFld (Reg.GRID_TLI_CNT j) 16 16 1).gridSticky 2
    else
      let last := v.grid.lastSeq.lookup j
      if last = some seq then v.addFld cnt2 8 8 1
      else
        let v := { v with grid := { v.grid with lastSeq := sput j seq v.grid.lastSeq } }
        if w.testBit 44 then
          let v := v.addFld cnt2 16 8 1
          let m := Reg.GRID_TLI_META j
          ((v.setBit m 14 false).setBit m 12 true).setFld m 0 12 (seq + src * 256)
        else
          let v := match last with
            | some l => v.addFld cnt2 0 8 ((seq + 255 - l) % 256)
            | none => v
          v.tliGood j w

/-- A character in error discards the word under way (R342). -/
def Vp.tliCodeError (v : Vp) (j : Nat) : Vp :=
  if !v.tliOn j then v else (v.addFld (Reg.GRID_TLI_CNT j) 16 16 1).gridInt 6

/-- An input has taken no good word for 3 × PERIOD (R345). -/
def Vp.tliTimeout (v : Vp) (j : Nat) : Vp :=
  if !v.tliOn j || v.bit (Reg.GRID_TLI_META j) 13 then v
  else
    let m := Reg.GRID_TLI_META j
    let v := ((v.setBit m 13 true).setBit m 14 false).addFld (Reg.GRID_TLI_CNT2 j) 24 8 1
    (v.gridInt 5).raise 10 (0x10 + j) 2 cor m

/-! ### Sample sets (R347) -/

/-- A tracker's state, and `v` with it set. -/
def Vp.tr (v : Vp) (k : Nat) : Tracker := sget (fun _ => {}) v.grid.trackers k
def Vp.setTr (v : Vp) (k : Nat) (x : Tracker) : Vp :=
  { v with grid := { v.grid with trackers := sset (fun _ => {}) v.grid.trackers k x } }

/-- f0 in Hz, and a time of `num / den` cycles of f0. -/
def Vp.f0 (v : Vp) (k : Nat) : Nat := if v.bit (Reg.GRID_TR_CFG k) 1 then 60 else 50
def Vp.cyc (v : Vp) (k num den : Nat) : Int := (secUnit * num : Nat) / (v.f0 k * den : Nat)

/-- The input codes of a tracker (R347). -/
def Vp.trIn (v : Vp) (k i : Nat) : Nat := v.fld (Reg.GRID_TR_CFG k) (4 + 5 * i) 5

/-- An input is bad: a transducer input without a good word, or a removed channel. -/
def Vp.inBad (v : Vp) (c : Nat) : Bool :=
  if c < 16 then v.isRemoved 8 c else !(v.bit (Reg.GRID_TLI_META (c - 16)) 14)

/-- The set of the frame that ended: its time and values, and whether a sample was over range. -/
structure RawSet where
  t : Int
  a : Int
  b : Int
  c : Int
  ovr : Bool
  deriving DecidableEq, Repr

/-- The set of three ADC channels (R347): the frame means in Q1.30, at the mean time of input A's conversions. -/
def Vp.adcSet (v : Vp) (k : Nat) : Option RawSet :=
  match v.frameOf (v.trIn k 0), v.frameOf (v.trIn k 1), v.frameOf (v.trIn k 2) with
  | some a, some b, some c =>
    let mean := fun (x : FrameCodes) => meanAway x.sum x.codes.length * 131072
    let dly := v.fld (Reg.ADC_CH_DLY a.ch) 0 16 * 268435456
    let back := (2 * v.adc.frameUp - a.at_ - convBack v.adc.runs a.at_ (a.codes.length - 1)) * v.incr / 2
    some ⟨(v.time.boundary : Int) - back - dly, mean a, mean b, mean c, [a, b, c].any v.frameOver⟩
  | _, _, _ => none

/-- The words of input code `c` that no set of tracker `k` has used, newest first. -/
def Vp.unused (v : Vp) (k c : Nat) : List TliWord :=
  let done := ((v.tr k).used.lookup (c - 16)).getD 0
  (sget (fun _ => []) v.grid.words (c - 16)).takeWhile (fun w => decide (done < w.no))

/-- The newest three good words that carry one SEQ; they and the words before them count as used by the tracker (R347). -/
def Vp.tliSet (v : Vp) (k : Nat) : Option RawSet × Vp :=
  let find := fun (i s : Nat) => (v.unused k (v.trIn k i)).find? (fun w => w.seq == s)
  match (v.unused k (v.trIn k 0)).find? (fun w => (find 1 w.seq).isSome && (find 2 w.seq).isSome) with
  | none => (none, v)
  | some w =>
    let got := fun i => (find i w.seq).getD w
    let used := [0, 1, 2].foldl (fun l i => sput (v.trIn k i - 16) (got i).no l) (v.tr k).used
    (some ⟨w.stamp, w.val, (got 1).val, (got 2).val, false⟩, v.setTr k { v.tr k with used := used })

/-! ### The observer (R348 to R351) -/

/-- p of R348 as a fraction: 2π × BW (log entry 10). -/
def Vp.trP (v : Vp) (k : Nat) : Nat := v.fld (Reg.GRID_TR_BW k) 0 7 * piNum
def pDen : Nat := 2 * piDen

/-- Prediction over `d`: angle and frequency (R348). -/
def Tracker.ahead (x : Tracker) (d : Int) : Int × Int :=
  let s : Int := (secUnit : Nat)
  (x.th + divAny 29 (2 * x.w * d * s + x.acc * d * d) (2 * secUnit * secUnit), x.w + divAny 30 (x.acc * d) secUnit)

/-- |v|² × 9 in Q2.60 from 3 α and 3 β' / √3. -/
def mag9 (al be : Int) : Nat := (al * al + 3 * be * be).toNat

/-- |v| reaches MAG_MIN × `num` / 4. -/
def Vp.magAt (v : Vp) (k : Nat) (al be : Int) (num : Nat) : Bool :=
  let m := v.fld (Reg.GRID_TR_THR k) 0 16 * 65536 * num * 3
  decide (m * m ≤ 16 * mag9 al be)

/-- The correction of the observer (R348). -/
def Tracker.correct (x : Tracker) (p : Nat) (d e : Int) : Tracker :=
  let s := secUnit * pDen
  { x with th := x.th + divAny 31 (3 * p * d * e) s
           w := x.w + divAny 32 (3 * p * p * d * e) (s * pDen)
           acc := x.acc + divAny 33 ((p : Int) * p * p * d * e) (s * pDen * pDen) }

/-- ω clamped to f0 ± 15 Hz, with RANGE while it is clamped (R348). -/
def Vp.clampW (v : Vp) (k : Nat) (x : Tracker) : Vp :=
  let f : Int := (v.f0 k * turn : Nat)
  let w := clampI (f - (15 * turn : Nat)) (f + (15 * turn : Nat)) x.w
  let on := w != x.w
  let v := (v.setTr k { x with w := w }).setBit (Reg.GRID_TR_STAT k) 7 on
  if on then v.gridSticky 3 else v

/-- FREQ_V is set only in Tracking, and a change of it is a cause (R351, R358). -/
def Vp.trState (v : Vp) (k st : Nat) : Vp :=
  let r := Reg.GRID_TR_STAT k
  let v := v.setFld r 0 2 st
  let was := v.bit r 2
  let v := v.setBit r 2 (st == 2)
  if was != (st == 2) then v.gridInt 1 else v

/-- Start is entered at time `t` (R351). -/
def Vp.trStart (v : Vp) (k : Nat) (t : Int) (fromOff : Bool) : Vp :=
  let x := v.tr k
  let w := if fromOff then ((v.f0 k * turn : Nat) : Int) else x.w
  let x := { x with w := w, acc := 0, has := false, since := t, big := t, low := none, bad := none, good := none, revT := none }
  let v := (v.setTr k x).addFld (Reg.GRID_TR_CNT k) 16 8 1
  let r := Reg.GRID_TR_STAT k
  ((v.setBit r 5 false).setBit r 6 false).trState k 1

/-- Coast is entered (R351). -/
def Vp.trCoast (v : Vp) (k : Nat) (t : Int) (src : Bool) : Vp :=
  let v := v.setTr k { v.tr k with acc := 0, since := t, good := none, revT := none }
  let r := Reg.GRID_TR_STAT k
  ((((v.setBit r 5 (!src)).setBit r 6 src).trState k 3)).gridInt 4

/-- FREQ_TR is set for 2 cycles of f0, and the frequency words hold what they read at the jump, predicted to the boundary
before it (R349, R351) (log entry 101). -/
def Vp.freqTr (v : Vp) (k : Nat) (x : Tracker) : Vp :=
  let old := v.tr k
  let shown := (old.ahead (v.time.boundary - v.time.prevLen - old.t)).2
  let hold := if v.fld (Reg.GRID_TR_STAT k) 0 2 ≠ 2 then ((v.f0 k * turn : Nat) : Int)
    else if v.bit (Reg.GRID_TR_STAT k) 3 then old.heldW else shown
  (v.setTr k { x with trEnd := x.t + v.cyc k 2 1, heldW := hold }).setBit (Reg.GRID_TR_STAT k) 3 true

/-- Since when a condition has held. -/
def sinceWhen (on : Bool) (old : Option Int) (t : Int) : Option Int :=
  if on then some (old.getD t) else none

/-- Has it held for `d`? -/
def heldFor (s : Option Int) (t d : Int) : Bool := match s with | some s => decide (s + d ≤ t) | none => false

/-- One set that corrects the observer, in Start or Tracking (R348 to R350): the flags of R356 that it adds
(log entries 9, 10). -/
def Vp.observe (v : Vp) (k : Nat) (s : RawSet) : Vp × Nat :=
  let x := v.tr k
  let seq := v.bit (Reg.GRID_TR_STAT k) 4
  let al := 2 * s.a - s.b - s.c
  let be0 := s.b - s.c
  let be := if seq then -be0 else be0
  let arg := if al = 0 ∧ be = 0 then (Config.openNat 5 s.t.toNat : Int) % (turn : Nat)
    else argTurns (be * sqrt3) (al * (one96 : Nat))
  if !x.has then
    let v := v.setTr k { x with th := arg, acc := 0, t := s.t, has := true, arg := arg, al := al, be := be }
    (v.setReg (Reg.GRID_TR_ERR k) 0, 0)
  else
    let d := s.t - x.t
    let (th, w) := x.ahead d
    let e := wrapTurn (arg - th)
    let v := v.setReg (Reg.GRID_TR_ERR k) (w32 (twos 32 (divAny 34 e (2 ^ 32))))
    let opp := decide (wrapTurn (arg - x.arg) < 0)
    let revT := if opp then some (x.revT.getD x.t) else none
    let revW := if opp && x.revT.isNone then x.w else x.revW
    let big := if v.fld (Reg.GRID_TR_THR k) 16 16 * 2 ^ 48 < e.natAbs then s.t else x.big
    let y := { x with t := s.t, th := th, arg := arg, al := al, be := be, revT := revT, revW := revW, big := big }
    if heldFor revT s.t (v.cyc k 1 24) then
      let arg' := (-arg) % (turn : Nat)
      let y := { y with th := arg', arg := arg', acc := 0, w := revW, be := -be, revT := none }
      let v := v.freqTr k y
      let v := (v.setBit (Reg.GRID_TR_STAT k) 4 (!seq)).addFld (Reg.GRID_TR_CNT k) 8 8 1
      (v.gridInt 3, 2 ^ 5)
    else if turn / 6 < e.natAbs then
      let v := v.freqTr k { y with th := arg, acc := 0 }
      ((v.addFld (Reg.GRID_TR_CNT k) 0 8 1).gridInt 2, 2 ^ 4)
    else if v.magAt k al be 4 then (v.clampW k ({ y with w := w }.correct (v.trP k) d e), 0)
    else (v.clampW k { y with w := w }, 0)

/-- The state changes of R351 at time `t`, after the frame's set (log entry 101). -/
def Vp.trMove (v : Vp) (k : Nat) (t : Int) (bad : Bool) (set : Bool) : Vp :=
  let x := v.tr k
  let gone := [0, 1, 2].any (fun i => decide (v.trIn k i < 16) && v.isRemoved 8 (v.trIn k i))
  let low := if set then sinceWhen (!v.magAt k x.al x.be 4) x.low t else x.low
  let badS := sinceWhen bad x.bad t
  let fine := !bad && !gone && v.magAt k x.al x.be 5
  let good := if set || bad then sinceWhen fine x.good t else x.good
  let v := v.setTr k { x with low := low, bad := badS, good := good }
  let st := v.fld (Reg.GRID_TR_STAT k) 0 2
  let q := v.cyc k 1 4
  if st = 1 ∨ st = 2 then
    if gone ∨ heldFor badS t q then v.trCoast k t true
    else if heldFor low t q then v.trCoast k t false
    else if st = 1 ∧ x.since + v.cyc k 3 1 ≤ t ∧ x.big + v.cyc k 1 1 ≤ t then v.trState k 2
    else v
  else if heldFor good t q then v.trStart k t false
  else v

/-- A tracker at B_n (R347 to R351). -/
def Vp.trackerBoundary (v : Vp) (k : Nat) : Vp :=
  let r := Reg.GRID_TR_STAT k
  let now : Int := v.time.boundary
  if v.isRemoved 10 k then v
  else if !v.bit (Reg.GRID_TR_CFG k) 0 then (if v.fld r 0 2 = 0 then v else v.trState k 0)
  else if v.fld r 0 2 = 0 then v.trStart k now true
  else
    let (s, v) := if v.trIn k 0 < 16 then (v.adcSet k, v) else v.tliSet k
    let bad := [0, 1, 2].any (fun i => v.inBad (v.trIn k i))
    let v := if (v.tr k).trEnd ≤ now then v.setBit r 3 false else v
    match s with
    | none => (v.setTr k { v.tr k with gap := true }).trMove k now bad false
    | some s =>
      let x0 := v.tr k
      let skip := bad || s.ovr
      let coast := v.fld r 0 2 == 3
      let (v, fl) :=
        if skip then (v.addFld (Reg.GRID_TR_CNT k) 24 8 1, 2 ^ 3)
        else if coast then
          let x := v.tr k
          let be := if v.bit r 4 then s.c - s.b else s.b - s.c
          (v.setTr k { x with th := (x.ahead (s.t - x.t)).1, t := s.t, al := 2 * s.a - s.b - s.c, be := be }, 0)
        else v.observe k s
      let x := v.tr k
      let (th, w) := x.ahead (s.t - x.t)
      let stepped := match v.time.stepAt with
        | some t => decide (v.up < t + v.fp / 4 + 2)
        | none => false
      let flags := fl ||| (b2n (v.bit r 3) * 2 + b2n (v.fld r 0 2 != 2) * 4 + b2n bad * 8 + b2n (v.timeState != 2) * 64
        + b2n stepped * 128 + b2n s.ovr * 256 + b2n x0.gap * 512)
      let g : GSet := ⟨s.t, s.a, s.b, s.c, th, w, x.acc, flags⟩
      let keep := s.t - v.cyc k 5 1
      let v := v.setTr k { x with gap := false, sets := g :: x.sets.filter (fun q => decide (keep ≤ q.t)) }
      v.trMove k now bad (!skip)

/-! ### Publication (R346, R352) -/

/-- A number in units of 2^-96 as Q1.30. -/
def q30 (x : Int) : Word := w32 (twos 32 (sat32 (divAny 35 x (2 ^ 66))))

/-- Word `j` of a tracker is published. -/
def Vp.setGw (v : Vp) (k j : Nat) (w : Word) : Vp :=
  { v with gridWords := sset (fun _ => (0 : Word)) v.gridWords (8 * k + j) w }

/-- The words of tracker `k`, predicted to B_n (R352) (log entry 101). -/
def Vp.trackerWords (v : Vp) (k : Nat) : Vp :=
  let r := Reg.GRID_TR_STAT k
  let st := v.fld r 0 2
  if st = 0 ∨ v.isRemoved 10 k then v
  else
    let x := v.tr k
    let f0 : Int := (v.f0 k * turn : Nat)
    let (th, w) := x.ahead ((v.time.boundary : Int) - x.t)
    let ang := divAny 36 (wrapTurn th) (2 ^ 32)
    let (c, s) := cosSin th
    let (c0, s0) := cosSin x.th
    let f := if st ≠ 2 then f0 else if v.bit r 3 then x.heldW else w
    let rocof := if st ≠ 2 ∨ v.bit r 3 then 0 else x.acc
    let mag := isqrt (mag9 x.al x.be * 2 ^ 120) / 3
    let vq := divAny 37 (x.be * sqrt3 * c0 - x.al * (one96 : Nat) * s0) (3 * 2 ^ 60 * one96)
    let v := v.setReg (Reg.GRID_TR_ANG k) (w32 (twos 32 ang))
    let v := v.setReg (Reg.GRID_TR_FREQ k) (w32 (divAny 38 f (2 ^ 44)).toNat)
    let v := v.setReg (Reg.GRID_TR_ROCOF k) (w32 (twos 32 (sat32 (divAny 39 rocof (2 ^ 48)))))
    let magW := w32 (sat32 (divAny 40 mag (2 ^ 60))).toNat
    let v := v.setReg (Reg.GRID_TR_MAG k) magW
    let v := ((v.setGw k 0 (w32 (twos 32 ang))).setGw k 1 (q30 c)).setGw k 2 (q30 s)
    let v := v.setGw k 3 (w32 (twos 32 (sat32 (divAny 41 (f - f0) (16 * 2 ^ 34)))))
    let v := v.setGw k 4 (w32 (twos 32 (sat32 (divAny 42 rocof (64 * 2 ^ 34)))))
    let v := (v.setGw k 5 magW).setGw k 6 (w32 (twos 32 (sat32 (divAny 43 vq (2 ^ 36)))))
    v.setGw k 7 (w32 (twos 32 (sat32 x.neg)))

/-- The word that an output in MODE 1 sends (R343, R346). -/
def Vp.tloWord (v : Vp) (o : Nat) : Nat :=
  let c := Reg.GRID_TLO_CFG o
  let k := v.fld c 5 2
  let r := Reg.GRID_TR_STAT k
  let err := !v.bit r 2 || v.fld r 0 2 == 3 || v.isRemoved 10 k
  let w := (sget (fun _ => (0 : Word)) v.gridWords (8 * k + v.fld c 7 3)).toNat + v.frameNo % 256 * 2 ^ 32
    + v.fld c 10 4 * 2 ^ 40 + b2n err * 2 ^ 44
  w + tliCrc w * 2 ^ 48

/-- At B_n + 0.50 µs each tracker publishes its words, and MODE 1 outputs send one (R346, R352). -/
def Vp.trackerPublish (v : Vp) : Vp :=
  if !v.launched then v
  else
    let v := [0, 1, 2, 3].foldl Vp.trackerWords v
    [0, 1, 2, 3].foldl (fun v o =>
      if v.tloOn o && v.bit (Reg.GRID_TLO_CFG o) 1 then v.tloSend o (v.tloWord o) else v) v

/-! ### Phasors (R353 to R356) -/

/-- Fs (R353); 0 for a refused RATE. -/
def fsOf (sixty : Bool) (rate : Nat) : Nat :=
  (if sixty then [10, 12, 15, 20, 30, 60, 120] else [10, 25, 50, 100, 200]).getD rate 0

/-- A complex number in fixed point. -/
structure Cx where
  re : Int
  im : Int
  deriving DecidableEq, Repr

def Cx.add (a b : Cx) : Cx := ⟨a.re + b.re, a.im + b.im⟩
/-- A product with a factor in units of 2^-96. -/
def Cx.mul96 (a b : Cx) : Cx :=
  ⟨divAny 44 (a.re * b.re - a.im * b.im) one96, divAny 45 (a.re * b.im + a.im * b.re) one96⟩

/-- A component in Q1.30 from units of 2^-64 of Q1.30. -/
def Cx.words (a : Cx) : List Word :=
  let q := fun (x : Int) => w32 (twos 32 (sat32 (divAny 46 x turn)))
  [q a.re, q a.im]

/-- The set at or before `t` that predicts the tracker to it. -/
def setAt (ss : List GSet) (t : Int) : Option GSet := ss.find? (fun s => decide (s.t ≤ t))

/-- The phasor of one input at `tr` (R354), in units of 2^-64 of Q1.30: `h` is the half window, `rot` the rotation at the
end (log entry 10). -/
def phasor (ss : List GSet) (get : GSet → Int) (tr h : Int) (tri : Bool) (rot : Cx) : Option Cx :=
  let (num, den) := ss.foldl (fun (a : Cx × Int) s =>
    let dt : Int := (s.t - tr).natAbs
    if h < dt then a
    else
      let w := if tri then h - dt else h
      let (c, n) := cosSin s.th
      (a.1.add ⟨w * get s * c, -(w * get s * n)⟩, a.2 + w)) (⟨0, 0⟩, 0)
  if den ≤ 0 then none
  else
    let sc := fun (x : Int) => divAny 47 (x * sqrt2) (den.toNat * one96 * 2 ^ 32)
    some (({ re := sc num.re, im := sc num.im : Cx }).mul96 rot)

/-- The operator of 120 degrees, and its square, in units of 2^-96. -/
def op120 : Cx := ⟨-(one96 / 2 : Nat), (sqrt3 / 2 : Nat)⟩
def op240 : Cx := ⟨-(one96 / 2 : Nat), -((sqrt3 / 2 : Nat) : Int)⟩

/-- A third of a sum. -/
def Cx.third (a : Cx) : Cx := ⟨divAny 48 a.re 3, divAny 49 a.im 3⟩

/-- The entry of tracker `k` for t_r = S + m / Fs is written to the queue, or lost (R353 to R356)
(log entries 9, 101). -/
def Vp.phasorEntry (v : Vp) (k sec m : Nat) : Vp :=
  let cfg := Reg.GRID_TR_CFG k
  let fs := fsOf (v.bit cfg 1) (v.fld cfg 20 3)
  if 4 ≤ k ∨ !v.bit cfg 0 ∨ !v.bit cfg 3 ∨ v.isRemoved 10 k ∨ fs ≤ m then v
  else
    let x := v.tr k
    let tr : Int := (sec * secUnit + m * secUnit / fs : Nat)
    let held := b2n (v.bit (Reg.GRID_TR_STAT k) 3) * 2 + b2n (v.fld (Reg.GRID_TR_STAT k) 0 2 != 2) * 4
    let s0 := (setAt x.sets tr).getD
      ⟨x.t, 0, 0, 0, x.th, x.w, x.acc, held + b2n (v.timeState != 2) * 64 + 512⟩
    let d := tr - s0.t
    let (th, w) := ({ th := s0.th, w := s0.w, acc := s0.acc : Tracker }).ahead d
    let win := v.bit cfg 2
    let cycle : Int := divAny 50 ((secUnit * turn : Nat) : Int) (max 1 w.toNat)
    let h := if win then cycle / 2 else cycle
    let ss := x.sets.filter (fun s => decide ((s.t - tr).natAbs ≤ h.toNat))
    let base : Int := (v.f0 k * m * turn / fs : Nat)
    let (rc, rs) := cosSin (th - base)
    let rot : Cx := ⟨rc, rs⟩
    let ph := fun get => phasor ss get tr h (!win) rot
    let flags := ss.foldl (fun f s => f ||| s.flags) (s0.flags &&& 0x3FE)
    let flags := (flags &&& 0x3FE) ||| b2n (s0.flags &&& 4 == 0)
    let tNs := secOf tr.toNat
    let fW := w32 (divAny 51 w (2 ^ 44)).toNat
    let rW := w32 (twos 32 (sat32 (divAny 52 s0.acc (2 ^ 48))))
    let open_ := fun i => w32 (Config.openNat 6 (v.free + i))
    let (vals, neg) := match ph (·.a), ph (·.b), ph (·.c) with
      | some a, some b, some c =>
        let pos := ((a.add (b.mul96 op120)).add (c.mul96 op240)).third
        let ng := ((a.add (b.mul96 op240)).add (c.mul96 op120)).third
        let other := if v.bit (Reg.GRID_TR_STAT k) 4 then pos else ng
        (a.words ++ b.words ++ c.words ++ pos.words ++ ng.words,
          divAny 53 ((isqrt ((other.re * other.re + other.im * other.im).toNat) : Nat) : Int) turn)
      | _, _, _ => ((List.range 10).map open_, x.neg)
    let e := [w32 (k + b2n win * 4 + flags % 1024 * 16 + m % 65536 * 65536), w32 tNs, w32 (nsOf tr.toNat), w32 tr.toNat,
      fW, rW] ++ vals
    let v := { v.setTr k { x with neg := neg } with free := v.free + 10 }
    if 32 ≤ v.grid.pq.length then
      ((v.addFld Reg.GRID_PQ_STAT 16 16 1).gridSticky 1).gridInt 7 |>.raise 10 k 3 cor Reg.GRID_PQ_STAT
    else
      let v := { v with grid := { v.grid with pq := v.grid.pq ++ [e] } }
      (v.setFld Reg.GRID_PQ_STAT 0 6 v.grid.pq.length).gridInt 0

/-- A read of `GRID_PQ0` pops the head entry and latches the rest (R358); with none waiting the spec states no value (log
entry 9). -/
def Vp.pqPop (v : Vp) : Vp :=
  match v.grid.pq with
  | [] => { v with lastRead := w32 (Config.openNat 7 v.free), free := v.free + 1 }
  | e :: r =>
    let v := { v with grid := { v.grid with pq := r }, lastRead := e.getD 0 0 }
    let v := (List.range 16).foldl (fun v i => v.setReg (Reg.GRID_PQ i) (e.getD i 0)) v
    v.setFld Reg.GRID_PQ_STAT 0 6 r.length

/-- Is a write of `GRID_TR_CFG` refused (R347, R353, R357)? -/
def Vp.trRefused (v : Vp) (k : Nat) (w : Word) : Bool :=
  let i := [4, 9, 14].map (fun lo => Machine.fld w lo 5)
  let mixed := i.any (fun c => decide (c < 16)) && i.any (fun c => decide (16 ≤ c))
  let fixed := fun (x : Word) => (Machine.bit x 1, Machine.fld x 4 15, Machine.fld x 20 3)
  i.any (fun c => decide (24 ≤ c)) || mixed || fsOf (Machine.bit w 1) (Machine.fld w 20 3) == 0
    || (v.bit (Reg.GRID_TR_CFG k) 0 && fixed w != fixed (v.reg (Reg.GRID_TR_CFG k)))

end Sys2Proof.Machine
end

