-- ==== Sys2Proof/Machine/Peer.lean ====
section
/-!
DEFINITION. The pair: forming it (R417, R418), the exchange (R419 to R422), the one acknowledged set (R423, R424),
digests, void records and snapshots (R425 to R427), discarded messages (R428), partner loss and takeover (R429 to R431)
and joining (R432).
-/

namespace Sys2Proof.Machine

/-! ### Flags, faults and messages -/

/-- A flag of `PEER_STICKY` (R434). -/
def Vp.peerSticky (v : Vp) (i : Nat) : Vp := v.setBit Reg.PEER_STICKY i true

/-- Conditions of R435 found together. -/
def Vp.peerFaults (v : Vp) (cs : List (Nat × Nat × Nat)) : Vp :=
  v.raiseAll 12 0xFF (cs.map (fun c => Cond.own 12 c.1 c.2.1 c.2.2))

/-- This VP is the standby of a working pair. -/
def Vp.standby (v : Vp) : Bool := v.pairMode && !v.active

/-- May a message to the partner leave? -/
def Vp.peerTx (v : Vp) : Bool := v.paired && !v.txOff && !v.peer.failed

/-- A message of which a block stood in a missing place is discarded whole (R428) (log entry 87). -/
def Vp.gapped (v : Vp) (gap : Bool) (f : Vp → Vp) : Vp :=
  if !v.paired then v else if gap then v.peerSticky 7 else f v

/-! ### Forming (R417, R418) -/

/-- The settings of the pair digest, in order, a setting wider than a word as its words, the lowest first
(log entry 84). -/
def Vp.digestWords (v : Vp) : List Nat :=
  [v.chip, v.fld Reg.TIME_FRAME_CFG 0 4, (v.reg Reg.TIME_EPOCH0).toNat, (v.reg Reg.TIME_EPOCH1).toNat,
    v.fld Reg.TIME_SLEAD 0 12]
    ++ armIds.map (fun k => (v.reg (Reg.TIME_APPLY k)).toNat)
    ++ [(v.reg Reg.RING_EN).toNat]
    ++ ringIds.flatMap (fun m => [v.ncell m, (v.reg (Reg.RING_ASYM m)).toNat])
    ++ armIds.flatMap (fun k => [(v.reg (Reg.ARM_CFG k)).toNat, (v.reg (Reg.ARM_RINGMAP k)).toNat,
      (v.reg (Reg.ARM_DIR_HYST k)).toNat, (v.reg (Reg.ARM_TRIM_OVR k)).toNat])
    ++ [(v.reg Reg.PEER_CFG).toNat, v.fld Reg.LANE_PEER_CFG 0 4]

/-- The pair digest (log entry 84). -/
def Vp.pairDigest (v : Vp) : Nat := crc32Words v.digestWords

/-- CFGD is sent. -/
def Vp.cfgdSend (v : Vp) : Vp :=
  if !v.peerTx then v
  else
    let d := v.pairDigest
    let v := v.setReg Reg.PEER_DIG (w32 d)
    ({ v with peer := { v.peer with cfgdOut := some (d, v.isB) } }).peerSend (.cfgd d v.isB)

/-- Once the peer lanes have trained, CFGD is sent (R417). -/
def Vp.peerTrained (v : Vp) : Vp :=
  if v.paired && v.peer.cfgdOut.isNone && [0, 1, 2, 3].all (fun i => !v.inBundle (36 + i) || v.bundleUp i)
      && v.fld Reg.LANE_PEER_CFG 0 4 != 0 then v.cfgdSend
  else v

/-- The pair does not form, or a join fails (R417, R432). -/
def Vp.pairFail (v : Vp) (own other : Nat) (same : Bool) : Vp :=
  let v := ({ v with peer := { v.peer with failed := true } }).setFld Reg.BOOT_STAT 4 4 9
  let v := (v.peerSticky 0).peerFaults [(8, unc, Reg.PEER_DIG_P)]
  v.journal 0x0A 12 0xFF 0 own other (b2n same)

/-- A CFGD arrives (R417, R418, R432). -/
def Vp.cfgdIn (v : Vp) (digest : Nat) (role gap : Bool) : Vp :=
  v.gapped gap (fun v =>
    if v.peer.failed || v.peer.cfgdIn && v.pairMode then v
    else
      let own := v.pairDigest
      let v := (v.setReg Reg.PEER_DIG_P (w32 digest)).setReg Reg.PEER_DIG (w32 own)
      let ok := own == digest % 2 ^ 32 && role != v.isB
      if v.bit Reg.PEER_STAT 4 then
        ({ v with peer := { v.peer with joining := ok } }).cfgdSend
      else
        let v := { v with peer := { v.peer with cfgdIn := true } }
        if !ok then v.pairFail own digest (role == v.isB)
        else
          match v.peer.pstIn with
          | some p =>
            if p.solo then
              (({ v with peer := { v.peer with joining := true } }).setBit Reg.PEER_STAT 2 true).setFld Reg.PEER_STAT 8 8 p.gen
            else ((v.setBit Reg.PEER_STAT 2 true).setBit Reg.PEER_STAT 1 (!v.isB)).setFld Reg.PEER_STAT 8 8 1
          | none => ((v.setBit Reg.PEER_STAT 2 true).setBit Reg.PEER_STAT 1 (!v.isB)).setFld Reg.PEER_STAT 8 8 1)

/-- No CFGD within 10 s of time ready: the VP starts solo as active, with GEN 1 (R417) (log entry 143). -/
def Vp.soloStart (v : Vp) : Vp :=
  if v.paired && v.ready && !v.peer.cfgdIn && !v.peer.failed && !v.bit Reg.PEER_STAT 2 && !v.bit Reg.PEER_STAT 4 then
    let v := ((v.setBit Reg.PEER_STAT 1 true).setBit Reg.PEER_STAT 4 true).setFld Reg.PEER_STAT 8 8 1
    { v with boot := { v.boot with soloAt := some v.up } }
  else v

/-- The generation after `g` (R418). -/
def nextGen (g : Nat) : Nat := if g % 256 = 255 then 1 else g % 256 + 1
/-- GEN. -/
def Vp.gen (v : Vp) : Nat := v.fld Reg.PEER_STAT 8 8

/-! ### Forwarding (R420) -/

/-- The partner forwards eagerly to this VP, and this VP to its partner (R420). -/
def RingSt.eagerIn (r : RingSt) : Bool := r.pstOwn
def RingSt.eagerOut (r : RingSt) : Bool := r.pst.getD true

/-- The first RFH of a list. -/
def firstRfh (rs : List Rfh) : Option Rfh := rs.find? (·.first)

/-- A forwarded report as a data block. -/
def fwdBlock (ring p frame rep : Nat) : Nat :=
  rep % 2 ^ 48 + p % 256 * 2 ^ 48 + ring % 16 * 2 ^ 56 + frame % 16 * 2 ^ 60

/-- The held report of a position is forwarded where R420 says so, once in the frame; one held through the partner is
not sent back. -/
def Vp.forward (v : Vp) (m p : Nat) : Vp :=
  let cell := 256 * m + p
  let r := v.ring m
  let lacks := match firstRfh r.rfhPeer with
    | some f => !f.held.testBit p
    | none => false
  let own := v.cf cell 8 0 2 != 0
  let b := fwdBlock m p v.frameNo (sget (fun _ => ({} : Held)) v.held cell).val
  if v.pairMode && !v.txOff && v.holds cell && own && (r.eagerOut || lacks)
      && !v.peer.fwdOut.any (fun x => x / 2 ^ 48 == b / 2 ^ 48) then
    ({ v with peer := { v.peer with fwdOut := v.peer.fwdOut ++ [b] } }).peerSend (.fwd b)
  else v

/-- Every report of a ring that R420 lets go now. -/
def Vp.forwardRing (v : Vp) (m : Nat) : Vp := (positions (v.ncell m)).foldl (fun v p => v.forward m p) v

/-- An RFH is sent (R420). -/
def Vp.rfhSend (v : Vp) (m : Nat) (up wrapped : Bool) (t sent held : Nat) : Vp :=
  if !v.pairMode || v.txOff then v
  else
    let f : Rfh :=
      { up := up, wrapped := wrapped, t := t, first := (v.ring m).rfhOwn.isEmpty, sent := sent, held := held }
    (v.updRing m (fun r => { r with rfhOwn := r.rfhOwn ++ [f] })).peerSend (.rfh m f)

/-- A copy of a train returns (R150, R210); in paired mode its RFH leaves `sent` ns after B_n (R420). -/
def Vp.copyReturn (v : Vp) (m : Nat) (up wrapped : Bool) (t hop : Nat) (sotOk crcOk : Bool) (errs sent : Nat) : Vp :=
  let was := v.decided
  let v := v.copyIn m up wrapped t hop sotOk crcOk errs
  if was || !sotOk || !v.ringUp m then v
  else v.rfhSend m up wrapped t sent (sget (fun _ => 0) (v.ring m).copyHeld (2 * b2n up + b2n wrapped))

/-- No copy of the own train has returned by the deadline (R420). -/
def Vp.rfhDeadline (v : Vp) (m sent : Nat) : Vp :=
  let k := 2 * b2n v.isB
  let cs := (v.ring m).copies
  if !v.ringUp m || (cs.lookup k).isSome || (cs.lookup (k + 1)).isSome
      || (v.ring m).rfhOwn.any (fun r => r.t == noT) then v
  else v.rfhSend m v.isB false noT sent 0

/-- RING_PEER_DLY with the queueing of R421 exceeds ACK_DLY: once (R424). -/
def Vp.ackShort (v : Vp) : Vp :=
  if v.paired && !v.peer.short && decide (v.fld Reg.PEER_CFG 8 8 < v.fld Reg.RING_PEER_DLY 0 16 + 32) then
    (({ v with peer := { v.peer with short := true } }).peerSticky 8).peerFaults [(7, unc, Reg.RING_PEER_DLY)]
  else v

/-- An RFH arrives `arr` ns after B_n: its crossing is measured, and the reports that it lacks are forwarded (R420)
(log entry 89). -/
def Vp.rfhIn (v : Vp) (m : Nat) (f : Rfh) (frame arr : Nat) (gap : Bool) : Vp :=
  v.gapped gap (fun v =>
    if !v.pairMode || decide (16 ≤ m) || frame % 256 != v.frameNo % 256 then v
    else
      let v := v.updRing m (fun r => { r with rfhPeer := r.rfhPeer ++ [f] })
      let v := if f.sent ≤ arr then v.setReg Reg.RING_PEER_DLY (w32 (min (arr - f.sent) 0xFFFF)) else v
      (v.ackShort).forwardRing m)

/-- A forwarded report arrives `arr` ns after B_n (R420). -/
def Vp.fwdReport (v : Vp) (blk arr : Nat) (gap : Bool) : Vp :=
  v.gapped gap (fun v =>
    if v.pairMode && blk / 2 ^ 60 % 16 == v.frameNo % 16 then
      v.reportFwd (blk / 2 ^ 56 % 16) (blk / 2 ^ 48 % 256) arr (blk % 2 ^ 48)
    else v)

/-- A report arrives on the ring; it may be one to forward (R134, R420). -/
def Vp.reportRecv (v : Vp) (m p : Nat) (up wrapped : Bool) (arr slot : Nat) : Vp :=
  (v.reportIn m p up wrapped arr slot).forward m p

/-! ### Route values (R422) -/

/-- LOOP delivers: the active VP sends RTV (R419, R422). -/
def Vp.rtvSend (v : Vp) : Vp :=
  if v.pairMode && v.active && !v.txOff then
    let xs := (armIds.filter v.armOn).map (fun k => (k, (v.arm k).lvl, (v.arm k).cur))
    ({ v with peer := { v.peer with rtvOut := xs } }).peerSend (.rtv xs)
  else v

/-- The standby latches the active VP's route values of the frame. -/
def Vp.rtvLatch (v : Vp) : Vp :=
  if v.standby && v.decided && v.peer.rtvGot then
    v.peer.rtvIn.foldl (fun v x =>
      if v.armOn x.1 then
        let v := v.setArm x.1 { v.arm x.1 with lvlLat := x.2.1, curLat := x.2.2 }
        let f := v.reg (Reg.ARM_FORCE x.1)
        v.setFld (Reg.ARM_LEVEL x.1) 0 28 (if Machine.bit f 31 then Machine.fld f 0 28 else x.2.1)
      else v) v
  else v

/-- RTV arrives: latched at D_n, or on arrival until D_n + ACK_DLY (R422). -/
def Vp.rtvIn (v : Vp) (frame : Nat) (xs : List (Nat × Nat × Int)) (gap : Bool) : Vp :=
  v.gapped gap (fun v =>
    if v.standby && frame % 256 == v.frameNo % 256 then
      ({ v with peer := { v.peer with rtvIn := xs, rtvGot := true } }).rtvLatch
    else v)

/-- At D_n + ACK_DLY without RTV the standby uses its own values (R422). -/
def Vp.rtvExpiry (v : Vp) : Vp :=
  if v.standby && v.decided && !v.peer.rtvGot then
    ((v.inc Reg.PEER_LATE_CNT).peerSticky 5).peerFaults [(3, cor, Reg.PEER_LATE_CNT)]
  else v

/-! ### One acknowledged set (R423): times in units of 6.25 ps -/

/-- The ring time of slot `p` by the RFHs of one VP; none is infinite. -/
def ringTime (ncell : Nat) (rs : List Rfh) (p : Nat) : Option Nat :=
  (rs.filter (fun r => r.t != noT && r.held.testBit p)).foldl (fun (b : Option Nat) r =>
    let t := r.t * 10 + blk6 * slotIndex ncell r.up p
    match b with
    | none => some t
    | some u => some (min t u)) none

/-- Infinity is the larger. -/
def minO : Option Nat → Option Nat → Option Nat
  | none, b => b
  | a, none => a
  | some a, some b => some (min a b)

/-- The instant of the deadline of R420 for a latency published, in units of 6.25 ps. -/
def rfhDue (t : Nat) : Nat := (if t = noT then 0 else t * 10) + 80000

/-- The forward time of a slot at the VP whose first RFH is `f`, from the other's ring time. -/
def fwdTime (rt : Option Nat) (eager : Bool) (f : Option Rfh) (due ack p : Nat) : Option Nat :=
  match rt with
  | none => none
  | some rt =>
    if eager then some (rt + ack)
    else
      match f with
      | some f => if f.held.testBit p then none else some (max rt (f.sent * 160 + ack) + ack)
      | none => some (max rt (due + ack) + ack)

/-- Is the report of position `p` acknowledged by the pair's rule? -/
def Vp.pairAck (v : Vp) (m p : Nat) : Bool :=
  let r := v.ring m
  let n := v.ncell m
  let ack := v.fld Reg.PEER_CFG 8 8 * 160
  let dn := v.dOfs * 160
  let due := fun (b : Bool) => rfhDue (v.reg (if b then Reg.RING_TUP m else Reg.RING_TDN m)).toNat
  let ro := ringTime n r.rfhOwn p
  let rp := ringTime n r.rfhPeer p
  let ho := minO ro (fwdTime rp r.eagerIn (firstRfh r.rfhOwn) (due v.isB) ack p)
  let hp := minO rp (fwdTime ro r.eagerOut (firstRfh r.rfhPeer) (due (!v.isB)) ack p)
  match ho, hp with
  | some a, some b => decide (a ≤ dn) && decide (b ≤ dn)
  | _, _ => false

/-- A report that only the partner has received counts from its forward time (R26), in whole ns up; one whose forward time
lies after D_n is late (R29) (log entry 147). -/
def Vp.fwdHeld (v : Vp) (c : Nat) : Vp :=
  let r := v.ring (c / 256)
  let h := sget (fun _ => ({} : Held)) v.held c
  if !v.holds c || v.cf c 8 0 2 != 0 then v
  else
    let b := v.isB
    let due := rfhDue (v.reg (if b then Reg.RING_TUP (c / 256) else Reg.RING_TDN (c / 256))).toNat
    match fwdTime (ringTime (v.ncell (c / 256)) r.rfhPeer (c % 256)) r.eagerIn (firstRfh r.rfhOwn) due
        (v.fld Reg.PEER_CFG 8 8 * 160) (c % 256) with
    | none => v
    | some t =>
      let arr := (t + 159) / 160
      let late := decide (v.dOfs * 160 < t)
      let v := ({ v with held := sset (fun _ => {}) v.held c { h with arr := arr, inTime := h.inTime && !late } }).setCf
        c 9 0 24 arr
      if late && h.inTime then v.lateReport (c / 256) c else v

/-- At D_n + ACK_DLY, with the partner's RFHs of copies returned by D_n, RING is evaluated (R150), the pair's acknowledged
set closes, the engines decide, and the arms arm (R423). -/
def Vp.ackSetClose (v : Vp) : Vp :=
  if !v.pairMode || !v.decided || v.fatal || v.armDone != 0 || armIds.any (fun k => (v.arm k).busy) then v
  else
    let v := v.held.foldl (fun v h => v.fwdHeld h.1) v
    let v := ringIds.foldl Vp.ringEval v
    let cells := ringIds.flatMap v.cellsOfRing
    let ack := cells.filter (fun c => v.pairAck (c / 256) (c % 256))
    let has := fun c => v.holds c && !(v.ring (c / 256)).bufBad
    let v := if ack.any (fun c => !has c) then v.peerSticky 9 else v
    let v := ack.foldl (fun v c => if has c then v.noteRetired c (v.rep c) else v) v
    let v := v.decideAll (fun c => ack.contains c && has c)
    (ringIds.foldl Vp.closeCheck v).armedCheck

/-! ### Digests (R425, R426) -/

/-- The digest of an arm's record. -/
def Vp.armDigest (v : Vp) (k : Nat) : Nat :=
  let a := v.arm k
  crc32 (([a.w0, a.w1, a.w2].flatMap (leBytes 4))
    ++ (v.ringsOf k).flatMap (fun m =>
      (bitmapBlocks (v.ring m).ackBits ++ bitmapBlocks (v.ring m).grantBits).flatMap (leBytes 8)))

/-- When the frame's last record is written, DIG is sent (R419). -/
def Vp.digSend (v : Vp) : Vp :=
  let on := armIds.filter v.armOn
  if v.pairMode && !v.txOff && on.all (fun k => (v.arm k).written) then
    let ds := on.map (fun k => (k, v.armDigest k))
    ({ v with peer := { v.peer with digOut := ds } }).peerSend (.dig ds)
  else v

/-- A DIG arrives. -/
def Vp.digIn (v : Vp) (frame : Nat) (ds : List (Nat × Nat)) (gap : Bool) : Vp :=
  v.gapped gap (fun v =>
    if v.pairMode && frame % 256 == v.frameNo % 256 then { v with peer := { v.peer with digIn := ds } } else v)

/-- The resynchronisation of an arm, if one is under way. -/
def Vp.resyncOf (v : Vp) (k : Nat) : Option Resync := sget (fun _ => none) v.peer.resync k

/-- `PEER_STAT`.RESYNC and `PEER_MIS_ARM`[27:16] show the arms resynchronising. -/
def Vp.resyncShow (v : Vp) : Vp :=
  let on := armIds.filter (fun k => (v.resyncOf k).isSome)
  (v.setBit Reg.PEER_STAT 5 (!on.isEmpty)).setFld Reg.PEER_MIS_ARM 16 12 (on.foldl (fun b k => putBit b k true) 0)

/-- `v` with the resynchronisation of an arm set. -/
def Vp.setResync (v : Vp) (k : Nat) (r : Option Resync) : Vp :=
  ({ v with peer := { v.peer with
      resync := sset (fun _ => none) v.peer.resync k r, mis := sset (fun _ => 0) v.peer.mis k 0 } }).resyncShow

/-- The SNAP of an arm (R427). Which boundary within 16 frames it names is left open (log entry 9) (log entry 85). -/
def Vp.snapOf (v : Vp) (k : Nat) : Snap :=
  { arm := k, at_ := v.frameNo + 1 + Config.openNat 8 (v.frameNo * 16 + k) % 16, dir := v.bit (Reg.ARM_STATE k) 2
    cells := (v.cellsOfArm k).map (fun c => (c, [v.cw c 2, v.cw c 3, v.cw c 4, v.cw c 7])) }

/-- A resynchronisation of an arm starts: the standby sends void records, the active VP a SNAP (log entry 86). -/
def Vp.resyncStart (v : Vp) (k : Nat) : Vp :=
  let v := (v.peerSticky 2).setResync k (some { frames := 0, snap := none })
  if v.active then
    let x := v.snapOf k
    let xs : List Snap := v.peer.snapOut.filter (·.arm != k) ++ [x]
    ({ v with peer := { v.peer with snapOut := xs } }).peerSend (.snap x)
  else v

/-- The digests are compared (R425 to R427). -/
def Vp.digCompare (v : Vp) : Vp :=
  if !v.pairMode then v
  else
    let bad := (armIds.filter v.armOn).filter (fun k =>
      match v.peer.digIn.lookup k, v.peer.digOut.lookup k with
      | some a, some b => a != b
      | _, _ => false)
    let v := v.setFld Reg.PEER_MIS_ARM 0 12 (bad.foldl (fun b k => putBit b k true) 0)
    let n := fun k => if bad.contains k then sget (fun _ => 0) v.peer.mis k + 1 else 0
    let v := { v with peer := { v.peer with
      mis := armIds.foldl (fun l k => sset (fun _ => 0) l k (n k)) v.peer.mis
      void := if v.active then [] else bad, digIn := [], digOut := [] } }
    if bad.isEmpty then v
    else
      let v := (bad.foldl (fun v _ => v.inc Reg.PEER_MIS_CNT) v).peerSticky 1
      let again := bad.filter (fun k => decide (v.fld Reg.PEER_CFG 16 4 ≤ n k) && (v.resyncOf k).isNone)
      let v := again.foldl Vp.resyncStart v
      v.peerFaults ((2, cor, Reg.PEER_MIS_CNT) :: again.map (fun _ => (6, unc, Reg.PEER_MIS_ARM)))

/-- The arms for which the train of this boundary carries a void record (R426, R427). -/
def Vp.voidArm (v : Vp) (k : Nat) : Bool :=
  v.standby && (v.peer.void.contains k || (v.resyncOf k).isSome)

/-- The state that a snapshot replaces (R427). -/
def Vp.snapTake (v : Vp) (s : Snap) : Vp :=
  let v := v.setBit (Reg.ARM_STATE s.arm) 2 s.dir
  s.cells.foldl (fun v c =>
    (((v.setCw c.1 2 (c.2.getD 0 0)).setCw c.1 3 (c.2.getD 1 0)).setCw c.1 4 (c.2.getD 2 0)).setCw c.1 7 (c.2.getD 3 0)) v

/-- At the boundary that a SNAP names the standby replaces its own values (R427). -/
def Vp.snapApply (v : Vp) (s : Snap) (gap : Bool) : Vp :=
  v.gapped gap (fun v =>
    if v.standby && (v.resyncOf s.arm).isSome && s.at_ % 2 ^ 32 == v.frameNo % 2 ^ 32 then
      (v.snapTake s).setResync s.arm none
    else v)

/-- A snapshot has not applied within 64 frames: the procedure starts again (R427). -/
def Vp.snapTimeout (v : Vp) (k : Nat) : Vp :=
  match v.resyncOf k with
  | some r =>
    if v.pairMode && decide (64 ≤ r.frames) then (v.resyncStart k).peerFaults [(6, unc, Reg.PEER_MIS_ARM)] else v
  | none => v

/-! ### Status (R419, R429, R431) -/

/-- PST goes out after the boundary (R419); it may make rings eager (R420) (log entry 15). -/
def Vp.pstSend (v : Vp) : Vp :=
  if !v.peerTx || !v.bit Reg.PEER_STAT 2 && !v.bit Reg.PEER_STAT 4 then v
  else
    let on := ringIds.filter (fun m => v.bit Reg.RING_EN m)
    let one := fun m =>
      let w := (v.reg (Reg.RING_WRAP m)).toNat
      let b := v.isB
      ({ ring := m, t := (v.reg (if b then Reg.RING_TUP m else Reg.RING_TDN m)).toNat % 2 ^ 24
         wrap := if b then w / 2 ^ 8 % 256 else w % 256, wrapV := w.testBit (if b then 17 else 16) } : PstRing)
    let p : Pst :=
      { frame := v.frameNo % 256, gen := v.gen, active := v.active, role := v.isB, formed := v.bit Reg.PEER_STAT 2
        solo := v.bit Reg.PEER_STAT 4, sealOpen := v.sealOpen
        arms := armIds.foldl (fun b k => putBit b k (v.armRuns k)) 0, rings := on.map one }
    let v := p.rings.foldl (fun v r => v.updRing r.ring (fun s => { s with pstOwn := r.t == noT || r.wrapV })) v
    ({ v with peer := { v.peer with pstOut := some p } }).peerSend (.pst p)

/-- Both VPs hold the active role with one GEN (R431) (log entry 86). -/
def Vp.dualActive (v : Vp) : Vp :=
  if v.peer.giveUp then v
  else
    let v := (v.peerSticky 6).peerFaults [(5, cor, Reg.PEER_STAT)]
    if v.isB then { v with peer := { v.peer with giveUp := true } } else v

/-- A PST arrives (R391, R420, R429, R431) (log entry 86). -/
def Vp.pstIn (v : Vp) (p : Pst) (gap : Bool) : Vp :=
  v.gapped gap (fun v =>
    let v := { v with peer := { v.peer with pstIn := some p, pstGot := true, pstMiss := 0 } }
    let v := (v.setBit Reg.PEER_STAT 3 true).setBit Reg.HOST_SEAL 5 p.sealOpen
    let v := if p.frame = v.frameNo % 256 then
        p.rings.foldl (fun v r => v.updRing r.ring (fun s => { s with pst := some (r.t == noT || r.wrapV) })) v
      else v
    if v.active && p.active && p.gen == v.gen && (v.bit Reg.PEER_STAT 2 || v.bit Reg.PEER_STAT 4) then v.dualActive
    else if v.active && v.bit Reg.PEER_STAT 2 && v.bit Reg.PEER_STAT 4 && !p.active && p.formed && !p.solo
        && !v.peer.joining then v.setBit Reg.PEER_STAT 4 false
    else v)

/-- The partner is found lost (R429, R430). -/
def Vp.partnerLost (v : Vp) (cause : Nat) : Vp :=
  if !v.pairMode || v.peer.takeAt.isSome then v
  else
    let v := (v.setFld Reg.PEER_STAT 6 2 cause).setBit Reg.PEER_STAT 3 false
    let v := (v.setReg Reg.PEER_LOSS_AT0 (w32 v.sec)).setReg Reg.PEER_LOSS_AT1 (w32 v.ns)
    let v := (v.addFld Reg.PEER_TAKE_CNT 16 16 1).peerSticky 3
    let v := (v.peerFaults [(4, cor, Reg.PEER_STAT)]).tokenAlone
    let next := if v.frameOfs + 1000 * nsUnit ≤ v.fpU then v.frameNo + 1 else v.frameNo + 2
    if v.active then
      (v.setBit Reg.PEER_STAT 4 true).journal 9 12 0xFF 0 v.gen cause v.frameNo
    else
      ({ v with peer := { v.peer with takeAt := some next } }).journal 9 12 0xFF 0 (nextGen v.gen) cause next

/-- No PST by B_k + 2 µs: the partner's seal counts as closed (R391), and at the second boundary in a row the partner is lost
(R429). -/
def Vp.pstMissing (v : Vp) : Vp :=
  if !v.pairMode || v.peer.pstGot then v
  else
    let n := v.peer.pstMiss + 1
    let v := { v with peer := { v.peer with pstMiss := n } }
    let v := (v.setBit Reg.PEER_STAT 3 false).setBit Reg.HOST_SEAL 5 false
    if 2 ≤ n then v.partnerLost 2 else v

/-- `PARTNER_FAIL_N` is asserted (R416, R429) (log entry 5). -/
def Vp.partnerFail (v : Vp) : Vp :=
  let v := { v with boot := { v.boot with partnerFail := true } }
  if v.paired then v.partnerLost 1 else v

/-- The standby takes the active role at the boundary that begins frame `n` (R430) (log entry 86). -/
def Vp.takeover (v : Vp) (n : Nat) : Vp :=
  match v.peer.takeAt with
  | some b =>
    if b ≤ n then
      let v := { v with peer := { v.peer with takeAt := none, void := [], resync := [], mis := [] } }
      let v := ((v.setBit Reg.PEER_STAT 1 true).setBit Reg.PEER_STAT 4 true).setFld Reg.PEER_STAT 8 8 (nextGen v.gen)
      (v.addFld Reg.PEER_TAKE_CNT 0 16 1).peerSticky 4 |>.resyncShow
    else v
  | none => v

/-- What of the pair changes with the boundary of frame `n` (R420, R427, R430 to R432). -/
def Vp.peerBoundary (v : Vp) (n : Nat) : Vp :=
  if !v.paired then v
  else
    let v := v.takeover n
    let v := if v.peer.giveUp then
        let v := ({ v with peer := { v.peer with giveUp := false } }).setBit Reg.PEER_STAT 1 false
        let v := v.setBit Reg.PEER_STAT 4 false
        let on := armIds.filter v.armOn
        (on.foldl Vp.resyncStart v).peerFaults (on.map (fun _ => (6, unc, Reg.PEER_MIS_ARM)))
      else v
    let v := if v.peer.joinAt = some n then
        ({ v with peer := { v.peer with joinAt := none, joining := false, cfgdIn := true } }).setBit Reg.PEER_STAT 4 false
          |>.setBit Reg.PEER_STAT 2 true
      else v
    let v := v.setReg Reg.PEER_FWD_CNT (w32 (v.peer.fwdOut.length % 65536 + v.peer.fwdIn % 65536 * 65536))
    let applied := (v.peer.snapOut.filter (fun s => s.at_ == n)).map (·.arm)
    let v := if v.active then applied.foldl (fun v k => v.setResync k none) v else v
    let v := { v with peer := { v.peer with
      fwdOut := [], fwdIn := 0, rtvIn := [], rtvGot := false, pstGot := false
      snapOut := v.peer.snapOut.filter (fun s => decide (n < s.at_))
      resync := v.peer.resync.map (fun p => (p.1, p.2.map (fun r => { r with frames := r.frames + 1 }))) } }
    if v.standby then v else { v with peer := { v.peer with void := [] } }

/-! ### Joining (R432) -/

/-- The partner that runs solo sends a SNAP for every arm, all naming one boundary within 16 frames, from which it works
with the joining VP (log entry 85). -/
def Vp.joinGrant (v : Vp) : Vp :=
  let b := v.frameNo + 1 + Config.openNat 9 v.frameNo % 16
  let xs := (armIds.filter v.armOn).map (fun k => { v.snapOf k with at_ := b })
  xs.foldl (fun v s => v.peerSend (.snap s)) { v with peer := { v.peer with joinAt := some b, snapOut := xs } }

/-- JOIN: at the running VP the SNAPs are sent; at the joining VP, which has received them, their state is taken and it
is the standby from the boundary that they name, with its partner's GEN (R432). Answers whether this VP launches now
(log entry 86). -/
def Vp.join (v : Vp) (snaps : List Snap) : Vp × Bool :=
  if !v.paired || v.peer.failed || !v.peer.joining then (v, false)
  else if v.bit Reg.PEER_STAT 4 then (if v.launched && v.peer.joinAt.isNone then v.joinGrant else v, false)
  else if v.launched || !(armIds.filter v.armOn).all (fun k => snaps.any (·.arm == k)) then (v, false)
  else
    let v := snaps.foldl Vp.snapTake v
    let v := ({ v with peer := { v.peer with joining := false } }).setBit Reg.PEER_STAT 1 false
    (v, true)

/-! ### Trips and D_n -/

/-- A TRIP message arrives (R142, R428). -/
def Vp.tripIn' (v : Vp) (src : Nat) (gap : Bool) : Vp := v.gapped gap (fun v => v.tripMsg src)

/-- D_n (R42): in a pair the standby latches the route values that have arrived (R422) (log entry 20). -/
def Vp.atDn (v : Vp) : Vp := ((if v.decided then v else v.frameAt v.dOfs).decisionInstant).rtvLatch

end Sys2Proof.Machine
end

