-- ==== Sys2Proof/Machine/Sched.lean ====
section
/-!
DEFINITION. The control cores and the work scheduler (R259 to R287): posts, dispatch, pre-emption, completion,
exceptions, overruns, removal and the wake.
-/

namespace Sys2Proof.Machine

/-! ### Cores and items -/

/-- The items on core `k`'s stack, top first (R264). -/
def Vp.stack (v : Vp) (k : Nat) : List Nat := sget (fun _ => []) v.sched.coreStack k
/-- `v` with core `k`'s stack set. -/
def Vp.setStack (v : Vp) (k : Nat) (l : List Nat) : Vp :=
  { v with sched := { v.sched with coreStack := sset (fun _ => []) v.sched.coreStack k l } }

/-- Is core `k` present (R261)? -/
def Vp.present (v : Vp) (k : Nat) : Bool :=
  decide (k < 16) && v.bit Reg.SYS_PWR_STAT (2 + k / 4) && v.bit (Reg.SCHED_CORE_CFG k) 0
    && !v.sched.removed.testBit k && !v.sched.halted.testBit k

/-- Does a master run, and so access registers: a control core that is powered and neither removed, halted nor held by the
fatal state, or the MC (16), unless it is the failed scope (R261, R281, R409)? (log entry 19) -/
def Vp.masterActs (v : Vp) (m : Nat) : Bool :=
  if m = 16 then !v.fatal || v.fld Reg.SYS_FATAL 1 4 != 0 || v.fld Reg.SYS_FATAL 5 8 != 16
  else decide (m < 16) && v.bit Reg.SYS_PWR_STAT (2 + m / 4) && !v.sched.removed.testBit m && !v.sched.halted.testBit m
    && !v.fatal

/-- The scheduler dispatches: it is enabled (R286) and no device-level fatal fault has stopped it (R409)
(log entry 65). -/
def Vp.dispatching (v : Vp) : Bool := v.bit Reg.SCHED_CFG 0 && !v.fatal

/-- An item's priority. -/
def Vp.prio (v : Vp) (w : Nat) : Nat := v.fld (Reg.SCHED_WI_CFG w) 1 3
/-- An item's STATE (R264). -/
def Vp.wiState (v : Vp) (w : Nat) : Nat := v.fld (Reg.SCHED_WI_STAT w) 0 3
/-- `v` with an item's STATE set. -/
def Vp.setWiState (v : Vp) (w st : Nat) : Vp := v.setFld (Reg.SCHED_WI_STAT w) 0 3 st
/-- The core of the item's last dispatch; 31 when never dispatched. -/
def Vp.lastCore (v : Vp) (w : Nat) : Nat := v.fld (Reg.SCHED_WI_STAT w) 4 5

/-- Core `k` is eligible for item `w` (R271). -/
def Vp.eligible (v : Vp) (w k : Nat) : Bool :=
  v.dispatching && v.present k && v.bit (Reg.SCHED_WI_CFG w) (16 + k)
    && (!v.bit (Reg.SCHED_WI_CFG w) 4 || v.lastCore w == 31 || v.sched.removed.testBit (v.lastCore w) || v.lastCore w == k)

/-- The control cores. -/
def cores : List Nat := List.range 16

/-! ### The wake (R282 to R284) -/

/-- The wake's size in bytes. -/
def Vp.wakeSize (v : Vp) : Nat := 0x1000 * 2 ^ v.fld Reg.SCHED_TRC_CFG 4 4

/-- A wake record (R282), with the frame and offset of the input that caused it. -/
def Vp.wakeRec (v : Vp) (type prio core item ev src : Nat) : Nat :=
  type * 2 ^ 60 + prio % 8 * 2 ^ 57 + core % 32 * 2 ^ 52 + item % 4096 * 2 ^ 40 + ev % 256 * 2 ^ 32 + src % 4 * 2 ^ 30
    + v.frameNo % 64 * 2 ^ 24 + v.frameOfs / nsUnit % 2 ^ 24

/-- Would a record make WP equal to RP with STOP set (R283)? -/
def Vp.wakeFull (v : Vp) : Bool :=
  v.bit Reg.SCHED_TRC_CFG 1 && (v.fld Reg.SCHED_TRC_WP 0 20 + 8) % v.wakeSize == v.fld Reg.SCHED_TRC_RP 0 20

/-- The writer places a record at WP and advances it, wrapping and counting the wrap (R283). -/
def Vp.wakePlace (v : Vp) (r : Nat) : Vp :=
  let wp := v.fld Reg.SCHED_TRC_WP 0 20
  let a := (v.reg Reg.SCHED_TRC_BASE).toNat + wp
  let v := { v with mem := msetW (msetW v.mem a (w32 r)) (a + 4) (w32 (r / 2 ^ 32)) }
  let next := wp + 8
  if next % v.wakeSize = 0 then (v.setFld Reg.SCHED_TRC_WP 0 20 0).addFld Reg.SCHED_TRC_WP 20 12 1
  else v.setFld Reg.SCHED_TRC_WP 0 20 next

/-- A record is lost (R284). The losses up to the next LOST record are one fault (log entry 7) (log entry 68). -/
def Vp.wakeLose (v : Vp) : Vp :=
  let first := v.sched.lost == 0
  let v := (v.inc Reg.SCHED_TRC_LOST).setBit Reg.SCHED_STICKY 0 true
  let v := { v with sched := { v.sched with lost := v.sched.lost + 1 } }
  if first then v.raiseAll 3 0xFF [{ Cond.own 3 2 cor Reg.SCHED_TRC_LOST with master := 0x11 }] else v

/-- A record comes to the writer's queue of 64 (R284). Whether one beyond 64 of one tick finds the queue full the spec does
not say, since it does not give the writer's pace: that is free (log entries 9, 68). -/
def Vp.wakeQueue (v : Vp) : Vp × Bool :=
  let n := if v.sched.burstAt = v.up then v.sched.burst else 0
  let v := { v with sched := { v.sched with burst := n + 1, burstAt := v.up } }
  if n < 64 then (v, false) else ({ v with free := v.free + 1 }, Config.openNat 19 v.free % 2 == 1)

/-- A decision writes its record (R282): types cleared in TYPES are not written, and the next record after a loss is
preceded by a LOST record (R284). -/
def Vp.wake (v : Vp) (type prio core item ev src : Nat) : Vp :=
  if v.bit Reg.SCHED_TRC_CFG 0 && v.bit Reg.SCHED_TRC_CFG (16 + type) then
    let r := v.wakeRec type prio core item ev src
    let (v, full) := v.wakeQueue
    if full || v.wakeFull then v.wakeLose
    else if v.sched.lost = 0 then v.wakePlace r
    else
      let v := v.wakePlace (0xE * 2 ^ 60 + v.sched.lost % 2 ^ 32)
      let v := { v with sched := { v.sched with lost := 0 } }
      if v.wakeFull then v.wakeLose else v.wakePlace r
  else v

/-- A record of item `w` on core `k` with the event that readied it. -/
def Vp.wakeItem (v : Vp) (type k w : Nat) : Vp :=
  let i := sget (fun _ => ({} : PostInfo)) v.sched.info w
  v.wake type (v.prio w) k w i.ev i.src

/-! ### Dispatch and pre-emption (R271 to R276) -/

/-- Save frame `d` of core `k` at its global address (R35, R276). -/
def saveFrame (k d : Nat) : Nat := 0x08000000 + k * 0x20000 + 0x1F700 + d * 0x120

/-- The registers of core `k` as it has left them: the code that it ran since is not seen, so they are free values
(log entry 6). -/
def Vp.ranCtx (v : Vp) : Ctx × Vp :=
  ({ pc := Config.coreWord v.free
     x := (List.range 31).map (fun i => Config.coreWord (v.free + 1 + i))
     f := (List.range 32).map (fun i => Config.coreWord (v.free + 32 + i))
     fcsr := Config.coreWord (v.free + 64) }, { v with free := v.free + 65 })

/-- The state of the pre-empted top item of core `k` is saved into the frame of its depth (R276) (log entry 6). -/
def Vp.saveTop (v : Vp) (k w depth : Nat) : Vp :=
  let (c, v) := v.ranCtx
  let a := saveFrame k depth
  { v with mem := msetWs v.mem a (c.x ++ c.f ++ [c.pc, c.fcsr, w32 (w + v.prio w * 4096)]) }

/-- The registers that a core starts an item with (R274). `below` is true when an item stands beneath. -/
def Vp.entryCtx (v : Vp) (k w depth : Nat) : Ctx :=
  let i := sget (fun _ => ({} : PostInfo)) v.sched.info w
  let m := min (sget (fun _ => 0) v.sched.merged w) 255
  let sp := if depth = 0 then v.reg (Reg.SCHED_CORE_SP k)
    else w32 ((mgetW v.mem (saveFrame k (depth - 1) + 4)).toNat / 16 * 16 + 2 ^ 32 - 16)
  { pc := v.reg (Reg.SCHED_WI_ENTRY w)
    x := [w32 0xFFF0, sp, 0, 0, 0, 0, 0, 0, 0, w32 w, w32 (i.ev % 256 + i.src * 256 + m * 2 ^ 16), w32 i.frame]
      ++ List.replicate 19 0
    f := List.replicate 32 0
    fcsr := 0 }

/-- The item starts on core `k`, above what stands on its stack (R272, R274). The core counts as running it from this
decision on (R273). -/
def Vp.dispatch (v : Vp) (k w : Nat) : Vp :=
  let below := v.stack k
  let v := v.wakeItem 1 k w
  let c := v.entryCtx k w below.length
  let v := v.setStack k (w :: below)
  let v := { v with sched := { v.sched with
    ready := v.sched.ready.filter (· != w)
    cpu := sset (fun _ => {}) v.sched.cpu k c
    merged := sset (fun _ => 0) v.sched.merged w 0
    wdog := sset (fun _ => 0) v.sched.wdog w 0
    wdogDue := v.sched.wdogDue.filter (· != w) } }
  let v := (v.setWiState w 2).setFld (Reg.SCHED_WI_STAT w) 4 5 k
  v.inc (Reg.SCHED_CORE_DISP_CNT k)

/-- Item `w` takes core `k` from its top item (R272, R276). -/
def Vp.preempt (v : Vp) (k w : Nat) : Vp :=
  match v.stack k with
  | [] => v.dispatch k w
  | top :: below =>
    let v := v.wakeItem 2 k top
    let v := v.saveTop k top below.length
    let v := v.setWiState top 3
    let v := v.inc (Reg.SCHED_CORE_PRE_CNT k)
    v.dispatch k w

/-- NO_CORE: a ready item whose CMASK holds no present core (R281), raised once per item (R287). -/
def Vp.checkNoCore (v : Vp) (w : Nat) : Vp :=
  if cores.any (fun k => v.present k && v.bit (Reg.SCHED_WI_CFG w) (16 + k)) then v
  else
    let v := v.setBit Reg.SCHED_STICKY 4 true
    if v.sched.noCore.contains w then v
    else
      let v := { v with sched := { v.sched with noCore := v.sched.noCore ++ [w] } }
      v.raise 3 0xFF 3 cor (Reg.SCHED_WI_STAT w)

/-- The core whose top item `w` pre-empts: lowest priority wins, then lowest core (R272). -/
def Vp.victim (v : Vp) (w : Nat) : Option Nat :=
  cores.foldl (fun c k =>
    match v.stack k with
    | [] => c
    | top :: _ =>
      if v.eligible w k && decide (v.prio w < v.prio top) then
        match c with
        | none => some k
        | some j =>
          match v.stack j with
          | [] => some k
          | tj :: _ => if v.prio tj < v.prio top then some k else c
      else c) none

/-- A ready item is placed: on the lowest idle eligible core, or by pre-emption, or it stays in its list (R272). -/
def Vp.place (v : Vp) (w : Nat) : Vp :=
  match cores.find? (fun k => v.eligible w k && (v.stack k).isEmpty) with
  | some k => v.dispatch k w
  | none =>
    match v.victim w with
    | some k => v.preempt k w
    | none => v.checkNoCore w

/-- Resume restores the save frame of the item's depth (R276). -/
def Vp.restore (v : Vp) (k d : Nat) : Vp :=
  let ws := mgetWs v.mem (saveFrame k d) 65
  let c : Ctx := { x := ws.take 31, f := (ws.drop 31).take 32, pc := ws.getD 63 0, fcsr := ws.getD 64 0 }
  { v with sched := { v.sched with cpu := sset (fun _ => {}) v.sched.cpu k c } }

/-- The oldest item of the highest priority for which core `k` is eligible (R272). -/
def Vp.nextFor (v : Vp) (k : Nat) : Option Nat :=
  (v.sched.ready.filter (fun w => v.eligible w k)).foldl (fun (b : Option Nat) w =>
    match b with
    | none => some w
    | some x => if v.prio w < v.prio x then some w else b) none

/-- Core `k` resumes the pre-empted item on top of its stack, and counts as running it from this decision on (R272,
R273). -/
def Vp.resumeTop (v : Vp) (k : Nat) : Vp :=
  match v.stack k with
  | [] => v
  | top :: below =>
    let v := v.wakeItem 5 k top
    (v.setWiState top 2).restore k below.length

/-- Core `k`, whose top item has ended, takes the oldest item of the highest priority for which it is eligible, when that
priority is higher than that of the item now on top, or resumes that item (R272). -/
def Vp.takeNext (v : Vp) (k : Nat) : Vp :=
  match v.nextFor k, v.stack k with
  | none, [] => v
  | some w, [] => v.dispatch k w
  | some w, top :: _ => if v.prio w < v.prio top then v.dispatch k w else v.resumeTop k
  | none, _ :: _ => v.resumeTop k

/-- A core that has become present takes a ready item when it is idle; a core that runs an item goes on with it (R272)
(log entry 66). -/
def Vp.takeIdle (v : Vp) (k : Nat) : Vp :=
  if (v.stack k).isEmpty then
    match v.nextFor k with
    | some w => v.dispatch k w
    | none => v
  else v

/-- An item that has ended on core `k` and is Ready again is placed, and the core goes on (R269, R272): the item that the
core would take next keeps its turn, and an idle core comes before a core with items on its stack (log entry 66). -/
def Vp.placeAgain (v : Vp) (k w : Nat) : Vp :=
  if v.nextFor k = some w then
    match cores.find? (fun j => v.eligible w j && (v.stack j).isEmpty) with
    | some j => if j = k then v.dispatch k w else (v.dispatch j w).takeNext k
    | none => if (v.takeNext k).wiState w = 1 then (v.takeNext k).place w else v.takeNext k
  else (v.takeNext k).place w

/-! ### Posts (R268, R269) -/

/-- An overrun of a running or pre-empted item (R279 to R281). The first of a run raises one fault, the third is
fatal (R406). -/
def Vp.overrun (v : Vp) (w : Nat) : Vp :=
  let k := v.lastCore w
  let n := min (v.fld (Reg.SCHED_WI_STAT w) 9 2 + 1) 3
  let was := v.fld (Reg.SCHED_WI_STAT w) 9 2
  let v := (v.inc Reg.SCHED_OVR_CNT).setBit Reg.SCHED_STICKY 1 true
  let v := v.setFld (Reg.SCHED_WI_STAT w) 9 2 n
  let v := v.wakeItem 6 k w
  let c := { Cond.own 3 5 unc (Reg.SCHED_WI_STAT w) with master := k }
  if was = 0 then v.raiseAll 3 k [c]
  else if was = 2 then v.raiseAll 3 k [{ c with cause := 6, cls := fat }]
  else v

/-- A post is merged (R269). -/
def Vp.coalesce (v : Vp) (w ev src : Nat) : Vp :=
  let v := v.wake 4 (v.prio w) 31 w ev src
  let v := (v.inc Reg.SCHED_COAL_CNT).addFld (Reg.SCHED_WI_STAT w) 16 16 1
  { v with sched := { v.sched with merged := sset (fun _ => 0) v.sched.merged w (sget (fun _ => 0) v.sched.merged w + 1) } }

/-- The item becomes Ready at the tail of its list (R269). -/
def Vp.makeReady (v : Vp) (w ev src : Nat) : Vp :=
  let v := v.wake 0 (v.prio w) 31 w ev src
  let v := v.setWiState w 1
  { v with sched := { v.sched with
    ready := v.sched.ready ++ [w]
    info := sset (fun _ => {}) v.sched.info w { ev := ev, src := src, frame := v.frameNo % 2 ^ 32 } } }

/-- A post of item `w` by event `ev`, or with SRC 0b01 or 0b10 (R269) (log entry 65). -/
def Vp.postItem (v : Vp) (w ev src : Nat) : Vp :=
  let v := v.inc Reg.SCHED_POST_CNT
  match (if v.bit (Reg.SCHED_WI_CFG w) 0 then v.wiState w else 4) with
  | 0 => (v.makeReady w ev src).place w
  | 1 => v.coalesce w ev src
  | 2 | 3 =>
    let v := v.coalesce w ev src
    let v := if v.bit (Reg.SCHED_WI_STAT w) 3 then v
      else
        let v := v.setBit (Reg.SCHED_WI_STAT w) 3 true
        { v with sched := { v.sched with pendEv := sset (fun _ => 0) v.sched.pendEv w ev } }
    if v.bit (Reg.SCHED_WI_CFG w) 5 then v.overrun w else v
  | _ =>
    let v := v.wake 9 (v.prio w) 31 w ev src
    (v.inc Reg.SCHED_DROP_CNT).setBit Reg.SCHED_STICKY 6 true

/-- The items that event `n` posts, ascending (R268). -/
def Vp.itemsOf (v : Vp) (n : Nat) : List Nat :=
  v.regs.filterMap (fun p =>
    if Reg.SCHED_WI_CFG 0 ≤ p.1 ∧ p.1 < Reg.SCHED_WI_CFG 4096 ∧ Machine.bit p.2 6 ∧ Machine.fld p.2 8 8 = n
    then some ((p.1 - Reg.SCHED_WI_CFG 0) / 4) else none)

/-- An occurrence of event `n`: counted always, posting only when enabled (R267, R268). -/
def Vp.occur (v : Vp) (n : Nat) : Vp :=
  let v := v.inc (Reg.SCHED_EV_CNT n)
  if v.bit (Reg.SCHED_EV_CFG n) 0 then (v.itemsOf n).foldl (fun v w => v.postItem w n 0) v else v

/-! ### Completion, exception and removal -/

/-- The top item of core `k` leaves the stack (R264) (log entry 67). -/
def Vp.popItem (v : Vp) (k w : Nat) : Vp :=
  let v := v.setStack k ((v.stack k).drop 1)
  v.setWiState w (if v.bit (Reg.SCHED_WI_CFG w) 0 then 0 else 4)

/-- Core `k` completes its top item (R275); with PEND set the item is posted again at once (R269), and the run of its
overruns ends when PEND is clear (R280) (log entry 67). -/
def Vp.completeTop (v : Vp) (k : Nat) : Vp :=
  match v.stack k with
  | [] => v
  | w :: _ =>
    let v := v.wakeItem 3 k w
    let pend := v.bit (Reg.SCHED_WI_STAT w) 3
    let v := v.popItem k w
    if pend then
      let v := v.setBit (Reg.SCHED_WI_STAT w) 3 false
      let v := v.inc Reg.SCHED_POST_CNT
      (v.makeReady w (sget (fun _ => 0) v.sched.pendEv w) 2).placeAgain k w
    else
      (v.setFld (Reg.SCHED_WI_STAT w) 9 2 0).takeNext k

/-- An item is ended: EN and PEND cleared (R278, R281) (log entry 67). -/
def Vp.endItem (v : Vp) (w flag : Nat) : Vp :=
  let v := v.setBit (Reg.SCHED_WI_CFG w) 0 false
  let v := (v.setWiState w 4).setBit (Reg.SCHED_WI_STAT w) 3 false
  let v := (v.setFld (Reg.SCHED_WI_STAT w) 9 2 0).setBit (Reg.SCHED_WI_STAT w) flag true
  { v with sched := { v.sched with merged := sset (fun _ => 0) v.sched.merged w 0 } }

/-- A core exception (R278). -/
def Vp.coreException (v : Vp) (k : Nat) (cause pc val : Word) : Vp :=
  match v.stack k with
  | [] => v
  | w :: _ =>
    let v := v.setReg (Reg.SCHED_CORE_EXC_CAUSE k) cause
    let v := v.setReg (Reg.SCHED_CORE_EXC_PC k) pc
    let v := v.setReg (Reg.SCHED_CORE_EXC_VAL k) val
    let v := (v.setFld (Reg.SCHED_CORE_EXC_WI k) 0 12 w).addFld (Reg.SCHED_CORE_EXC_WI k) 16 16 1
    let v := v.setBit Reg.SCHED_STICKY 2 true
    let v := v.wakeItem 7 k w
    let v := v.setStack k ((v.stack k).drop 1)
    let v := v.endItem w 11
    let v := v.raiseAll 3 k [{ Cond.own 3 4 unc pc.toNat with master := k }]
    v.takeNext k

/-- Core `k` is removed (R281): every item on its stack is abandoned, and NO_CORE is found for ready items that no
present core may run. A removal that leaves no present core is a device-level fatal fault (R408). -/
def Vp.removeCore (v : Vp) (k : Nat) : Vp :=
  if v.sched.removed.testBit k then v
  else
    let items := v.stack k
    let v := { v with sched := { v.sched with removed := putBit v.sched.removed k true } }
    let v := v.setBit Reg.SCHED_STICKY 3 true
    let v := items.foldl (fun v w => (v.wakeItem 8 k w).endItem w 12) v
    let v := v.setStack k []
    let v := v.sched.ready.foldl (fun v w => v.checkNoCore w) v
    if cores.any v.present then v else v.raise 0 0xFF 5 fat (Reg.SCHED_CORE_STAT k)

/-! ### Boundaries, descriptors and views -/

/-- At a boundary: the watchdog counts of R279, and the busy time of the frame (R286). -/
def Vp.schedBoundary (v : Vp) : Vp :=
  let on := cores.flatMap v.stack
  let n := v.fld Reg.SCHED_CFG 16 16
  let v := on.foldl (fun v w =>
    let c := sget (fun _ => 0) v.sched.wdog w + 1
    let v := { v with sched := { v.sched with wdog := sset (fun _ => 0) v.sched.wdog w c } }
    if n ≠ 0 ∧ c % n = 0 ∧ v.bit (Reg.SCHED_WI_CFG w) 5 ∧ !v.sched.wdogDue.contains w then { v with sched := { v.sched with wdogDue := v.sched.wdogDue ++ [w] } } else v) v
  cores.foldl (fun v k =>
    let b := min (sget (fun _ => 0) v.sched.busy k) 0xFFFFFF
    let v := v.setReg (Reg.SCHED_CORE_BUSY k) (w32 b)
    let v := if (v.reg (Reg.SCHED_CORE_BUSY_MAX k)).toNat < b then v.setReg (Reg.SCHED_CORE_BUSY_MAX k) (w32 b) else v
    { v with sched := { v.sched with busy := sset (fun _ => 0) v.sched.busy k 0 } }) v

/-- Is a number an event that occurs (R266)? -/
def evExists (n : Nat) : Bool :=
  decide (n ≤ 6) || (decide (8 ≤ n) && decide (n ≤ 23)) || (decide (32 ≤ n) && decide (n ≤ 52) && n != 46)
    || (decide (128 ≤ n) && decide (n ≤ 255))

/-- Is an entry address one that R265 allows? -/
def entryOk (a : Nat) : Bool :=
  a % 2 == 0 && ((decide (0x06000000 ≤ a) && decide (a ≤ 0x0600FFFF)) || (decide (0x01000000 ≤ a) && decide (a ≤ 0x013FFFFF))
    || decide (a ≤ 0xFFFF))

/-- The items that have AFF set, `w` apart. -/
def Vp.affOthers (v : Vp) (w : Nat) : Nat :=
  (v.regs.filter (fun p => decide (Reg.SCHED_WI_CFG 0 ≤ p.1) && decide (p.1 < Reg.SCHED_WI_CFG 4096)
    && p.1 != Reg.SCHED_WI_CFG w && Machine.bit p.2 4)).length

/-- A descriptor that R265 refuses. -/
def Vp.wiRefused (v : Vp) (w : Nat) (cfg entry : Word) : Bool :=
  !entryOk entry.toNat || Machine.fld cfg 16 16 == 0 || (Machine.bit cfg 6 && !evExists (Machine.fld cfg 8 8))
    || (Machine.bit cfg 4 && decide (64 ≤ v.affOthers w))

/-- The write of a descriptor's configuration takes effect (R265). -/
def Vp.writeWiCfg (v : Vp) (w : Nat) (cfg : Word) : Vp :=
  let cfg := cfg &&& w32 0xFFFFFF7F
  if v.wiRefused w cfg (v.reg (Reg.SCHED_WI_ENTRY w)) then v.setBit Reg.SCHED_STICKY 5 true
  else
    let old := v.reg (Reg.SCHED_WI_CFG w)
    let st := v.wiState w
    let v := v.setReg (Reg.SCHED_WI_CFG w) cfg
    let v := v.setReg Reg.SCHED_AFF_CNT (w32 (v.affOthers w + b2n (Machine.bit cfg 4)))
    if Machine.bit cfg 0 then
      let v := (v.setBit (Reg.SCHED_WI_STAT w) 11 false).setBit (Reg.SCHED_WI_STAT w) 12 false
      let v := if st = 4 then v.setWiState w 0 else v
      let v := if st = 1 ∧ Machine.fld old 1 3 ≠ Machine.fld cfg 1 3 then
          { v with sched := { v.sched with ready := v.sched.ready.filter (· != w) ++ [w] } }
        else v
      if st = 1 then v.checkNoCore w else v
    else if st = 0 then v.setWiState w 4
    else if st = 1 then
      { v.setWiState w 4 with sched := { v.sched with
          ready := v.sched.ready.filter (· != w), merged := sset (fun _ => 0) v.sched.merged w 0 } }
    else { v.setBit (Reg.SCHED_WI_STAT w) 3 false with sched := { v.sched with
      merged := sset (fun _ => 0) v.sched.merged w 0 } }

/-- The write of a descriptor's entry address takes effect (R265). -/
def Vp.writeWiEntry (v : Vp) (w : Nat) (e : Word) : Vp :=
  if v.wiRefused w (v.reg (Reg.SCHED_WI_CFG w)) e then v.setBit Reg.SCHED_STICKY 5 true
  else v.setReg (Reg.SCHED_WI_ENTRY w) e

/-- The configuration image has been loaded (R286, R446): PHASE is 3 or more, and not NO_IMAGE (log entry 66). -/
def Vp.imageIn (v : Vp) : Bool := decide (3 ≤ v.fld Reg.BOOT_STAT 4 4) && v.fld Reg.BOOT_STAT 4 4 != 8

/-- `SCHED_CORE_STAT` of core `k` (R286): its reset value until the configuration image is loaded. -/
def Vp.coreStat (v : Vp) (k : Nat) : Word :=
  let st := if !v.imageIn then 0 else if v.sched.removed.testBit k then 3 else if v.sched.halted.testBit k then 4
    else if (v.stack k).isEmpty then (if v.present k then 1 else 0) else 2
  match v.stack k with
  | [] => w32 st
  | w :: r => w32 (st + (r.length + 1) * 8 + w * 256 + v.prio w * 2 ^ 20)

/-- `SCHED_STAT` (R286): its reset value until the configuration image is loaded. -/
def Vp.schedStat (v : Vp) : Word :=
  let idle := if !v.imageIn then [] else cores.filter (fun k => v.present k && (v.stack k).isEmpty)
  w32 (v.sched.ready.length + (idle.foldl (fun n k => n + 2 ^ k) 0) * 2 ^ 16)

/-- After a change of the cores that are present, each idle one may take a ready item, and items that none may run are found
(R261, R272, R281) (log entry 66). -/
def Vp.coresChanged (v : Vp) : Vp :=
  let v := v.sched.ready.foldl Vp.checkNoCore v
  (cores.filter (fun k => v.present k && (v.stack k).isEmpty)).foldl (fun v k => v.post (.take k)) v

/-- `SCHED_SELF` as core `k`, 16 for the MC, reads it (R286). -/
def Vp.schedSelf (v : Vp) (k : Nat) : Word :=
  match v.stack k with
  | [] => w32 k
  | w :: r => w32 (k + w * 256 + v.prio w * 2 ^ 20 + (r.length + 1) * 2 ^ 23)

end Sys2Proof.Machine
end

