-- ==== Sys2Proof/Machine/Clk.lean ====
section
/-!
DEFINITION. Clocks, power domains and resets of the VP (R455 to R477), the seal (R387 to R391), and test access (R493).
-/

namespace Sys2Proof.Machine

/-! ### Power domains (R465 to R468) -/

/-- The domain of a global VP address (R465): the shared registers of a block lie in FABRIC, those of a lane with it. -/
def domOf (a : Nat) : Nat :=
  if a / 0x100000 = 0x100 then
    match a / 0x10000 % 16 with
    | 0 | 1 | 2 => 0
    | 13 | 15 => 1
    | 4 => 7
    | 5 => 8
    | 7 =>
      let o := a % 0x10000
      if 0x1000 ≤ o ∧ o < 0x3800 then laneDom ((o - 0x1000) / 0x100) else 6
    | 8 => 10
    | 9 => 9
    | 10 => 15
    | 12 => 14
    | _ => 6
  else if a < 0x01000000 then 1
  else if a < 0x02000000 then 6
  else if a < 0x03000000 then 9
  else if a < 0x04000000 then 8
  else if a < 0x04800000 then 0
  else if a < 0x08000000 then 1
  else
    let k := (a - 0x08000000) / 0x20000
    if k < 16 then 2 + k / 4 else 1

/-- A domain is ready: it is on and its memories are cleared (R467). -/
def Vp.domOn (v : Vp) (d : Nat) : Bool := v.bit Reg.SYS_PWR_STAT d

/-- The block whose fault state lies in a switchable domain; 16 for none. -/
def domBlock (d : Nat) : Nat :=
  match d with
  | 9 => 9
  | 10 => 8
  | 14 => 12
  | 15 => 10
  | _ => 16

/-- What a domain holds is lost as it is switched off: registers at reset values, memories at zero (R467)
(log entry 117). -/
def Vp.clearDom (v : Vp) (d : Nat) : Vp :=
  let b := domBlock d
  let v := { v with
    regs := v.regs.filter (fun p => domOf p.1 != d)
    mem := v.mem.filter (fun p => domOf p.1 != d)
    flt := { v.flt with
      pend := v.flt.pend.filter (fun p => p.1 / 256 != b)
      last := v.flt.last.filter (fun p => p.1 != b)
      cap := v.flt.cap.filter (fun p => p.1 != b) }
    lanes := { v.lanes with lanes := v.lanes.lanes.filter (fun p => laneDom p.1 != d) } }
  match d with
  | 2 | 3 | 4 | 5 => { v with sched := { v.sched with cpu := v.sched.cpu.filter (fun p => 2 + p.1 / 4 != d) } }
  | 9 => { v with acq := {} }
  | 10 => { v with adc := {}, adcDone := false }
  | 14 => { v with peer := {}, lanes := { v.lanes with mseq := 0, aligned := 0, clear := [], dsk := [] } }
  | 15 => { v with grid := {}, gridWords := [] }
  | _ => v

/-- Does a core of CPU domain `d` keep it on: enabled, or with an item (R467)? -/
def Vp.cpuHeld (v : Vp) (d : Nat) : Bool :=
  cores.any (fun k => 2 + k / 4 == d && (v.bit (Reg.SCHED_CORE_CFG k) 0 || !(v.stack k).isEmpty))

/-- May domain `d` not be switched off, when the domains `off` are switched off with it (R467)? -/
def Vp.domHeld (v : Vp) (off : List Nat) (d : Nat) : Bool :=
  match d with
  | 2 | 3 | 4 | 5 =>
    v.cpuHeld d
      || (cores.any (fun k => v.present k && 2 + k / 4 == d)
        && cores.all (fun k => !v.present k || off.contains (2 + k / 4)))
  | 9 => v.bit Reg.ACQ_CFG 0 || (List.range 16).any v.strOn
  | 10 => v.fld Reg.ADC_CH_EN 0 16 != 0
  | 11 => v.fld Reg.RING_EN 0 8 != 0
  | 12 => v.fld Reg.RING_EN 8 8 != 0
  | 13 => portIds.any (fun p => v.bit (Reg.HOST_P_CFG p) 0) || v.bit Reg.TIME_PTP_CFG 2
  | 14 => v.paired || v.fld Reg.LANE_PEER_CFG 0 4 != 0
  | 15 =>
    (List.range 4).any (fun k => v.bit (Reg.GRID_TR_CFG k) 0)
      || (List.range 8).any (fun j => v.bit (Reg.GRID_TLI_CFG j) 0)
      || (List.range 4).any (fun o => v.bit (Reg.GRID_TLO_CFG o) 0)
  | _ => true

/-- The domains that a value of `SYS_PWR_CFG` would switch off. -/
def Vp.domsOff (v : Vp) (w : Word) : List Nat :=
  (List.range 16).filter (fun d => v.bit Reg.SYS_PWR_CFG d && !Machine.bit w d)

/-- Is a write of `SYS_PWR_CFG` refused (R467)? -/
def Vp.pwrRefused (v : Vp) (w : Word) : Bool :=
  let off := v.domsOff w
  off.any (v.domHeld off)

/-- A write of `SYS_PWR_CFG` takes effect (R467): what it switches off is lost; what it switches on is ready later
(log entry 117). -/
def Vp.pwrWrite (v : Vp) (w : Word) : Vp :=
  let off := v.domsOff w
  let v := off.foldl (fun v d => (v.clearDom d).setBit Reg.SYS_PWR_STAT d false) v
  ((v.setFld Reg.SYS_PWR_CFG 0 16 (Machine.fld w 0 16)).lanesSync).coresChanged

/-- A domain switched on has been cleared and is ready (R467). -/
def Vp.domReady (v : Vp) (d : Nat) : Vp :=
  if decide (d < 16) && v.bit Reg.SYS_PWR_CFG d && !v.domOn d then
    ((v.setBit Reg.SYS_PWR_STAT d true).lanesSync).coresChanged
  else v

/-- An access to a domain that is not ready is counted (R468) (log entry 36). -/
def Vp.pwrAccess (v : Vp) : Vp := (v.addFld Reg.SYS_PWR_STAT 16 16 1).setBit Reg.SYS_STICKY 1 true

/-! ### Spreading (R461, R462) -/

/-- The depth of the profile that `LANE_SPREAD` selects, in ppm; 0 while it is disabled. -/
def Vp.spreadGoal (v : Vp) : Nat :=
  if v.bit Reg.LANE_SPREAD 0 then
    let p := v.fld Reg.LANE_SPREAD 1 3
    if p = 1 then 3000 else if p < 4 then 5000 else v.fld (Reg.CLK_SSC_PROF (p - 4)) 0 6 * 100
  else 0

/-- The depth in force in ppm: from the ramp's start towards the target at RATE ppm per ms (R462). The spec states no
rounding (log entry 8) (log entries 46, 119). -/
def Vp.depth (v : Vp) : Nat :=
  let c := v.clk
  let d := (divAny 54 ((v.fld Reg.CLK_RAMP 0 10 * (v.up - c.since) : Nat) : Int) 250000).toNat
  if c.from_ ≤ c.target then min (c.from_ + d) c.target else max (c.from_ - d) c.target

/-- A register of the ramp is written by `f`: the ramp goes on from the depth in force (R462). -/
def Vp.rampWrite (v : Vp) (f : Vp → Vp) : Vp :=
  let d := v.depth
  let v := f v
  { v with clk := { v.clk with from_ := d, target := v.spreadGoal, since := v.up } }

/-- The depth has reached its target (R462). -/
def Vp.rampDone (v : Vp) : Vp := { v with clk := { v.clk with from_ := v.clk.target, since := v.up } }

/-- `CLK_STAT` (R476). -/
def Vp.clkStat (v : Vp) : Word :=
  let d := v.depth
  w32 (b2n (v.clk.locked && !v.clk.lost) + 2 * b2n (v.clk.from_ != v.clk.target)
    + 4 * b2n (v.bit Reg.LANE_SPREAD 0 || d != 0) + 8 * b2n (v.bit Reg.CLK_SYNC_CFG 0) + d % 8192 * 65536)

/-- `SYS_PINS` (R475). -/
def Vp.sysPins (v : Vp) : Word :=
  w32 (b2n v.boot.role + 2 * b2n v.boot.partnerFail + v.trip.pins % 16 * 4 + 64 * b2n v.boot.failN
    + 128 * b2n v.trip.out)

/-! ### The cycle guard, `SYNC_IN` and the PLLs (R459, R460, R463) -/

/-- A flag of `CLK_STICKY`. -/
def Vp.clkSticky (v : Vp) (i : Nat) : Vp := v.setBit Reg.CLK_STICKY i true

/-- The cycle guard closes a gate without a loss of lock (R459). -/
def Vp.guardClose (v : Vp) : Vp := ((v.inc Reg.CLK_GUARD_CNT).clkSticky 1).raise 1 0xFF 1 cor Reg.CLK_GUARD_CNT

/-- An operation in which the cycle guard may close a gate. -/
def Vp.guarded (v : Vp) (g : Bool) : Vp := if g then v.guardClose else v

/-- A filtered edge of `SYNC_IN` (R463): taken while ARM is set, with 1 µs (250 ticks) between two edges taken
(log entries 44, 119). -/
def Vp.syncIn (v : Vp) (rising guard : Bool) : Vp :=
  if rising = v.bit Reg.CLK_SYNC_CFG 1 then v
  else
    let early := match v.clk.syncAt with
      | some t => decide (v.up < t + 250)
      | none => false
    if !v.bit Reg.CLK_SYNC_CFG 0 || early then (v.addFld Reg.CLK_SYNC_STAT 16 16 1).clkSticky 2
    else
      let v := v.setBit Reg.CLK_SYNC_CFG 0 false
      let v := (v.addFld Reg.CLK_SYNC_STAT 0 16 1).clkSticky 3
      let v := { v with clk := { v.clk with syncAt := some v.up, outOrigin := v.up
                                            origin := if v.launched then v.clk.origin else v.up } }
      v.guarded guard

/-- The root PLL loses lock (R460): a device-level fatal fault; the AON logic acts although every clock has stopped. -/
def Vp.rootLost (v : Vp) : Vp :=
  if !v.clk.locked || v.clk.lost then v
  else
    let v := { v with clk := { v.clk with lost := true } }
    let v := v.satFld Reg.CLK_LOSS_CNT 0 8
    let v := v.setFld Reg.TIME_STATE 0 3 0
    let v := { v with time := { v.time with ppsOut := false } }
    let v := { v with txOff := true, boot := { v.boot with failN := true }, trip := { v.trip with out := true } }
    v.raise 1 0xFF 2 fat Reg.CLK_LOSS_CNT

/-- The root PLL declares lock again (R460): with it the MC can write its dump, if it comes within 10 ms. -/
def Vp.rootRelock (v : Vp) (within : Bool) : Vp :=
  if !v.clk.lost then v
  else
    let v := { v with clk := { v.clk with lost := false } }
    if within then v else v.setBit Reg.SYS_FATAL 15 true

/-- A quad PLL declares lock, at first or again (R160): the enabled lanes of the quad train. -/
def Vp.quadLock (v : Vp) (q : Nat) : Vp :=
  if decide (10 ≤ q) || v.bit Reg.LANE_QPLL_STAT q || v.lanes.quadsGone.testBit q then v
  else
    let v := v.setBit Reg.LANE_QPLL_STAT q true
    (laneIds.filter (fun l => quadOf l == q && v.laneEn l)).foldl
      (fun v l => v.setLane l ((v.lane l).trainStart)) v

/-! ### The seal (R387 to R391) -/

/-- The pins indicate open (R387). -/
def Vp.sealPins (v : Vp) : Bool := v.bit Reg.HOST_SEAL 1 && !v.bit Reg.HOST_SEAL 2

/-- AGREE_MS (R393): ms for which the pins have indicated open. -/
def Vp.agreeMs (v : Vp) : Nat :=
  match v.host.openSince with
  | some t => min ((v.up - t) / 250000) 65535
  | none => 0

/-- `HOST_SEAL` (R393). -/
def Vp.sealReg (v : Vp) : Word := Machine.setFld (v.reg Reg.HOST_SEAL) 16 16 v.agreeMs

/-- A journal entry of the seal: one of each kind in a second, the rest counted (R390) (log entry 109). -/
def Vp.sealJrnl (v : Vp) (type : Nat) : Vp :=
  if sget (fun _ => 0) v.host.sealJrnl type = v.sec + 1 then v.inc Reg.HOST_JRNL_SUPP
  else
    let v := { v with host := { v.host with sealJrnl := sset (fun _ => 0) v.host.sealJrnl type (v.sec + 1) } }
    v.journal type 11 0xFF 0 v.sealReg.toNat 0 0

/-- A change of the seal's state: the cause, the SEAL entry and the journal entry (R385, R390, R393). -/
def Vp.sealChanged (v : Vp) (type : Nat) : Vp :=
  let s := v.reg Reg.HOST_SEAL
  (((v.hostInt 3).hostEntry 8 0 (b2n (Machine.bit s 0) + 2 * b2n (Machine.bit s 3) + 4 * b2n (Machine.bit s 4)))).sealJrnl
    type

/-- A filtered change of the seal pins, and whether the chatter detector fires with it (R387) (log entries 5, 110). -/
def Vp.sealPinChange (v : Vp) (a b chatter : Bool) : Vp :=
  let was := v.reg Reg.HOST_SEAL
  let v := ((v.setBit Reg.HOST_SEAL 1 a).setBit Reg.HOST_SEAL 2 b).setBit Reg.HOST_SEAL 3 (a == b)
  let v := { v with host := { v.host with
    openSince := if a && !b then (if v.host.openSince.isSome then v.host.openSince else some v.up) else none } }
  let v := if a == b && !Machine.bit was 3 then (v.hostSticky 5).sealJrnl 6 else v
  if chatter && !Machine.bit was 4 then ((v.setBit Reg.HOST_SEAL 4 true).hostSticky 6).sealJrnl 7 else v

/-- Neither pin has made an edge for 1 s (R387) (log entry 17). -/
def Vp.sealQuiet (v : Vp) : Vp := v.setBit Reg.HOST_SEAL 4 false

/-- The seal opens: the pins have indicated open for 100 ms, and the detector has not fired (R388) (log entry 17); not after
an uncorrectable error in the seal logic (R394). -/
def Vp.sealOpens (v : Vp) : Vp :=
  if v.sealOpen || !v.sealPins || v.bit Reg.HOST_SEAL 4 || v.host.sealBad then v
  else (v.setBit Reg.HOST_SEAL 0 true).sealChanged 4

/-- A gated instruction of the test access port falls back to BYPASS (R493) (log entry 118). -/
def Tap.sealed : Tap → Tap
  | .extest | .extestPulse | .extestTrain | .debug => .bypass
  | t => t

/-- Every frozen cell is released as the seal closes (R109, R389): the VP broadcasts FREEZE = 0, with the ring's
safe code, to the cells of every running ring (log entry 110). -/
def Vp.releaseFreeze (v : Vp) : Vp :=
  ringIds.foldl (fun v m =>
    if v.ringSt m = 3 then
      v.mgSend m
        { dest := 0, bcast := true, opc := 1, addr := Reg.CN_PROT_FRZ, words := [w32 (v.fld (Reg.RING_CFG m) 16 10 * 65536)]
          odd := true, first := false, use := .prot }
    else v) v

/-- The seal counts as closed from here on (R389). -/
def Vp.sealShut (v : Vp) : Vp :=
  let v := (v.setBit Reg.HOST_SEAL 0 false).sealChanged 5
  let v := v.releaseFreeze
  { v with clk := { v.clk with tap := v.clk.tap.sealed } }

/-- The seal closes (R388, R389): an image operation under way stops (log entry 110). -/
def Vp.sealCloses (v : Vp) : Vp :=
  if !v.sealOpen || (v.sealPins && !v.bit Reg.HOST_SEAL 4) then v else v.sealShut

/-- An instruction is loaded into the VP's test access port (R493) (log entry 118). -/
def Vp.tapLoad (v : Vp) (t : Tap) : Vp :=
  { v with clk := { v.clk with tap := if v.sealOpen && !(t == .debug && v.isRemoved 15 0xFF) then t else t.sealed } }

/-! ### Resets (R471 to R473) -/

/-- What a power-on reset leaves: the journal, the flash, and nothing else (R472) (log entry 5). -/
def Vp.powerOn (v : Vp) (role : Bool) : Vp :=
  let w : Vp := { jrnl := v.jrnl, jrnlSec := v.jrnlSec, flash := v.flash
                  boot := { role := role }
                  clk := { tap := v.clk.tap.sealed }
                  free := v.free }
  (w.setReg Reg.SYS_JRNL (Machine.setFld 0 0 13 (v.fld Reg.SYS_JRNL 0 13))).setReg Reg.SYS_JRNL_SEQ
    (v.reg Reg.SYS_JRNL_SEQ)

/-- `SYS_RST_CAUSE` after a warm reset (R475) (log entries 90, 115). -/
def Vp.warmCause (v : Vp) : Nat :=
  let old := (v.reg Reg.SYS_RST_CAUSE).toNat
  let n := (old / 2 ^ 17 + 1) % 2 ^ 15 * 2 ^ 17
  if v.fatal then
    let f := v.reg Reg.SYS_FATAL
    let dumped := Machine.bit f 13 || Machine.bit f 14
    n + 2 + 4 + Machine.fld f 1 4 * 8 + Machine.fld f 5 8 * 128 + b2n (!dumped) * 2 ^ 15
      + b2n (Machine.fld f 1 4 == 1) * 2 ^ 16
  else n + 2 + old / 4 % 2 ^ 15 * 4

/-- The registers that a warm reset keeps: CLK but for its fault registers, INC, STATE, SRC and ANOM_RUN, the journal's place (R192,
R472, R476) (log entries 43, 145). -/
def warmKept (a : Nat) : Bool :=
  (a / 0x10000 == 0x1001 && decide (a % 0x10000 < 0xFF00)) || a == Reg.TIME_INC0 || a == Reg.TIME_INC1
    || a == Reg.SYS_JRNL_SEQ

/-- What a warm reset leaves (R472) (log entries 5, 43, 46, 116, 145). -/
def Vp.warmed (v : Vp) : Vp :=
  let w : Vp :=
    { regs := v.regs.filter (fun p => warmKept p.1), ret := v.ret, up := v.up, tai := v.tai, jrnl := v.jrnl
      jrnlSec := v.jrnlSec, jrnlCnt := v.jrnlCnt, flash := v.flash
      time := { freq := v.time.freq, alive := v.time.alive, run := v.time.run, lock := v.time.lock
                series := v.time.series }
      trip := { last := v.trip.last, toPeer := v.trip.toPeer }
      txOff := true
      clk := { v.clk with from_ := v.depth, target := 0, since := v.up, tap := v.clk.tap.sealed }
      boot := { run := .warmHeld, warm := true, role := v.boot.role, failN := false }
      free := v.free }
  let w := w.setReg Reg.SYS_JRNL (Machine.setFld 0 0 13 (v.fld Reg.SYS_JRNL 0 13))
  let w := (w.setFld Reg.TIME_STATE 0 3 v.timeState).setFld Reg.TIME_STATE 4 2 v.timeSrc
  let w := w.setFld Reg.TIME_STATE 10 2 (v.fld Reg.TIME_STATE 10 2)
  w.setReg Reg.SYS_RST_CAUSE (w32 v.warmCause)

/-- A warm reset starts (R471 to R473): in single-VP mode and solo a burst leaves first. `BOOT_TRY` as written before
the reset chooses the slot that the MC tries first (R442) (log entry 116). -/
def Vp.warmReset (v : Vp) : Vp :=
  if v.boot.run = .warmHeld then v
  else
    let v := if v.pairMode || v.clk.lost then v else v.tripOwn 32
    let try_ := v.reg Reg.BOOT_TRY
    let v := v.warmed
    if Machine.bit try_ 0 then v.setReg Reg.BOOT_TRY (w32 (Machine.fld try_ 0 2)) else v

/-- The MC starts from the boot ROM (R446): it enters the reset in the journal (R413), and a fatal fault before it of
which it wrote no dump (R409); the capture of that fault has been cleared, so its words are open (log entry 9)
(log entries 115, 116). -/
def Vp.mcStart (v : Vp) : Vp :=
  let c := (v.reg Reg.SYS_RST_CAUSE).toNat
  let v := { v with txOff := false, boot := { v.boot with run := .on, failN := false } }
  let v := v.setFld Reg.BOOT_STAT 4 4 1
  let v := v.journal 1 13 0xFF 0 c v.frameNo 0
  if v.boot.warm && c.testBit 2 && c.testBit 15 then
    { v.journal 2 (c / 8 % 16) (c / 128 % 256) 3 (Config.openNat 10 v.free) (Config.openNat 11 v.free) 0 with
      free := v.free + 1 }
  else v

/-- A warm reset is released (R471). -/
def Vp.warmRelease (v : Vp) : Vp :=
  if v.boot.run ≠ .warmHeld then v
  else
    let v := { v with boot := { v.boot with run := .waitRoot, rel := v.up } }
    if v.clk.locked && !v.clk.lost then v.mcStart else v

/-- The root PLL declares lock after a power-on reset (R456, R457): the dividers start at phase zero. -/
def Vp.rootLock (v : Vp) : Vp :=
  if v.clk.locked then v
  else
    let v := { v with clk := { v.clk with locked := true, lost := false, origin := v.up, outOrigin := v.up } }
    if v.boot.run = .waitRoot then v.mcStart else v

/-- Do the clocks of the VP run, so that it acts (R457, R460, R471)? -/
def Vp.runs (v : Vp) : Bool := v.boot.run == .on && v.clk.locked && !v.clk.lost

/-- A PLL of the VP declares loss of lock: `q` is the quad, 10 for the root. -/
def Vp.pllLost (v : Vp) (q : Nat) (guard : Bool) : Vp :=
  let v := v.guarded guard
  if q = 10 then v.rootLost else v.quadLost q

/-- A PLL of the VP declares lock again. -/
def Vp.pllRelock (v : Vp) (q : Nat) (guard within : Bool) : Vp :=
  if q = 10 then
    let v := v.rootRelock within
    if v.clk.locked ∧ v.boot.run = .waitRoot then v.mcStart else v.guarded (guard && v.runs)
  else (v.quadLock q).guarded guard

end Sys2Proof.Machine
end

