-- ==== Sys2Proof/Machine/Refuse.lean ====
section
/-!
DEFINITION. The writes that the registers' chapters refuse: reserved codes and values outside a stated range, which
depend on the value alone, and the rules that depend on the state; and the flag that a refusal sets.
-/

namespace Sys2Proof.Machine

/-- Is `x` outside `lo` to `hi`? -/
def out (lo hi x : Nat) : Bool := decide (x < lo) || decide (hi < x)

/-! ### Values refused whatever the state -/

/-- ARM (R76) (log entry 31). -/
def badArm (o : Nat) (w : Word) : Bool :=
  decide (o < 0xC00) && o % 0x100 == 0 && (fld w 2 2 == 3 || fld w 4 2 == 3 || decide (fld w 16 8 < 2))

/-- RING (R155). -/
def badRing (o : Nat) (w : Word) : Bool :=
  if o = 0x24 then out 10 1000 (fld w 0 16) || out (fld w 0 16) 60000 (fld w 16 16)
  else decide (0x1000 ≤ o) && o % 0x100 == 0 && out 1 256 (fld w 0 9)

/-- LANE (R164, R187). -/
def badLane (o : Nat) (w : Word) : Bool :=
  if o = 0x8 then out 1 100 (fld w 16 8)
  else if o = 0xC then out 10 10000 (fld w 0 16) || out 100 60000 (fld w 16 16)
  else if o < 0x1000 then false
  else match o % 0x100 with
    | 0 => fld w 3 2 == 3 || fld w 5 2 == 3
    | 4 => txeqRefused w
    | 8 => rxcfgRefused w
    | _ => false

/-- TIME (R228). -/
def badTime (o : Nat) (w : Word) : Bool :=
  match o with
  | 0x1C => fld w 12 4 == 0
  | 0x20 | 0x24 | 0x28 => fld w 8 8 == 0 || fld w 16 16 == 0
  | 0x50 => fld w 4 2 == 3
  | 0x68 => out 1 4000 (fld w 8 12) || fld w 24 4 == 0
  | 0xA8 => out 250 4000 (fld w 0 12)
  | _ => false

/-- LOOP slots (R235, R257). -/
def badSlot (r : Nat) (w : Word) : Bool :=
  match r with
  | 0 => decide (11 < fld w 10 4) || (bit w 1 && bit w 2 && bit w 3)
  | 4 => !srcOk (fld w 0 10) || !srcOk (fld w 16 10)
  | 8 => !srcOk (fld w 0 10) || (bit w 12 && !srcWaitable (fld w 0 10))
  | _ => false

/-- LOOP tuners, whose amplitude and hysteresis are positive (R252 to R257). -/
def badTune (r : Nat) (w : Word) : Bool :=
  match r with
  | 0x14 | 0x18 => bit w 31
  | 0x20 => fld w 4 4 == 0 || fld w 16 16 == 0
  | _ => false

/-- LOOP routes (R235, R243) (log entry 78). -/
def badRoute (r : Nat) (w : Word) : Bool :=
  match r with
  | 0 => !srcOk (fld w 0 10) || (bit w 16 && decide (fld w 0 10 < 0x200))
  | 0xC => !srcOk (fld w 0 10)
  | _ => false

/-- LOOP. -/
def badLoop (o : Nat) (w : Word) : Bool :=
  if o < 0x6000 then badSlot (o % 0x30) w
  else if o < 0xE000 then false
  else if o < 0xE800 then badTune (o % 0x40) w
  else decide (0xF100 ≤ o) && decide (o < 0xF1C0) && badRoute (o % 0x10) w

/-- SCHED (R276, R286). -/
def badSched (o : Nat) (w : Word) : Bool :=
  if o = 0xC ∨ o = 0x10 then fld w 0 16 == 0 || decide (fld w 0 16 ≤ fld w 16 16)
  else if o = 0x14 then decide (8 < fld w 4 4)
  else if 0x100 ≤ o ∧ o < 0x500 then
    match o % 0x40 with
    | 0x8 => w.toNat % 16 != 0 || out 0x06010000 0x0601F700 w.toNat
    | 0xC => out 0x06010000 0x0601F6FF w.toNat
    | _ => false
  else false

/-- ADC (R312). -/
def badAdc (o : Nat) (w : Word) : Bool :=
  if o = 4 then fld w 4 4 == 0 || fld w 8 10 == 0
  else if o = 8 then fld w 16 8 == 0
  else decide (0x1000 ≤ o) && decide (o < 0x1400) && o % 0x40 == 0x1C && decide (8 < fld w 0 4)

/-- ACQ (R315, R321, R322, R340). -/
def badAcq (o : Nat) (w : Word) : Bool :=
  if 0x100 ≤ o ∧ o < 0x180 then o % 0x10 == 0 && dcRefused ((o - 0x100) / 0x10) w
  else if 0x200 ≤ o ∧ o < 0x400 then o % 0x20 == 0 && (fld w 1 2 == 3 || decide (24 ≤ fld w 3 5))
  else if 0x600 ≤ o ∧ o < 0xA00 then
    match o % 0x40 with
    | 0xC => fld w 0 22 == 0
    | 0x14 => out 1 1024 (fld w 16 11)
    | _ => false
  else if o = 0xC00 then fld w 11 2 == 3
  else o == 0xC0C && fld w 0 16 == 0

/-- GRID (R347, R358). -/
def badGrid (o : Nat) (w : Word) : Bool :=
  if 0x100 ≤ o ∧ o < 0x200 then
    match o % 0x40 with
    | 0 => [4, 9, 14].any (fun lo => decide (24 ≤ fld w lo 5)) || fsOf (bit w 1) (fld w 20 3) == 0
    | 4 => out 4 80 (fld w 0 7)
    | _ => false
  else decide (0x400 ≤ o) && decide (o < 0x500) && o % 0x20 == 0 && decide (fld w 16 16 < 2)

/-- HOST (R361, R393). -/
def badHost (o : Nat) (w : Word) : Bool :=
  if o = 0 then decide (fld w 0 16 < 0x600) || fld w 0 16 == 0x88F7
  else if o = 4 then decide (fld w 0 24 < 2)
  else if o = 8 then out 10 60000 (fld w 0 16)
  else if 0x100 ≤ o ∧ o < 0x200 then
    match o % 0x40 with
    | 0 => bit w 4 && !bit w 2
    | 0x2C => out 1 1024 (fld w 0 11)
    | _ => false
  else false

/-- CLK (R462, R476). -/
def badClk (o : Nat) (w : Word) : Bool :=
  if o = 4 then out 1 1000 (fld w 0 10)
  else if 0x20 ≤ o ∧ o < 0x30 then
    out 10 1000 (fld w 1 10) || fld w 1 10 % 2 == 1 || decide (fld w 1 10 ≤ fld w 16 10)
  else decide (0x40 ≤ o) && decide (o < 0x50) && (out 1 50 (fld w 0 6) || decide (30 < fld w 8 5))

/-- Is a write of `w` to the register at `a` refused for its value alone? (log entry 29) -/
def valueRefused (a : Nat) (w : Word) : Bool :=
  let o := a % 0x10000
  match a / 0x10000 % 16 with
  | 0 => o == 0x400 && fld w 16 16 == 0
  | 1 => badClk o w
  | 2 => badTime o w
  | 3 => badSched o w
  | 4 => badLoop o w
  | 5 => badArm o w
  | 6 => badRing o w
  | 7 => badLane o w
  | 8 => badAdc o w
  | 9 => badAcq o w
  | 10 => badGrid o w
  | 11 => badHost o w
  | 12 => o == 0 && (out 96 255 (fld w 8 8) || fld w 16 4 == 0)
  | _ => false

/-- A write to a WO register that acts only with a key lacks it; a host's item with such a value fails (R373)
(log entry 106). -/
def keyMissing (a : Nat) (w : Word) : Bool :=
  (a == Reg.RING_URG_CMD || a == Reg.TIME_SET_CMD || a == Reg.BOOT_RETCLR) && fld w 16 16 != 0xA5

/-! ### Rules that depend on the state -/

/-- SAMPLE_LEAD and APPLY_OFFSET of every arm meet R22, given as they would stand. -/
def Vp.timesOk (v : Vp) (lead : Nat) (apply : Nat → Nat) : Bool :=
  !out 250 4000 lead
    && armIds.all (fun k => !out 500 (v.fp - 500) (apply k) && decide (lead + apply k + 250 ≤ v.fp))

/-- The rings that a change of SAMPLE_LEAD or APPLY_OFFSET concerns: all that run for the lead, an arm's for its
APPLY_OFFSET (R31). -/
def Vp.timeRings (v : Vp) (a : Nat) : List Nat :=
  ringIds.filter (fun m => v.ringSt m == 3
    && (a == Reg.TIME_SLEAD || (v.armOfRing m).any (fun k => a == Reg.TIME_APPLY k)))

/-- The cells of a ring that must confirm such a change: configured, and not retired, lost or dark (R31). -/
def Vp.timeCells (v : Vp) (m : Nat) : List Nat :=
  (v.cellsOfRing m).filter (fun c =>
    (v.ring m).cfgDone.contains (c % 256) && !v.isRetired c && !(v.ring m).dark.contains (c % 256)
      && !(match v.armOfRing m with
        | some k => decide (v.unackLimit k ≤ v.cf c 3 16 8)
        | none => false))

/-- A write of `TIME_SLEAD` or of a `TIME_APPLY` is refused (R22, R27, R31): once frames run, every arm must be blocked,
the new APPLY_OFFSET must meet R27, and every cell concerned must have confirmed the change for this boundary. While the
image's REG sections are written each is tested for its own range, and all together at their end (log entry 35). -/
def Vp.timeRefused (v : Vp) (a : Nat) (w : Word) : Bool :=
  if v.fld Reg.BOOT_STAT 4 4 = 3 then
    (if a = Reg.TIME_SLEAD then out 250 4000 (Machine.fld w 0 12) else out 500 (v.fp - 500) (Machine.fld w 0 16))
  else
  let lead := if a = Reg.TIME_SLEAD then Machine.fld w 0 12 else v.fld Reg.TIME_SLEAD 0 12
  let apply := fun k => if a = Reg.TIME_APPLY k then Machine.fld w 0 16 else v.fld (Reg.TIME_APPLY k) 0 16
  !v.timesOk lead apply
    || (v.launched
      && (!v.allBlocked
        || (v.timeRings a).any (fun m => a != Reg.TIME_SLEAD
            && !applyOk (Machine.fld w 0 16) (v.reg (Reg.RING_TDN m)).toNat (v.reg (Reg.RING_TUP m)).toNat)
        || ((v.timeRings a).any (fun m => !(v.timeCells m).isEmpty)
            && !(v.timeAt == v.frameNo && v.timeGot == v.timeNeed))))

/-- ARM (R72, R76) (log entry 31). -/
def Vp.armRefused (v : Vp) (o : Nat) (w : Word) : Bool :=
  let e := o / 0x100
  if 0xC00 ≤ o then false
  else match o % 0x100 with
    | 0 => v.armRuns e && Machine.bit w 0 != v.bit (Reg.ARM_CFG e) 0
    | 4 =>
      v.armRuns e || decide (8 < popc 16 (Machine.fld w 0 16))
        || armIds.any (fun k => k != e && (v.fld (Reg.ARM_RINGMAP k) 0 16 &&& Machine.fld w 0 16) != 0)
        || decide (2048 < ((ringIds.filter (Machine.bit w)).flatMap v.cellsOfRing).length)
    | 0x44 =>
      let c := Machine.fld w 17 12
      Machine.bit w 31 && !((v.ringsOf e).contains (c / 256) && decide (c % 256 < v.ncell (c / 256)))
    | _ => false

/-- LANE (R181, R187). -/
def Vp.laneRefused (v : Vp) (o : Nat) (w : Word) : Bool :=
  if o < 0x1000 then false
  else
    let l := (o - 0x1000) / 0x100
    match o % 0x100 with
    | 0 => v.laneCfgRefused l w
    | 0x24 => v.lanePwrRefused l w
    | _ => false

/-- LOOP (R238, R242, R245, R252). The active bank is tested at a boundary: the image writes both banks before the first
frame (R256) (log entries 32, 64). -/
def Vp.loopRefused (v : Vp) (o : Nat) (w : Word) : Bool :=
  if o < 0x6000 then
    let i := o / 0x30
    let waits := fun (s1 : Word) (ref fb : Nat) =>
      (Machine.bit s1 10 && !srcWaitable ref) || (Machine.bit s1 11 && !srcWaitable fb)
    match o % 0x30 with
    | 4 => waits (v.reg (Reg.LOOP_SLOT_SRC1 i)) (Machine.fld w 0 10) (Machine.fld w 16 10)
    | 8 => waits w (v.fld (Reg.LOOP_SLOT_SRC0 i) 0 10) (v.fld (Reg.LOOP_SLOT_SRC0 i) 16 10)
    | 0x10 => v.bit (Reg.LOOP_SLOT_CFG i) 0
    | _ => false
  else if o < 0xA000 then v.launched && !v.bit (Reg.LOOP_SLOT_CFG ((o - 0x6000) / 0x20)) 8
  else if o < 0xE000 then v.launched && v.bit (Reg.LOOP_SLOT_CFG ((o - 0xA000) / 0x20)) 8
  else if o < 0xE800 then o % 0x40 == 0x10 && Machine.bit w 8 && v.tuneRefused ((o - 0xE000) / 0x40) (Machine.fld w 0 4)
  else o == 0xF000 && out 1100 (v.fp - 1800) (Machine.fld w 0 16)

/-- SCHED (R265, R283) (log entry 30). -/
def Vp.schedRefused (v : Vp) (o : Nat) (w : Word) : Bool :=
  let trc := fun (size base : Nat) =>
    let n := 0x1000 * 2 ^ size
    base % n != 0 || decide (base < 0x01000000) || decide (0x01400000 < base + n)
  if o = 0x14 then trc (Machine.fld w 4 4) (v.reg Reg.SCHED_TRC_BASE).toNat
  else if o = 0x18 then trc (v.fld Reg.SCHED_TRC_CFG 4 4) w.toNat
  else if 0x2000 ≤ o ∧ o < 0x6000 then
    let i := (o - 0x2000) / 4
    v.wiRefused i w (v.reg (Reg.SCHED_WI_ENTRY i))
  else if 0x6000 ≤ o ∧ o < 0xA000 then
    let i := (o - 0x6000) / 4
    v.wiRefused i (v.reg (Reg.SCHED_WI_CFG i)) w
  else false

/-- ADC (R308, R310, R311). -/
def Vp.adcRefused (v : Vp) (o : Nat) (w : Word) : Bool :=
  if o = 4 then
    decide (Machine.fld w 4 4 * v.fp < Machine.fld w 18 14 * 8 + Machine.fld w 8 10 * 32 + 200)
  else if 0x1000 ≤ o ∧ o < 0x1400 then
    let c := (o - 0x1000) / 0x40
    let base := (v.reg (Reg.ADC_STR_BASE c)).toNat
    let size := v.fld (Reg.ADC_STR_CFG c) 0 4
    match o % 0x40 with
    | 0 => Machine.bit w 1 && !v.strOn c && v.streamRefused c base size
    | 0x18 => v.strOn c && v.streamRefused c w.toNat size
    | 0x1C => v.strOn c && v.streamRefused c base (Machine.fld w 0 4)
    | _ => false
  else if 0x3000 ≤ o then v.bit Reg.ADC_MODE 1 || (v.adc.busy && v.adc.slice == (o - 0x3000) / 0x20)
  else false

/-- ACQ (R315 to R322, R330). -/
def Vp.acqRefused (v : Vp) (o : Nat) (w : Word) : Bool :=
  if 0x200 ≤ o ∧ o < 0x400 then o % 0x20 == 0 && v.tuRefused ((o - 0x200) / 0x20) w
  else if 0x600 ≤ o ∧ o < 0xA00 then
    let p := (o - 0x600) / 0x40
    match o % 0x40 with
    | 0 => Machine.bit w 0 && (if v.poolOn p then Machine.fld w 0 7 != v.fld (Reg.ACQ_P_CFG p) 0 7 else v.poolRefused p w)
    | 0x20 => v.freeRefused p w
    | _ => v.poolOn p
  else false

/-- The rules that depend on the state. -/
def Vp.stateRefused (v : Vp) (a : Nat) (w : Word) : Bool :=
  let o := a % 0x10000
  match a / 0x10000 % 16 with
  | 0 => o == 0x10 && v.pwrRefused w
  | 2 => (o == 0xA8 || (decide (0x100 ≤ o) && decide (o < 0x130))) && v.timeRefused a w
  | 3 => v.schedRefused o w
  | 4 => v.loopRefused o w
  | 5 => v.armRefused o w
  | 7 => v.laneRefused o w
  | 8 => v.adcRefused o w
  | 9 => v.acqRefused o w
  | 10 => decide (0x100 ≤ o) && decide (o < 0x200) && o % 0x40 == 0 && v.trRefused ((o - 0x100) / 0x40) w
  | 11 =>
    decide (0x100 ≤ o) && decide (o < 0x200) && o % 0x40 == 0x2C && v.bit (Reg.HOST_P_MSG_STAT ((o - 0x100) / 0x40)) 12
  | _ => false

/-- The flag that a refused write sets, where the chapter gives one: a sticky register and its bit (log entry 29). -/
def refusedFlag (a : Nat) : Option (Nat × Nat) :=
  let o := a % 0x10000
  match a / 0x10000 % 16 with
  | 0 => if o = 0x10 then some (Reg.SYS_STICKY, 0) else none
  | 1 => some (Reg.CLK_STICKY, 0)
  | 3 => some (Reg.SCHED_STICKY, 5)
  | 4 =>
    if o < 0x6000 then some (Reg.LOOP_SLOT_STICKY (o / 0x30), 9)
    else if o < 0xA000 then some (Reg.LOOP_SLOT_STICKY ((o - 0x6000) / 0x20), 9)
    else if o < 0xE000 then some (Reg.LOOP_SLOT_STICKY ((o - 0xA000) / 0x20), 9)
    else some (Reg.LOOP_STICKY, 4)
  | 5 => if o < 0xC00 then some (Reg.ARM_STICKY (o / 0x100), 3) else none
  | 6 => if 0x1000 ≤ o then some (Reg.RING_STICKY ((o - 0x1000) / 0x100), 11) else none
  | 7 => if 0x1000 ≤ o then some (Reg.LANE_STICKY ((o - 0x1000) / 0x100), 8) else none
  | 8 => some (Reg.ADC_STICKY, 0)
  | 9 => some (Reg.ACQ_STICKY, 0)
  | 10 => some (Reg.GRID_STICKY, 0)
  | 11 => some (Reg.HOST_STICKY, 0)
  | _ => none

/-- A refused write sets CFG_REFUSED of its block (log entry 29). -/
def Vp.cfgRefused (v : Vp) (a : Nat) : Vp :=
  match refusedFlag a with
  | some (r, i) => v.setBit r i true
  | none => v

end Sys2Proof.Machine
end

