-- ==== Sys2Proof/Machine/Write.lean ====
section
/-!
DEFINITION. What a write of a VP register or memory does once it is accepted, by access code (R7) and register; the
address map (R34, R38); and the writes of cores, which wait for the boundary where the register is staged (R72).
-/

namespace Sys2Proof.Machine

/-- The bits of `mask` of the register at `a` take those of `w`. -/
def Vp.store (v : Vp) (a mask : Nat) (w : Word) : Vp :=
  v.setReg a ((v.reg a &&& ~~~ (w32 mask)) ||| (w &&& w32 mask))

/-! ### Wide values (R8) -/

/-- The values wider than 32 bits: the lowest word's address and the number of words. -/
def wideValues : List (Nat × Nat) :=
  [(Reg.TIME_NOW 0, 4), (Reg.TIME_INC0, 2), (Reg.TIME_PTP_MEAS0, 2), (Reg.TIME_SET 0, 4), (Reg.TIME_EPOCH0, 2),
   (Reg.TIME_FRAME_NO0, 2), (Reg.TIME_STEP0, 2), (Reg.ACQ_LOC_T1 0, 4), (Reg.ACQ_LOC_REM 0, 4), (Reg.HOST_EPOCH0, 2)]
  ++ (List.range 4).map (fun p => (Reg.HOST_P_MAC0 p, 2))

/-- Is `a` a word above the lowest of a wide value? -/
def wideUpper (a : Nat) : Bool := wideValues.any (fun g => decide (g.1 < a) && decide (a < g.1 + 4 * g.2))

/-- Is `a` a word of a wide value below its highest? -/
def wideBelow (a : Nat) : Bool := wideValues.any (fun g => decide (g.1 ≤ a) && decide (a + 4 < g.1 + 4 * g.2))

/-- The words of the wide value of which `a` is the highest, but for `a`. -/
def wideLower (a : Nat) : List Nat :=
  match wideValues.find? (fun g => a + 4 == g.1 + 4 * g.2) with
  | some g => (List.range (g.2 - 1)).map (fun i => g.1 + 4 * i)
  | none => []

/-- A word below the highest of a wide value is written: it waits (R8). -/
def Vp.wideHold (v : Vp) (a mask : Nat) (w : Word) : Vp :=
  let old := (v.wlatch.lookup a).getD (v.reg a)
  { v with wlatch := sput a ((old &&& ~~~ (w32 mask)) ||| (w &&& w32 mask)) v.wlatch }

/-- The highest word is written: the words that wait take effect with it (R8). -/
def Vp.wideTake (v : Vp) (a : Nat) : Vp :=
  (wideLower a).foldl (fun v b =>
    match v.wlatch.lookup b with
    | some w => { v.setReg b w with wlatch := sdel b v.wlatch }
    | none => v) v

/-! ### Effects by block -/

/-- ARM (R40, R73, R76). -/
def Vp.wArm (v : Vp) (a o mask : Nat) (w : Word) : Vp :=
  if o < 0xC00 then
    let e := o / 0x100
    let v := v.store a mask w
    match o % 0x100 with
    | 0 | 4 => v.syncArm e
    | _ => v
  else if o = 0x1008 then v.setReg Reg.ARM_DEC_TIME 0
  else if 0x1100 ≤ o ∧ o < 0x1200 then v.ovrWrite ((o - 0x1100) / 4) w
  else v.store a mask w

/-- A ring that leaves `RING_EN` is disabled: its trains stop, and what the VP knows of it is lost (log entry 33). -/
def Vp.ringOff (v : Vp) (m : Nat) : Vp :=
  ((v.setRing m {}).setFld (Reg.RING_STATE m) 0 2 0).setReg (Reg.RING_BRK m) 0

/-- A write of `RING_EN` (R155, R180). -/
def Vp.ringEn (v : Vp) (w : Word) : Vp :=
  let off := ringIds.filter (fun m => v.bit Reg.RING_EN m && !Machine.bit w m)
  let v := v.setFld Reg.RING_EN 0 16 (Machine.fld w 0 16)
  (off.foldl Vp.ringOff v).lanesSync

/-- RING (R155). -/
def Vp.wRing (v : Vp) (a o mask : Nat) (w : Word) : Vp :=
  match o with
  | 0x0 => v.ringEn w
  | 0x8 => v.tripEn w
  | 0xC => v.urgCmd w
  | 0x108 => v.mgGo
  | _ =>
    if 0x1000 ≤ o ∧ o % 0x100 = 0x38 then
      let m := (o - 0x1000) / 0x100
      let v := if Machine.bit w 0 then v.retrainNow m else v
      if Machine.bit w 1 then v.closeNow m else v
    else v.store a mask w

/-- LANE (R187): a fixed CTLE takes its code at once (log entry 34). -/
def Vp.wLane (v : Vp) (a o mask : Nat) (w : Word) : Vp :=
  if o = 4 then v.rampWrite (fun v => v.store a mask w)
  else if o = 0x10 then (v.store a mask w).lanesSync
  else if o < 0x1000 then v.store a mask w
  else
    let l := (o - 0x1000) / 0x100
    match o % 0x100 with
    | 0 => (v.store a mask w).lanesSync
    | 8 =>
      let v := v.store a mask w
      if Machine.bit w 1 then v.setFld (Reg.LANE_COEF0 l) 0 5 (Machine.fld w 2 5) else v
    | 0x24 => v.lanePwr l w
    | _ => v.store a mask w

/-- TIME (R200, R208, R228). -/
def Vp.wTime (v : Vp) (a o mask : Nat) (w : Word) : Vp :=
  match o with
  | 0x1C => (v.store a mask w).reselect
  | 0x4C => v.ptpMeas (v.reg Reg.TIME_PTP_MEAS0) w
  | 0x90 => v.timeSetGo w
  | _ => v.store a mask w

/-- A write of `LOOP_SLOT_CFG` (R242, R255): a slot that becomes enabled starts afresh; one that becomes disabled ends
its tune. -/
def Vp.slotCfg (v : Vp) (i mask : Nat) (w : Word) : Vp :=
  let c := Reg.LOOP_SLOT_CFG i
  let was := v.bit c 0
  let v := v.store c mask w
  if Machine.bit w 0 && !was then
    { v with loop := { v.loop with first := v.loop.first.filter (· != i) ++ [i] } }
  else if !Machine.bit w 0 && v.bit c 15 then v.tuneEnd (i / 16) 6
  else v

/-- A write of `LOOP_E_TUNE_CTL` (R252, R255): START and STOP act once and read 0. -/
def Vp.tuneCtl (v : Vp) (e : Nat) (w : Word) : Vp :=
  let v := v.setFld (Reg.LOOP_E_TUNE_CTL e) 0 4 (Machine.fld w 0 4)
  let v := if Machine.bit w 9 then v.tuneEnd e 6 else v
  if Machine.bit w 8 then v.tuneStart e (Machine.fld w 0 4) else v

/-- LOOP (R246, R257). -/
def Vp.wLoop (v : Vp) (a o mask : Nat) (w : Word) : Vp :=
  if o < 0x6000 then (if o % 0x30 = 0 then v.slotCfg (o / 0x30) mask w else (v.store a mask w).eccWrite a)
  else if o < 0xE000 then (v.store a mask w).eccWrite a
  else if o < 0xE800 then
    let e := (o - 0xE000) / 0x40
    match o % 0x40 with
    | 0x4 => v.engSwap e w
    | 0x10 => v.tuneCtl e w
    | _ => v.store a mask w
  else if o = 0xF004 then v.allSwap w
  else if 0xF400 ≤ o then (v.store a mask w).noteWrite (0x10 + (o - 0xF400) / 4)
  else v.store a mask w

/-- A lock is read: it answers 1 when it was held, and is held from then on (R262) (log entry 11). -/
def Vp.lockRead (v : Vp) (j : Nat) : Vp :=
  let held := v.sched.locks.testBit j
  { v with sched := { v.sched with locks := putBit v.sched.locks j true }, lastRead := w32 (b2n held) }

/-- A lock is written: it is free (R262) (log entry 11). -/
def Vp.lockWrite (v : Vp) (j : Nat) : Vp :=
  { v with sched := { v.sched with locks := putBit v.sched.locks j false } }

/-- The lock that stands at an offset of SCHED: R286 places locks 0 to 47 where cores 4 to 7 have their registers, and
there the core's register stands (log entry 11). -/
def lockAt (o : Nat) : Option Nat :=
  if 0x200 ≤ o ∧ o < 0x300 ∧ 0x30 ≤ o % 0x40 then some ((o - 0x200) / 4) else none

/-- SCHED (R262, R265, R268, R275, R286): `m` is the writing master. -/
def Vp.wSched (v : Vp) (m a o mask : Nat) (w : Word) : Vp :=
  if o = 0 ∨ (0x100 ≤ o ∧ o < 0x500 ∧ o % 0x40 = 0) then (v.store a mask w).coresChanged
  else if o = 8 then (if m ≤ 16 then v.post (.post m (Machine.fld w 0 12)) else v)
  else if o = 0x80 then (if m < 16 then v.post (.complete m) else v)
  else if (lockAt o).isSome then v.lockWrite ((o - 0x200) / 4)
  else if 0x2000 ≤ o ∧ o < 0x6000 then v.writeWiCfg ((o - 0x2000) / 4) w
  else if 0x6000 ≤ o ∧ o < 0xA000 then v.writeWiEntry ((o - 0x6000) / 4) (w &&& w32 mask)
  else v.store a mask w

/-- ADC (R298, R300, R306, R307, R312): low-power mode that takes effect closes open records early (R329). -/
def Vp.wAdc (v : Vp) (a o mask : Nat) (w : Word) : Vp :=
  match o with
  | 0x0 => (v.store a mask w).adcSync
  | 0x4 =>
    let was := v.lp
    let enters := Machine.bit w 0 && !was
    let v := v.store a mask w
    let v := if enters then poolIds.foldl Vp.closeEarly v else v
    (v.lpChange was).adcSync
  | 0x10 => v.calCmd w
  | 0x18 => v.injReq w
  | _ => v.store a mask w

/-- A write of `ACQ_P_CFG` (R317, R326, R329): a pool that is disabled closes its record, and its units' flags clear. -/
def Vp.poolCfg (v : Vp) (p mask : Nat) (w : Word) : Vp :=
  let was := v.poolOn p
  let v := v.store (Reg.ACQ_P_CFG p) mask w
  if was && !Machine.bit w 0 then
    let v := (v.closeEarly p).setPoolSt p 0
    (poolIds.filter (fun u => v.tuLead u == p)).foldl (fun v u => v.setFld (Reg.ACQ_TU_STAT u) 0 2 0) v
  else v

/-- ACQ (R321, R330, R337, R340). -/
def Vp.wAcq (v : Vp) (a o mask : Nat) (w : Word) : Vp :=
  if 0x200 ≤ o ∧ o < 0x400 ∧ o % 0x20 = 0 then
    let v := v.store a mask w
    if Machine.bit w 0 && v.poolOn (Machine.fld w 8 4) then v else v.setFld (Reg.ACQ_TU_STAT ((o - 0x200) / 0x20)) 0 2 0
  else if 0x600 ≤ o ∧ o < 0xA00 then
    let p := (o - 0x600) / 0x40
    match o % 0x40 with
    | 0 => v.poolCfg p mask w
    | 0x20 => v.pFree p w
    | _ => (v.store a mask w).strideSync p
  else if o = 0xC5C then v.locRemote w
  else v.store a mask w

/-- HOST (R368, R383, R393): clearing EN or CMD of the holder's port releases the token. -/
def Vp.wHost (v : Vp) (a o mask : Nat) (w : Word) : Vp :=
  if 0x100 ≤ o ∧ o < 0x200 then
    let p := (o - 0x100) / 0x40
    match o % 0x40 with
    | 0 =>
      let v := v.store a mask w
      let v := if Machine.bit w 0 && Machine.bit w 1 then v else v.dropToken p
      v.lanesSync
    | 0x28 => v.setBit (Reg.HOST_P_MSG_STAT p) 11 false
    | 0x2C =>
      let n := Machine.fld w 0 11
      let ws := (List.range ((n + 3) / 4)).map (fun i => v.reg (Reg.HOST_P_MSG_TX (256 * p + i)))
      v.msgSend p n ws
    | _ => v.store a mask w
  else v.store a mask w

/-- A write to `BOOT_RETCLR` (R445, R453). -/
def Vp.retClr (v : Vp) (w : Word) : Vp :=
  let c := Machine.fld w 0 12
  if v.sealOpen && Machine.fld w 16 16 == 0xA5 && v.isRetired c then
    ({ v with retired := putBit v.retired c false }).retWrite
  else v

/-- A `*_STICKY_CLR` register, or `ADC_OVR_CLR`; the register that it clears stands before it. -/
def stickyClr (a : Nat) : Bool :=
  let o := a % 0x10000
  match a / 0x10000 % 16 with
  | 0 => o == 0x1C
  | 1 => o == 0x54
  | 2 => o == 0xB8
  | 3 => o == 0x2C
  | 4 => (decide (o < 0x6000) && o % 0x30 == 0x2C) || o == 0xF010
  | 5 => decide (o < 0xC00) && o % 0x100 == 0x34
  | 6 => decide (0x1000 ≤ o) && decide (o < 0x2000) && o % 0x100 == 0x28
  | 7 => decide (0x1000 ≤ o) && decide (o < 0x3800) && o % 0x100 == 0x30
  | 8 => o == 0x2C || o == 0x34
  | 9 => o == 0xC
  | 10 => o == 4
  | 11 => o == 0x28
  | 12 => o == 0x30
  | _ => false

/-- A write of 1s clears the matching sticky bits; bit 31 of four of the registers clears a maximum (R76, R155, R257,
R286). -/
def Vp.clearSticky (v : Vp) (a : Nat) (w : Word) : Vp :=
  let v := v.setReg (a - 4) (v.reg (a - 4) &&& ~~~ w)
  if !Machine.bit w 31 then v
  else
    let o := a % 0x10000
    match a / 0x10000 % 16 with
    | 3 => cores.foldl (fun v k => v.setReg (Reg.SCHED_CORE_BUSY_MAX k) 0) v
    | 4 => if o = 0xF010 then v.setFld Reg.LOOP_DONE_TIME 16 16 0 else v
    | 5 => v.setReg (Reg.ARM_DEV_MAX (o / 0x100)) 0
    | 6 => v.setReg (Reg.RING_TREP_MAX ((o - 0x1000) / 0x100)) 0
    | _ => v

/-- An accepted write of `w` by master `m` to the register at `a`, whose row has this access code and mask (R7, R8). -/
def Vp.effect (v : Vp) (m a : Nat) (r : RegRow) (w : Word) : Vp :=
  let o := a % 0x10000
  match r.acc with
  | .ro | .ros => v
  | .w1c => v.setReg a (v.reg a &&& ~~~ (w &&& w32 r.mask))
  | _ =>
    let b := a / 0x10000 % 16
    if wideBelow a then v.wideHold a r.mask w
    else
    let v := v.wideTake a
    if 0xFF00 ≤ o then v.fltAck b w
    else if stickyClr a then v.clearSticky a w
    else match b with
      | 0 => if o = 0x10 then v.pwrWrite w else v.store a r.mask w
      | 1 => if o = 4 ∨ 0x40 ≤ o then v.rampWrite (fun v => v.store a r.mask w) else v.store a r.mask w
      | 2 => v.wTime a o r.mask w
      | 3 => v.wSched m a o r.mask w
      | 4 => v.wLoop a o r.mask w
      | 5 => v.wArm a o r.mask w
      | 6 => v.wRing a o r.mask w
      | 7 => v.wLane a o r.mask w
      | 8 => v.wAdc a o r.mask w
      | 9 => v.wAcq a o r.mask w
      | 11 => v.wHost a o r.mask w
      | 12 => (v.store a r.mask w).ackShort
      | 13 => if o = 0x28 then v.retClr w else v.store a r.mask w
      | _ => v.store a r.mask w

/-! ### The address map (R34, R35, R38) -/

/-- What stands at an address. -/
inductive Region where
  /-- Shared SRAM, acquisition SRAM, or a core's memory, at its global address. -/
  | sram (a : Nat)
  | ret
  | rom
  | jrnl
  /-- The cell state table: the bank of the last closed epoch, or the one being filled. -/
  | cst (closed : Bool)
  | reg
  | none
  deriving DecidableEq, Repr

/-- The region of address `a` for master `m`: a core's own memory is its part of the core memory window (R35), which the
cores may not use otherwise (log entries 25, 74). -/
def region (m a : Nat) : Region :=
  let inside := fun lo hi => decide (lo ≤ a) && decide (a ≤ hi)
  if inside 0 0xFFFF then .rom
  else if inside 0x01000000 0x013FFFFF || inside 0x02000000 0x02FFFFFF then .sram a
  else if inside 0x03000000 0x0303FFFF then .cst true
  else if inside 0x03040000 0x0307FFFF then .cst false
  else if inside 0x04000000 0x0407FFFF then .ret
  else if inside 0x04800000 0x0483FFFF then .jrnl
  else if inside 0x06000000 0x0601FFFF then
    (if m ≤ 16 then .sram (0x08000000 + m * 0x20000 + (a - 0x06000000)) else .none)
  else if inside 0x08000000 0x0821FFFF then (if m < 16 then .none else .sram a)
  else if inside 0x10000000 0x100FFFFF && a / 0x10000 % 16 != 14 then .reg
  else .none

/-- Does an access of one word at `a` by master `m` end in a bus error (R38)? (log entry 25) -/
def busError (m a : Nat) (write : Bool) : Bool :=
  match region m a with
  | .none => true
  | .reg => a % 4 != 0
  | .rom | .cst _ => write || region m (a + 3) != region m a
  | .jrnl => (write && m != 16) || region m (a + 3) == .none
  | .ret => region m (a + 3) != .ret
  | .sram _ => (match region m (a + 3) with
    | .sram _ => false
    | _ => true)

/-- A bus error raises a SYS fault against the master (R38, R396): `access` is 0 for a read and 1 for a write. -/
def Vp.busFault (v : Vp) (m a access : Nat) : Vp :=
  v.raiseAll 0 m [{ cause := 2, cls := unc, addr := a, access := access, master := m }]

/-- An access by master `m` ends in a bus error (R38), which is an access fault of a control core that runs an item (R277):
mcause is 5 for a load and 7 for a store, and the spec gives no pc and no mtval (log entries 6, 9, 152). -/
def Vp.accessFault (v : Vp) (m a access : Nat) : Vp :=
  let v := v.busFault m a access
  if m < 16 then
    ({ v with free := v.free + 2 }).coreException m (w32 (5 + 2 * access)) (Config.coreWord v.free)
      (w32 (Config.openNat 20 (v.free + 1)))
  else v

/-- A store by control core `m` to its own data memory below `SCHED_CORE_SPLIM` (R277) (log entry 152). -/
def Vp.belowLimit (v : Vp) (m a : Nat) : Bool :=
  decide (m < 16) && decide (0x06010000 ≤ a) && decide (a ≤ 0x0601FFFF)
    && decide (a < (v.reg (Reg.SCHED_CORE_SPLIM m)).toNat)

/-- The exception of a store below the limit: mcause 7, and the spec gives no pc and no mtval (log entries 6, 9, 152). -/
def Vp.limitFault (v : Vp) (m : Nat) : Vp :=
  ({ v with free := v.free + 2 }).coreException m (w32 7) (Config.coreWord v.free) (w32 (Config.openNat 20 (v.free + 1)))

/-- The domain of an access (R465). -/
def accessDom (m a : Nat) : Nat :=
  match region m a with
  | .sram a' => domOf a'
  | _ => domOf a

/-- ISTAT values (R370). -/
def isOk : Nat := 0
def isAddr : Nat := 1
def isNoHost : Nat := 2
def isSeal : Nat := 3
def isRule : Nat := 4
def isEcc : Nat := 5
def isNotApplied : Nat := 6

/-- The state after a write, and the ISTAT that says whether it took effect. -/
structure WRes where
  v : Vp
  st : Nat

/-- A write of one word takes effect now, or is refused: `sealed` says whether RWS fields need the seal, which the
configuration image does not. -/
def Vp.tryWrite (v : Vp) (m a : Nat) (w : Word) (sealed : Bool) : WRes :=
  if busError m a true then ⟨v, isAddr⟩
  else if !v.domOn (accessDom m a) then ⟨v.pwrAccess, isOk⟩
  else match region m a with
    | .sram a' => ⟨{ v with mem := msetW v.mem a' w }, isOk⟩
    | .ret => ⟨{ v with ret := msetW v.ret a w }, isOk⟩
    | .jrnl => ⟨{ v with jrnl := msetW v.jrnl a w }, isOk⟩
    | .reg =>
      match regRow a with
      | none => ⟨v, isOk⟩
      | some r =>
        if r.acc = .ro ∨ r.acc = .ros then ⟨v, isOk⟩
        else if r.acc = .rws ∧ sealed ∧ !v.sealOpen then ⟨v, isSeal⟩
        else if valueRefused a w || v.stateRefused a w then ⟨v.cfgRefused a, isRule⟩
        else ⟨v.effect m a r w, isOk⟩
    | _ => ⟨v, isAddr⟩

/-- Is the register at `a` one that is staged to the boundary (R72)? (log entry 28) -/
def staged (a : Nat) : Bool :=
  match regRow a with
  | some r => r.acc == .rws
  | none => false

/-- A write by core `m`, 16 for the MC: it takes effect at once, or, to a staged register once frames run, at the next
boundary (R72, R440). A bus error is the master's (R38), and a store below the stack limit an exception (R277)
(log entries 19, 28). -/
def Vp.coreWrite (v : Vp) (m a : Nat) (w : Word) : Vp :=
  if !v.masterActs m then v
  else if busError m a true then v.accessFault m a 1
  else if v.belowLimit m a then v.limitFault m
  else if v.launched && region m a == .reg && staged a then
    if v.sealOpen then { v with coreWrites := v.coreWrites ++ [(a, w)] } else v
  else (v.tryWrite m a w true).v

/-- The core writes pending for the boundary take effect in order (R374). -/
def Vp.applyCoreWrites (v : Vp) : Vp :=
  v.coreWrites.foldl (fun v p => (v.tryWrite 16 p.1 p.2 true).v) { v with coreWrites := [] }

end Sys2Proof.Machine
end

