-- ==== Sys2Proof/Machine/View.lean ====
section
/-!
DEFINITION. What reads return: the registers that show state held elsewhere, the words of a wide value (R8), the memories
by address (R34), and the capture of an epoch (R370).
-/

namespace Sys2Proof.Machine

/-- Does the VP act as PTP grandmaster: the only role it takes, or, as an ordinary clock, what the best master clock
algorithm of the runtime decides, of which the model holds nothing (R198, R200) (log entry 9)? -/
def Vp.grandmaster (v : Vp) : Bool :=
  v.bit Reg.TIME_PTP_CFG 2 && (v.fld Reg.TIME_PTP_CFG 4 2 == 2
    || (v.fld Reg.TIME_PTP_CFG 4 2 == 1 && Config.openNat 16 v.up % 2 == 1))

/-- TIME registers that show the time as it stands (R198, R228). -/
def Vp.viewTime (v : Vp) (a : Nat) : Word :=
  match a % 0x10000 with
  | 0x0 | 0x4 | 0x8 | 0xC => (ts128 v.tai).getD (a % 0x10000 / 4) 0
  | 0x18 => Machine.setFld (v.reg a) 9 1 (b2n v.grandmaster)
  | 0xA0 => w32 v.frameNo
  | 0xA4 => w32 (v.frameNo / 2 ^ 32)
  | _ => v.reg a

/-- SCHED registers that show the scheduler's state (R286). `m` is the reading master: only a core has a `SCHED_SELF`
(log entry 9). -/
def Vp.viewSched (v : Vp) (m a : Nat) : Word :=
  let o := a % 0x10000
  if o = 0x4 then v.schedStat
  else if o = 0x84 then (if m ≤ 16 then v.schedSelf m else w32 (Config.openNat 12 m))
  else if 0x100 ≤ o ∧ o < 0x500 ∧ o % 0x40 = 4 then v.coreStat ((o - 0x100) / 0x40)
  else match lockAt o with
    | some j => w32 (b2n (v.sched.locks.testBit j))
    | none => v.reg a

/-- HOST registers that show the ports, the staging and the seal (R393). -/
def Vp.viewHost (v : Vp) (a : Nat) : Word :=
  let o := a % 0x10000
  match o with
  | 0xC => w32 (tokenByte v.host.token + 256 * b2n v.sealOpen + 512 * b2n (v.bit Reg.HOST_TRIP 0))
  | 0x18 => w32 (v.host.staged.length % 64 + v.host.staged.foldl (fun n b => n + b.words) 0 * 65536)
  | 0x1C => v.sealReg
  | _ =>
    if 0x100 ≤ o ∧ o < 0x200 ∧ o % 0x40 = 0x14 then
      let p := (o - 0x100) / 0x40
      w32 (b2n (v.laneEn (32 + p) && (v.lane (32 + p)).good) + 2 * b2n (v.holdsToken p) + 4 * v.fld a 2 1 + (v.port p).queue.length % 256 * 256
        + (sget (fun _ => []) v.evq p).length % 512 * 65536)
    else v.reg a

/-- RING_GSTAT (R155): the rings running, and those not closed. -/
def Vp.ringGstat (v : Vp) : Word :=
  w32 (ringIds.foldl (fun n m =>
    n + b2n (v.ringSt m == 3) * 2 ^ m + b2n (v.ringSt m == 3 && v.fld (Reg.RING_STATE m) 2 3 != 0) * 2 ^ (16 + m)) 0)

/-- The register at `a` as master `m` reads it, without a side effect. A register that only takes writes reads 0 (R7). -/
def Vp.view (v : Vp) (m a : Nat) : Word :=
  match regRow a with
  | none => 0
  | some r =>
    if r.acc = .wo then 0
    else match a / 0x10000 % 16 with
      | 0 => if a = Reg.SYS_PINS then v.sysPins else v.reg a
      | 1 => if a = Reg.CLK_STAT then v.clkStat else v.reg a
      | 2 => if 0xFF00 ≤ a % 0x10000 then v.reg a else v.viewTime a
      | 3 => if 0xFF00 ≤ a % 0x10000 then v.reg a else v.viewSched m a
      | 5 =>
        let o := a % 0x10000
        if 0x2000 ≤ o ∧ o < 0x3000 then
          w32 (sget (fun _ => 0) (v.arm (v.fld Reg.ARM_HIST_SEL 0 4)).histClosed ((o - 0x2000) / 4))
        else v.reg a
      | 6 => if a = Reg.RING_GSTAT then v.ringGstat else v.reg a
      | 11 => if 0xFF00 ≤ a % 0x10000 then v.reg a else v.viewHost a
      | _ => v.reg a

/-! ### Wide values (R8) -/

/-- A read by master `m` of the register at `a` (R8, R199, R262, R356): the lowest word of a wide value latches the others,
which read as latched from then on; the two queues are popped; a lock is set (log entry 26). -/
def Vp.readReg (v : Vp) (m a : Nat) : Vp :=
  if a = Reg.TIME_TSQ 0 then v.tsqPop
  else if a = Reg.GRID_PQ 0 then v.pqPop
  else if a / 0x10000 = 0x1003 && (lockAt (a % 0x10000)).isSome then v.lockRead ((a % 0x10000 - 0x200) / 4)
  else match wideValues.find? (fun g => g.1 == a) with
    | some g =>
      let l := (List.range g.2).foldl (fun l i => if i = 0 then l else sput (a + 4 * i) (v.view m (a + 4 * i)) l) v.latch
      { v with latch := l, lastRead := v.view m a }
    | none =>
      if wideUpper a then
        match v.latch.find? (fun p => p.1 == a) with
        | some p => { v with lastRead := p.2 }
        | none => { v with lastRead := v.view m a }
      else { v with lastRead := v.view m a }

/-! ### The address space -/

/-- The word at `a` outside the register blocks; the spec does not state the contents of the boot ROM (log entry 9)
(log entry 74). -/
def Vp.peekMem (v : Vp) (m a : Nat) : Word :=
  match region m a with
  | .sram a' => mgetW v.mem a'
  | .ret => mgetW v.ret a
  | .jrnl => mgetW v.jrnl a
  | .rom => w32 (Config.openNat 13 a)
  | .cst closed => sget (fun _ => 0) (if closed then v.cstClosed else v.cst) (a % 0x40000 / 4)
  | _ => 0

/-- A read of one word at `a` by core `m`, 16 for the MC (R8, R38, R468): the value read is `lastRead`;
every core reads the bank being filled (log entries 36, 74). -/
def Vp.coreRead (v : Vp) (m a : Nat) : Vp :=
  if !v.masterActs m then v
  else if busError m a false then v.accessFault m a 0
  else if !v.domOn (accessDom m a) then { v.pwrAccess with lastRead := 0 }
  else if region m a = .reg then v.readReg m a
  else { v with lastRead := v.peekMem m a }

/-! ### The shadow bank (R370) -/

/-- Registers that `regs` does not hold as they read. -/
def viewed : List Nat :=
  (List.range 4).map Reg.TIME_NOW ++ [Reg.TIME_STATE, Reg.TIME_FRAME_NO0, Reg.TIME_FRAME_NO1, Reg.SYS_PINS, Reg.CLK_STAT,
    Reg.RING_GSTAT, Reg.SCHED_STAT, Reg.SCHED_SELF, Reg.HOST_STAT, Reg.HOST_STAGE, Reg.HOST_SEAL]
  ++ (List.range 16).map Reg.SCHED_CORE_STAT ++ (List.range 4).map Reg.HOST_P_STAT
  ++ (List.range 1024).map Reg.ARM_HIST
  ++ (List.range 0x40).filterMap (fun i => (lockAt (0x200 + 4 * i)).map (fun _ => 0x10030200 + 4 * i))

/-- Every block captures its host-readable registers: the bank holds those that do not stand at their reset values
(log entry 105). -/
def Vp.capture' (v : Vp) : Vp :=
  let bank := viewed.foldl (fun b a => sset regReset b a (v.view 32 a)) v.regs
  { v with host := { v.host with shadow := some bank, shadowBad := [] } }

/-- The register at `a` as the last closed epoch shows it; before the first one closes, as it stands (log entry 105). -/
def Vp.epochReg (v : Vp) (m a : Nat) : Word :=
  match v.host.shadow with
  | none => v.view m a
  | some b => match regRow a with
    | none => 0
    | some r => if r.acc = .wo then 0 else sget regReset b a

end Sys2Proof.Machine
end

