-- ==== Sys2Proof/Machine/Boot.lean ====
section
/-!
DEFINITION. Start-up and the configuration image (R437 to R450), the fatal dump (R410, R411), and what stops an image
operation.
-/

namespace Sys2Proof.Machine

/-- PHASE of `BOOT_STAT` (R446). -/
def Vp.phase (v : Vp) : Nat := v.fld Reg.BOOT_STAT 4 4
/-- A phase begins. -/
def Vp.setPhase (v : Vp) (p : Nat) : Vp := v.setFld Reg.BOOT_STAT 4 4 p

/-! ### The image (R438 to R440) -/

/-- The flash address of a slot. -/
def slotBase (s : Nat) : Nat := s * 0x00800000

/-- Word `i` of the header of slot `s`. -/
def Vp.hdr (v : Vp) (s i : Nat) : Nat := v.flashWord (slotBase s + 4 * i)

/-- The bytes of flash from `a` on, `n` of them. -/
def Vp.flashBytes (v : Vp) (a n : Nat) : List Nat := (List.range n).map (fun i => (v.flashByte (a + i)).toNat)

/-- The header of slot `s` is readable: magic, format, part and check good. -/
def Vp.hdrGood (v : Vp) (s : Nat) : Bool :=
  v.hdr s 0 == 0x4D475849 && v.hdr s 1 % 65536 == 0x0101 && v.hdr s 15 == crc32 (v.flashBytes (slotBase s) 60)

/-- VERSION of a slot, 0 when its header is unreadable (R444) (log entry 111). -/
def Vp.version (v : Vp) (s : Nat) : Nat := if v.hdrGood s then v.hdr s 3 else 0

/-- The cause that the header of slot `s` shows (R442), 0 for none (log entry 111). -/
def Vp.headerCause (v : Vp) (s : Nat) : Nat :=
  let len := v.hdr s 2
  if v.hdr s 0 ≠ 0x4D475849 ∨ v.hdr s 1 % 65536 ≠ 0x0101 then 1
  else if !v.hdrGood s then 2
  else if len % 4 ≠ 0 ∨ out 80 8388608 len then 3
  else 0

/-- A section of an image (R439). -/
structure Section where
  type : Nat
  rings : Nat
  dest : Nat
  ofs : Nat
  len : Nat
  deriving DecidableEq, Repr

/-- The sections of the image in slot `s`. -/
def Vp.sections (v : Vp) (s : Nat) : List Section :=
  (List.range (v.hdr s 4 % 512)).map (fun i =>
    let w := fun j => v.flashWord (slotBase s + 64 + 16 * i + 4 * j)
    { type := w 0 % 256, rings := w 0 / 65536, dest := w 1, ofs := w 2, len := w 3 })

/-- The words of a section's data. -/
def Vp.secWords (v : Vp) (s : Nat) (x : Section) : List Nat :=
  (List.range (x.len / 4)).map (fun i => v.flashWord (slotBase s + x.ofs + 4 * i))

/-- Words two by two. -/
def pairs : List Nat → List (Nat × Nat)
  | a :: b :: r => (a, b) :: pairs r
  | _ => []

/-- May a LOAD section of `n` bytes go to `a` (R440)? -/
def loadOk (a n : Nat) : Bool :=
  let within := fun lo hi => decide (lo ≤ a) && decide (a + n ≤ hi)
  within 0x01000000 0x01400000 || within 0x02000000 0x03000000 || within 0x08000000 0x08220000

/-- The first cause that reading the whole image of slot `s` shows (R442), 0 for none (log entry 111). -/
def Vp.imageCause (v : Vp) (s : Nat) : Nat :=
  let len := v.hdr s 2
  let nsec := v.hdr s 4 % 512
  let xs := v.sections s
  if out 1 256 nsec || decide (len < 64 + 16 * nsec) || xs.any (fun x => decide (len < x.ofs + x.len) || x.len % 4 != 0) then 3
  else if v.hdr s 14 ≠ crc32 (v.flashBytes (slotBase s + 64) (len - 64)) then 4
  else if xs.any (fun x => out 1 5 x.type || (x.type == 4 && decide (49152 < x.len))) then 5
  else if xs.any (fun x => x.type == 2 && !loadOk x.dest x.len) then 6
  else if 11 ≤ v.hdr s 5 % 16 then 7
  else 0

/-! ### Configuration (R440, R441) -/

/-- The header's settings, and the default of every APPLY_OFFSET, which the MC writes before the REG sections (R441). -/
def Vp.headerCfg (v : Vp) (s : Nat) : Vp :=
  let w := v.hdr s 5
  let v := v.setFld Reg.TIME_FRAME_CFG 0 4 (w % 16)
  let v := (v.setReg Reg.TIME_EPOCH0 (w32 (v.hdr s 6))).setReg Reg.TIME_EPOCH1 (w32 (v.hdr s 7))
  let v := v.setBit Reg.PEER_CFG 0 (w.testBit 4)
  let v := v.setBit Reg.PEER_STAT 0 (w.testBit 4 && v.boot.role)
  let v := v.setReg Reg.BOOT_IDENT (w32 (w / 64 % 64 + b2n (w.testBit 4) * 256 + w % 16 * 4096))
  let v := (v.setReg Reg.BOOT_VERSION (w32 (v.hdr s 3))).setReg Reg.BOOT_IMG_CRC (w32 (v.hdr s 14))
  armIds.foldl (fun v k => v.setReg (Reg.TIME_APPLY k) (w32 (v.fp - 1500))) v

/-- The REG writes of a section, in order, and whether all took effect (R440, R442): the image needs no seal. -/
def writeRegs : List (Nat × Nat) → Vp → Vp × Bool
  | [], v => (v, true)
  | (a, w) :: r, v =>
    let x := v.tryWrite 16 a (w32 w) false
    if x.st = isOk then writeRegs r x.v else (x.v, false)

/-- A section takes effect, after the REG sections before it; the answer is false when a REG write of it fails
(log entry 113). -/
def Vp.useSection (v : Vp) (s : Nat) (x : Section) : Vp × Bool :=
  let rings := ringIds.filter (fun m => x.rings.testBit m)
  let keep := fun (v : Vp) (l : List (Nat × Nat)) =>
    { v with cnCfg := rings.foldl (fun c m => l.foldl (fun c p => sput (0x10000 * m + p.1 % 65536) (w32 p.2) c) c) v.cnCfg }
  match x.type with
  | 1 => writeRegs (pairs (v.secWords s x)) v
  | 2 => ({ v with mem := msetWs v.mem x.dest ((v.secWords s x).map w32) }, true)
  | 3 => (keep v (pairs (v.secWords s x)), true)
  | 4 => (keep v ((v.secWords s x).mapIdx (fun i w => (0x4000 + i, w))), true)
  | _ => ({ v with retired := (v.secWords s x).foldl (fun n w => putBit n (w % 4096) true) v.retired }, true)

/-- Sections in order. -/
def useSections (s : Nat) : List Section → Vp → Vp × Bool
  | [], v => (v, true)
  | x :: r, v => match v.useSection s x with
    | (v, true) => useSections s r v
    | (v, false) => (v, false)

/-! ### Choosing a slot (R442 to R444) -/

/-- The MC returns every block except TIME to its reset values (R442). What is no block's setting stays: the start-up
state, the reset cause, the journal's place and the seal (log entry 112). -/
def Vp.blocksReset (v : Vp) : Vp :=
  let kept := fun (a : Nat) =>
    a / 0x10000 == 0x1002 || a / 0x10000 == 0x100D || [Reg.SYS_RST_CAUSE, Reg.SYS_JRNL, Reg.SYS_JRNL_SEQ, Reg.SYS_PWR_STAT,
      Reg.HOST_SEAL, Reg.HOST_JRNL_SUPP, Reg.LANE_QPLL_STAT, Reg.CLK_LOSS_CNT, Reg.CLK_GUARD_CNT].contains a
  { v with regs := v.regs.filter (fun p => kept p.1), sched := {}, loop := {}, arms := [], rings := [], grid := {}, adc := {},
           acq := {}, lanes := {}, peer := {}, cnCfg := [], adcDone := false, flt := {}
           clk := { v.clk with from_ := v.depth, target := 0, since := v.up }
           host := { openSince := v.host.openSince, sealJrnl := v.host.sealJrnl } }

/-- An IMAGE journal entry (R444) (log entry 109). -/
def Vp.imageEntry (v : Vp) (ev d1 ver : Nat) : Vp := v.journal 8 13 0xFF 0 ev d1 ver

/-- Both slots have failed (R443). -/
def Vp.noImage (v : Vp) : Vp := ((v.setPhase 8).raise 13 0xFF 3 unc Reg.BOOT_STAT).imageEntry 3 0 0

/-- Slot `s` fails for cause `c` (R442, R444). -/
def Vp.slotFails (v : Vp) (s c : Nat) : Vp :=
  let v := v.imageEntry 2 (s + 256 * c) (v.version s)
  (v.setFld Reg.BOOT_STAT (8 + 8 * s) 8 c).blocksReset

/-- CAUSE of a slot, 0 while it has not failed. -/
def Vp.slotCause (v : Vp) (s : Nat) : Nat := v.fld Reg.BOOT_STAT (8 + 8 * s) 8

/-- The MC tries slot `s`: its header is good, and the image is read; or the slot has failed. -/
def Vp.trySlot (v : Vp) (s : Nat) : Vp :=
  let c := v.headerCause s
  if c = 0 then { v.setPhase 2 with boot := { v.boot with slot := s } } else v.slotFails s c

/-- After slot `s` the MC tries the other one, if that has not failed; with both failed there is no image (R442, R443). -/
def Vp.fallBack (v : Vp) (s : Nat) : Vp :=
  if v.slotCause s = 0 then v
  else
    let o := 1 - s
    let v := if v.slotCause o = 0 then (v.setBit Reg.BOOT_STAT 2 true).trySlot o else v
    if v.slotCause o = 0 then v else v.noImage

/-- Discovery of the flash has ended (R437): whether the flash describes itself, answers quad reads and has the erase, its
manufacturer code, log2 of its size in bytes, its addressing and read mode, and the read clock in MHz. The MC then takes
the retire map, and checks the header of the slot it tries (R442, R445) (log entry 111). -/
def Vp.flashDone (v : Vp) (ok : Bool) (jedec log2 : Nat) (addr4 r144 : Bool) (mhz : Nat) : Vp :=
  if v.phase ≠ 1 then v
  else
    let try_ := v.bit Reg.BOOT_TRY 0
    let s := if try_ then v.fld Reg.BOOT_TRY 1 1 else 0
    let v := (v.setBit Reg.BOOT_STAT 3 try_).setBit Reg.BOOT_TRY 0 false
    let v := { v with boot := { v.boot with slot := s, found := true } }
    if !ok || out 25 27 log2 then ((v.slotFails s 8).setBit Reg.BOOT_STAT 2 true).slotFails (1 - s) 8 |>.noImage
    else
      let v := v.setReg Reg.BOOT_FLASH (w32 (jedec % 256 + log2 % 256 * 2 ^ 8 + b2n addr4 * 2 ^ 16 + b2n r144 * 2 ^ 17
        + min mhz 100 * 2 ^ 24))
      (v.retLoad.trySlot s).fallBack s

/-- Time at the end of configuration (R195, R197, R450): with FREE_RUN set the counter takes E at the first start after
power-on, and time is ready; after a warm reset it is ready in LOCKED or FREE (log entry 143). -/
def Vp.timeConfig (v : Vp) : Vp :=
  let st := v.timeState
  if v.bit Reg.TIME_SRC_CFG 8 then
    let v := if v.boot.warm then v else { v with tai := v.epochE * secUnit }
    let v := if st = 0 then v.enterState 4 else v
    v.timeReady
  else if v.boot.warm ∧ (st = 2 ∨ st = 4) then v.timeReady
  else v

/-- Every block is configured: all ADC slices are calibrated, lanes and time start, and the rings may train (R446)
(log entry 93). -/
def Vp.started (v : Vp) (s : Nat) : Vp :=
  let v := (v.setFld Reg.BOOT_STAT 0 2 s).imageEntry 1 s (v.version s)
  let v := if v.bit Reg.BOOT_STAT 2 then v.raise 13 0xFF 1 cor Reg.BOOT_STAT else v
  v.calAll.lanesSync.timeConfig.setPhase 4

/-- Reading the image has ended (R442). -/
def Vp.imageDone (v : Vp) (readOk : Bool) : Vp :=
  if v.phase ≠ 2 then v
  else
    let s := v.boot.slot
    let c := if readOk then v.imageCause s else 8
    if c ≠ 0 then (v.slotFails s c).fallBack s
    else
      let xs := v.sections s
      let held := v.retired
      let v := (useSections s (xs.filter (·.type == 2)) v).1
      let v := (v.setPhase 3).headerCfg s
      match useSections s (xs.filter (·.type != 2)) v with
      | (v, true) =>
        if v.timesOk (v.fld Reg.TIME_SLEAD 0 12) (fun k => v.fld (Reg.TIME_APPLY k) 0 16) then v.started s
        else ({ v.slotFails s 7 with retired := held }).fallBack s
      | (v, false) => ({ v.slotFails s 7 with retired := held }).fallBack s

/-! ### The bound of R447, and the image operation under way -/

/-- The bound of R447: the VP is armed with those arms that are armed (log entry 17). -/
def Vp.armingBound (v : Vp) : Vp :=
  if v.launched && v.ready && (v.phase == 5 || v.phase == 6) then v.vpArmed else v

/-! ### The fatal dump (R410, R411) -/

/-- The offsets of a block at which the dump reads: every register of it but the histogram and the message buffers
(log entry 114). -/
def dumpOffsets (b : Nat) : List Nat :=
  ((List.range 0x4000).map (fun i => 4 * i)).filter (fun o =>
    (regRow (0x10000000 + b * 0x10000 + o)).isSome
      && !(b == 5 && decide (0x2000 ≤ o) && decide (o < 0x3000)) && !(b == 11 && decide (0x1000 ≤ o) && decide (o < 0x3000)))

/-- Ranges of consecutive registers: the first address, and the number of words (log entry 114). -/
def addrRuns : List Nat → List (Nat × Nat)
  | [] => []
  | a :: as =>
    match addrRuns as with
    | [] => [(a, 1)]
    | (b, n) :: r => if b = a + 4 then (a, n + 1) :: r else (a, 1) :: (b, n) :: r

/-- The register images as words (log entry 114). -/
def Vp.dumpImages (v : Vp) : List Word :=
  (List.range 16).flatMap (fun b =>
    (addrRuns (dumpOffsets b)).flatMap (fun (o, n) =>
      let a := 0x10000000 + b * 0x10000 + o
      [w32 a, w32 n] ++ (List.range n).map (fun i =>
        if v.domOn (domOf (a + 4 * i)) then v.view 16 (a + 4 * i) else 0)))

/-- The wake's records, oldest first, at most 16,384 of them, as words. -/
def Vp.dumpWake (v : Vp) : List Word :=
  let size := v.wakeSize
  let wp := v.fld Reg.SCHED_TRC_WP 0 20
  let all := if v.fld Reg.SCHED_TRC_WP 20 12 = 0 then wp / 8 else size / 8
  let n := min all 16384
  let base := (v.reg Reg.SCHED_TRC_BASE).toNat
  (List.range n).flatMap (fun i =>
    let o := (wp + size - 8 * (n - i)) % size
    [mgetW v.mem (base + o), mgetW v.mem (base + o + 4)])

/-- The retention SRAM holds a dump that has not been saved: VALID is 1 and the check is good (R411). -/
def Vp.dumpHeld (v : Vp) : Bool :=
  let w := fun i => mgetW v.ret (0x04000000 + 4 * i)
  let n := (w 13).toNat / 4
  Machine.bit (w 12) 0 && decide (n ≤ 64512)
    && (w 15).toNat == crc32Words (((mgetWs v.ret 0x04000000 15) ++ mgetWs v.ret 0x04001000 n).map (·.toNat))

/-- The dump of the failed scope (R410). -/
def Vp.dump (v : Vp) (blk inst : Nat) : Vp :=
  let images := v.dumpImages
  let wake := v.dumpWake
  let h := [w32 0x4D584450, w32 (1 + blk * 2 ^ 8 + inst * 2 ^ 16)]
    ++ (List.range 4).map (fun i => v.reg (Reg.FLT_FIRST blk i)) ++ ts128 v.tai
    ++ [w32 v.frameNo, w32 (v.frameNo / 2 ^ 32), 3, w32 (4 * images.length), w32 (wake.length / 2)]
  let h := h ++ [w32 (crc32Words ((h ++ images).map (·.toNat)))]
  { v with ret := msetWs (msetWs (msetWs v.ret 0x04000000 h) 0x04001000 images) 0x04040000 wake }

/-- The MC finishes the dump, or keeps the earlier one, and writes the FATAL entry (R409, R411). With the MC itself the
failed scope, or without a clock, it writes neither. -/
def Vp.dumpWritten (v : Vp) : Vp :=
  let f := v.reg Reg.SYS_FATAL
  if !v.fatal || Machine.bit f 13 || Machine.bit f 14 || Machine.bit f 15 then v
  else
    let blk := Machine.fld f 1 4
    let inst := Machine.fld f 5 8
    if blk = 0 ∧ inst = 16 then v.setBit Reg.SYS_FATAL 15 true
    else
      let kept := v.dumpHeld
      let v := if kept then v.setBit Reg.SYS_FATAL 14 true else (v.setBit Reg.SYS_FATAL 13 true).dump blk inst
      v.journal 2 blk inst 3 (v.reg (Reg.FLT_FIRST blk 0)).toNat (v.reg (Reg.FLT_FIRST blk 1)).toNat
        (b2n (!kept) + 2 * b2n kept)

end Sys2Proof.Machine
end

