-- ==== Sys2Proof/Machine/Host.lean ====
section
/-!
DEFINITION. The host ports: arrival and service of frames (R361 to R366), the token (R368, R369), reads from an epoch
(R370, R371), bundles of writes and commands (R372 to R380), trips (R381), messages and posts (R383, R384), image operations
(R392, R451), and event frames (R386).
-/

namespace Sys2Proof.Machine

/-! ### Reads (R370, R371) -/

/-- The ISTAT of a host read of one word: its low bits, and bit 7 where it would be read as it stands
(log entry 104). -/
def Vp.readStat (v : Vp) (a : Nat) : Nat :=
  if 0x06000000 ≤ a ∧ a ≤ 0x0601FFFF then isNoHost
  else match region 32 a with
    | .none => isAddr
    | .cst false => isNoHost
    | .cst true => isOk
    | .reg => if a % 4 ≠ 0 then isAddr else if v.host.shadowBad.contains a then isEcc else isOk
    | .sram _ => if 0x08000000 ≤ a then (if v.sealBoth then 128 else isSeal) else 128
    | _ => 128

/-- A word as a host reads it: registers and the closed bank from the epoch, everything else as it stands. -/
def Vp.hostWord (v : Vp) (a : Nat) : Word :=
  match region 32 a with
  | .reg => v.epochReg 32 a
  | _ => if v.domOn (accessDom 32 a) then v.peekMem 32 a else 0

/-- One item of a READ; the COUNT is 1 to 64. -/
def Vp.readItem (v : Vp) (x : Nat × Nat) : RItem :=
  let as := (List.range x.2).map (fun i => x.1 + 4 * i)
  let st := if out 1 64 x.2 then isRule
    else match as.find? (fun a => v.readStat a % 128 != 0) with
      | some a => v.readStat a
      | none => if as.any (fun a => v.readStat a == 128) then 128 else isOk
  { addr := x.1, count := x.2, istat := st, words := if st % 128 = 0 then as.map v.hostWord else [] }

/-- The words and the time in ns that a READ bundle takes. -/
def readWords (xs : List (Nat × Nat)) : Nat := xs.foldl (fun n x => n + x.2) 0
def readNs (xs : List (Nat × Nat)) : Nat := 100 + 4 * readWords xs

/-- Would reads that start now end after the next boundary? -/
def Vp.readCrosses (v : Vp) (xs : List (Nat × Nat)) : Bool :=
  v.launched && decide (v.fpU < v.frameOfs + readNs xs * nsUnit)

/-- The word at which an item of a READ ends in a bus error, if it does: its first word that fails (log entry 27). -/
def Vp.readBus (v : Vp) (x : Nat × Nat) : Option Nat :=
  if out 1 64 x.2 then none
  else match ((List.range x.2).map (fun i => x.1 + 4 * i)).find? (fun a => v.readStat a % 128 != 0) with
    | some a => if v.readStat a = isAddr then some a else none
    | none => none

/-- The reads of a bundle are made and answered; each item that ends in a bus error raises the SYS fault of R38 against
the port (R360, R370, R401; log entry 27). -/
def Vp.readNow (v : Vp) (p : Nat) (f : HFrame) (xs : List (Nat × Nat)) : Vp :=
  (xs.filterMap v.readBus).foldl (fun u a => u.busFault (0x20 + p) a 0)
    (v.answer p f stOk v.epochNo (xs.map v.readItem) [])

/-! ### Items and their tests (R371, R373, R378) -/

/-- The words of a write item with their addresses, masks and values. -/
def WItem.writes (x : WItem) : List (Nat × Nat × Word) :=
  if x.mode = 0 then x.data.mapIdx (fun i w => (x.addr + 4 * i, 0xFFFFFFFF, w))
  else (pairs (x.data.map (·.toNat))).mapIdx (fun i q => (x.addr + 4 * i, q.1, w32 q.2))

/-- Does a host write at `a` need the seal? -/
def needsSeal (a : Nat) : Bool :=
  match region 32 a with
  | .sram _ | .ret => true
  | .reg => staged a
  | _ => false

/-- The range test of a host write (R371), and the rules that depend on the value alone (R373): `whole` is true when the
value replaces the word (log entries 27, 106). -/
def Vp.writeStat (v : Vp) (a : Nat) (w : Word) (whole : Bool) : Nat :=
  if 0x06000000 ≤ a ∧ a ≤ 0x0601FFFF then isNoHost
  else match region 32 a with
    | .none | .cst _ | .rom | .jrnl => isAddr
    | .sram _ => if 0x08000000 ≤ a then isNoHost else if v.sealBoth then isOk else isSeal
    | .ret => if v.sealBoth then isOk else isSeal
    | .reg =>
      if a % 4 ≠ 0 then isAddr
      else if staged a && !v.sealBoth then isSeal
      else if a = Reg.SCHED_POST || (whole && (valueRefused a w || keyMissing a w)) then isRule
      else isOk

/-- Is `a` a register whose change goes to the cells before it takes effect (R31)? -/
def isTime (a : Nat) : Bool := a == Reg.TIME_SLEAD || armIds.any (fun k => a == Reg.TIME_APPLY k)

/-- The ISTAT of a write item at acceptance (log entry 35). -/
def Vp.itemStat (v : Vp) (x : WItem) : Nat :=
  let n := if x.mode = 0 then x.data.length else x.data.length / 2
  if 1 < x.mode ∨ out 1 64 n ∨ (x.mode = 1 ∧ x.data.length % 2 = 1) then isRule
  else
    let sts := x.writes.map (fun q =>
      let st := v.writeStat q.1 q.2.2 (q.2.1 == 0xFFFFFFFF)
      if st = isOk ∧ isTime q.1 ∧ !v.allBlocked then isRule else st)
    (sts.find? (· != isOk)).getD isOk

/-- The ISTAT of a command at acceptance (R378). -/
def cmdStat (c : HCmd) : Nat :=
  match c.op with
  | 1 | 2 | 3 => isOk
  | 4 => if c.val = 0xA5 then isOk else isRule
  | _ => isRule

/-- The items or commands of a bundle with their ISTAT at acceptance; at most 64 items or 32 commands. -/
def Vp.bundleStat (v : Vp) (b : Bundle) : List (Nat × Nat) :=
  if b.cmd then b.cmds.map (fun c => (c.op + c.arg * 65536, if 32 < b.cmds.length then isRule else cmdStat c))
  else b.items.map (fun x => (x.addr, if 64 < b.items.length then isRule else v.itemStat x))

/-- A bundle is answered: its target where it is accepted, and every item with its ISTAT (R362, R373). In a bundle that
is not accepted the items without a failure of their own are not applied (log entry 14) (log entry 13). -/
def Vp.bundleAnswer (v : Vp) (p : Nat) (f : HFrame) (b : Bundle) (st : Nat) : Vp :=
  v.answer p f st (if st = stOk then b.target else v.epochNo)
    ((v.bundleStat b).map (fun x =>
      { addr := x.1, count := 0, istat := if st ≠ stOk ∧ x.2 = isOk then isNotApplied else x.2, words := [] })) []

/-- Staging has room for a bundle (R375). -/
def Vp.stageRoom (v : Vp) (b : Bundle) : Bool :=
  decide (v.host.staged.length < 32) && decide (v.host.staged.foldl (fun n x => n + x.words) b.words ≤ 2048)

/-- The tests of R373 but for the role: `ahead` is how many frames a target lies ahead at least
(log entries 104, 106). -/
def Vp.bundleTest (v : Vp) (b : Bundle) (ahead : Nat) : Nat :=
  let sts := (v.bundleStat b).map (·.2)
  if !v.launched || v.fatal then stState
  else if b.target < v.frameNo + ahead then stLate
  else if v.frameNo + v.fld Reg.HOST_MAX_AHEAD 0 24 < b.target then stFar
  else if sts.any (fun st => st != isOk && st != isSeal) then stItem
  else if sts.any (· != isOk) then stSeal
  else if !v.stageRoom b then stBusy
  else stOk

/-- The role of R363 for a bundle: commands that are all BLOCK need no token (log entry 103). -/
def Vp.bundleRole (v : Vp) (p : Nat) (b : Bundle) : Bool :=
  let holder := v.hasCmd p && v.holdsToken p
  if b.cmd && b.cmds.all (fun c => c.op == 2) then v.hasCmd p || v.hasProt p else holder

/-! ### The change of SAMPLE_LEAD and APPLY_OFFSET (R31) -/

/-- The writes of SAMPLE_LEAD and APPLY_OFFSET that a bundle holds. -/
def Bundle.times (b : Bundle) : List (Nat × Nat × Word) := (b.items.flatMap WItem.writes).filter (fun q => isTime q.1)

/-- The word at `a` after the writes `ws`, each an address, a mask and a value. -/
def afterWrites (ws : List (Nat × Nat × Word)) (a : Nat) (x : Word) : Word :=
  ws.foldl (fun x q => if q.1 = a then (x &&& ~~~ (w32 q.2.1)) ||| (q.2.2 &&& w32 q.2.1) else x) x

/-- The state with SAMPLE_LEAD and APPLY_OFFSET as the writes `ws` leave them, for the tests of R22 and R27. -/
def Vp.withTimes (v : Vp) (ws : List (Nat × Nat × Word)) : Vp :=
  ((Reg.TIME_SLEAD :: armIds.map Reg.TIME_APPLY).filter (fun a => ws.any (fun q => q.1 == a))).foldl
    (fun v a => v.setReg a (afterWrites ws a (v.reg a))) v

/-- A change that has been sent is given up: it is cancelled in every cell of the running rings. -/
def Vp.timeCancel (v : Vp) : Vp :=
  if v.timeAt = 0 then v
  else
    let v := { v with timeAt := 0, timeNeed := 0, timeGot := 0 }
    (ringIds.filter (fun m => v.ringSt m == 3)).foldl (fun v m =>
      (v.mgStale m .timeChange .timeCancel).mgSend m
        { mgWrite 0 Reg.CN_TIME_CHG_AT [0] .timeCancel with bcast := true }) v

/-- The staged bundles due at `t` that change them are sent to the cells ahead of it: the values as they will stand, and
the boundary, each in a write of its own (log entry 35). The cells are given the boundary by its low word, one further on
where that is 0, while the VP's own values change at `t` (R501) (log entry 146). -/
def Vp.timeSend (v : Vp) (t : Nat) : Vp :=
  let ws := (v.host.staged.filter (fun b => b.target == t)).flatMap Bundle.times
  if ws.isEmpty then v
  else
    let new := fun (a : Nat) => afterWrites ws a (v.reg a)
    let rings := ringIds.filter (fun m => ws.any (fun q => (v.timeRings q.1).contains m))
    let lead := new Reg.TIME_SLEAD
    let cells := rings.flatMap v.timeCells
    let mine := cells.filter (fun c => v.cfgMine (c / 256) (c % 256))
    let v := mine.foldl (fun v c =>
      let apply := match v.armOfRing (c / 256) with
        | some k => new (Reg.TIME_APPLY k)
        | none => w32 (v.applyOfs (c / 256))
      let v := v.mgSend (c / 256) (mgWrite (c % 256) Reg.CN_TIME_SLEAD [lead, apply] .timeChange)
      v.mgSend (c / 256) (mgWrite (c % 256) Reg.CN_TIME_CHG_AT [w32 (nameBoundary t)] .timeChange)) v
    { v with timeAt := t, timeNeed := 2 * mine.length, timeGot := 0 }

/-- The earliest target of a staged bundle that changes them, of those whose cells can still confirm one frame before it;
0 for none. -/
def Vp.timeFirst (v : Vp) : Nat :=
  (v.host.staged.filter (fun b => !b.times.isEmpty && (decide (v.frameNo + 1 < b.target) || b.target == v.timeAt))).foldl
    (fun t b => if t = 0 then b.target else min t b.target) 0

/-- Staging has changed: the cells are given the change that comes first, and one given up is cancelled. A cell holds one
change at a time; a later one is sent after the first has taken effect. `again` says that the change under way itself
has gained or lost a bundle (log entry 35). -/
def Vp.timeSync (v : Vp) (again : Bool) : Vp :=
  let t := v.timeFirst
  if t = v.timeAt ∧ !again then v
  else if t = 0 then v.timeCancel
  else (if v.timeAt = 0 then v else v.timeCancel).timeSend t

/-- A cell has not confirmed in time: the change is cancelled in every cell of the running rings, and the bundle fails
(log entry 35). -/
def Vp.timeTimeout (v : Vp) : Vp := if v.timeGot = v.timeNeed then v else v.timeCancel

/-! ### Staging (R373 to R377) -/

/-- A bundle enters staging. -/
def Vp.stage (v : Vp) (b : Bundle) : Vp :=
  let v := { v with host := { v.host with staged := v.host.staged ++ [b] } }
  if b.times.isEmpty then v else v.timeSync (v.timeAt == b.target)

/-- A bundle has left staging before its target: a change of SAMPLE_LEAD and APPLY_OFFSET that it held is given up (R31). -/
def Vp.timeDrop (v : Vp) (b : Bundle) : Vp := if b.times.isEmpty then v else v.timeSync (v.timeAt == b.target)

/-- A request that is answered BUSY for staging sets STAGE_FULL (R393). -/
def Vp.stageFull (v : Vp) (st : Nat) : Vp := if st = stBusy then v.hostSticky 3 else v

/-- A WRITE or COMMAND frame is tested, staged and answered; in paired mode it is forwarded, and answered when the partner
has confirmed (R373, R377). -/
def Vp.takeBundle (v : Vp) (p : Nat) (f : HFrame) (b : Bundle) : Vp :=
  if !v.bundleRole p b then v.bundleAnswer p f b stRole
  else
    let st := v.bundleTest b 2
    if st ≠ stOk then (v.stageFull st).bundleAnswer p f b st
    else if v.pairMode then
      let v := v.stage { b with waiting := true }
      v.hostxSend (.forward b)
    else (v.stage b).bundleAnswer p f b stOk

/-- The bundle of a port and tag that waits for its partner. -/
def Vp.waitingBundle (v : Vp) (p tag : Nat) : Option Bundle :=
  v.host.staged.find? (fun b => b.own && b.waiting && b.port == p && b.tag == tag)

/-- The frame under service at a port, if it is the request with this tag. -/
def Vp.served (v : Vp) (p tag : Nat) : Option HFrame :=
  match (v.port p).serving with
  | some f => if f.tag = tag then some f else none
  | none => none

/-- The partner's confirmation arrives: the bundle is accepted (R377). -/
def Vp.confirmed (v : Vp) (p tag : Nat) : Vp :=
  match v.waitingBundle p tag with
  | some b =>
    let v := { v with host := { v.host with
      staged := v.host.staged.map (fun x => if x = b then { x with waiting := false } else x) } }
    match v.served p tag with
    | some f => v.bundleAnswer p f b stOk
    | none => v
  | none => v

/-- The partner has refused, or not confirmed in time: the bundle is withdrawn and answered PARTNER (R377, R394)
(log entry 91). -/
def Vp.withdraw (v : Vp) (p tag : Nat) : Vp :=
  match v.waitingBundle p tag with
  | some b =>
    let v := { v with host := { v.host with staged := v.host.staged.filter (· != b) } }
    let v := ((((v.hostxSend (.withdraw p tag)).timeDrop b).hostSticky 2).hostInt 6).raise 11 p 3 cor (Reg.HOST_P_STAT p)
    match v.served p tag with
    | some f => v.bundleAnswer p f b stPartner
    | none => v
  | none => v

/-! ### The token (R368, R369) -/

/-- This VP keeps the token: alone, or as VP-A. A request takes a free token, or is answered; a release frees it
(log entry 91). -/
def Vp.tokenAsk (v : Vp) (who : Nat × Bool) (op : Nat) : Vp × Bool :=
  if op = 1 then
    if v.host.token = none then (v.setToken (some who), true) else (v, v.host.token == some who)
  else if v.host.token = some who then (v.setToken none, true) else (v, op == 2)

/-- A TOKEN frame (log entry 103). -/
def Vp.takeToken (v : Vp) (p : Nat) (f : HFrame) (op : Nat) : Vp :=
  if !v.hasCmd p then v.reply p f stRole
  else if v.pairMode && v.isB then v.hostxSend (.tokenReq p op)
  else
    let (v, ok) := v.tokenAsk (p, v.isB) op
    v.reply p f (if ok then stOk else stRole)

/-! ### Other frames -/

/-- A CANCEL frame (R376): in a pair the partner's copy is withdrawn with it. A TAG that is staged no more comes later
(log entry 103). -/
def Vp.takeCancel (v : Vp) (p : Nat) (f : HFrame) (tag : Nat) : Vp :=
  if !(v.hasCmd p && v.holdsToken p) then v.reply p f stRole
  else match v.host.staged.find? (fun b => b.own && b.port == p && b.tag == tag) with
    | none => v.reply p f stLate
    | some b =>
      if b.target < v.frameNo + 2 then v.reply p f stLate
      else
        let v := (v.unstage b false).timeDrop b
        let v := if v.pairMode then v.hostxSend (.withdraw p tag) else v
        v.reply p f stOk

/-- A POST frame (R384) (log entry 104). -/
def Vp.takePost (v : Vp) (p : Nat) (f : HFrame) (j : Nat) : Vp :=
  if !(v.hasCmd p && v.holdsToken p) then v.reply p f stRole
  else if 127 < j then v.reply p f stItem
  else (v.post (.event (128 + j))).reply p f stOk

/-- A MSG frame (R383). -/
def Vp.takeMsg (v : Vp) (p : Nat) (f : HFrame) (len : Nat) (data : List Word) : Vp :=
  if !v.bit (Reg.HOST_P_CFG p) 3 then v.reply p f stRole
  else if 1024 < len then v.reply p f stTooLong
  else if v.bit (Reg.HOST_P_MSG_STAT p) 11 then v.reply p f stBusy
  else
    let v := (List.range ((len + 3) / 4)).foldl (fun v i => v.setReg (Reg.HOST_P_MSG_RX (256 * p + i)) (data.getD i 0)) v
    let v := (v.setFld (Reg.HOST_P_MSG_STAT p) 0 11 len).setBit (Reg.HOST_P_MSG_STAT p) 11 true
    (v.post (.event (48 + p))).reply p f stOk

/-- The running slot; none before an image has loaded. -/
def Vp.runSlot' (v : Vp) : Nat := v.fld Reg.BOOT_STAT 0 2

/-- An IMAGE frame (R392, R451): the operation starts, and the frame is answered when it ends (log entry 104). -/
def Vp.takeImage (v : Vp) (p : Nat) (f : HFrame) (op slot ofs len : Nat) (data : List Nat) : Vp :=
  if !(v.hasCmd p && v.holdsToken p) then v.reply p f stRole
  else if !v.sealOpen then v.reply p f stSeal
  else if v.host.image.isSome then v.reply p f stBusy
  else if !v.flashOn || ((op == 2 || op == 3) && slot == v.runSlot') then v.reply p f stState
  else if out 1 4 op || decide (1 < slot) || decide (8388608 < ofs + len) || ((op == 1 || op == 3) && decide (1024 < len)) then
    v.reply p f stItem
  else
    let v := { v with host := { v.host with
      image := some { port := p, op := op, slot := slot, ofs := ofs, len := len, data := data } } }
    v.setFld Reg.BOOT_OP_STAT 0 8 (1 + 2 * slot + 16 * op)

/-- The end of an image operation, with STATUS `st` and data for the answer (R392, R453). -/
def Vp.imageEnd (v : Vp) (o : ImageOp) (st : Nat) (data : List Nat) : Vp :=
  let v := { v with host := { v.host with image := none } }
  let v := ((v.setBit Reg.BOOT_OP_STAT 0 false).setFld Reg.BOOT_OP_STAT 8 8 st).addFld Reg.BOOT_OP_STAT 16 16 1
  match (v.port o.port).serving with
  | some f => v.answer o.port f st v.epochNo [] data
  | none => v

/-- The first erase or program of a slot since this start is entered in the journal (R444). -/
def Vp.noteWritten (v : Vp) (s : Nat) : Vp :=
  if v.boot.written.testBit s then v
  else (({ v with boot := { v.boot with written := putBit v.boot.written s true } }).imageEntry 4 s (v.version s))

/-- The bytes of an image operation change the flash: `n` bytes of a program, or the sector of an erase. -/
def Vp.imageWrite (v : Vp) (o : ImageOp) (n : Nat) : Vp :=
  let a := slotBase o.slot + o.ofs
  let v := v.noteWritten o.slot
  if o.op = 2 then v.flashErase (a / 65536 * 65536) 65536
  else v.flashProgram a (((List.range o.len).map (fun i => o.data.getD i 0)).take n)

/-- An image operation ends (R392, R444): when the flash does not answer, BOOT raises its fault (R454). -/
def Vp.imageOpDone (v : Vp) (ok : Bool) : Vp :=
  match v.host.image with
  | none => v
  | some o =>
    if !ok then (v.raise 13 0xFF 4 unc Reg.BOOT_OP_STAT).imageEnd o stState []
    else
      let a := slotBase o.slot + o.ofs
      match o.op with
      | 1 => v.imageEnd o stOk (v.flashBytes a o.len)
      | 4 =>
        let v := if o.ofs = 64 ∧ o.ofs + o.len = v.hdr o.slot 2 then v.imageEntry 5 o.slot (v.version o.slot) else v
        v.imageEnd o stOk (leBytes 4 (crc32 (v.flashBytes a o.len)))
      | _ => (v.imageWrite o o.len).imageEnd o stOk []

/-- The seal closes during an image operation (R389, R452): the flash page under way, of 256 bytes, is completed, and the
operation stops; how far it had come is open (log entry 9) (log entry 108). -/
def Vp.imageStop (v : Vp) : Vp :=
  match v.host.image with
  | none => v
  | some o =>
    let k := Config.openNat 14 v.free
    let v := { v with free := v.free + 1 }
    let n := (k + 1) * 256 - o.ofs % 256
    let v := if o.op = 3 then v.imageWrite o n else if o.op = 2 ∧ k % 2 = 1 then v.imageWrite o 0 else v
    v.imageEnd o stSeal []

/-- The seal closes, with what that stops (R388, R389). -/
def Vp.sealClose (v : Vp) : Vp := if v.sealOpen && !v.sealCloses.sealOpen then v.sealCloses.imageStop else v

/-- A TRIP frame (R381): `op` 1 trips and 2 clears. It is served ahead of the frame that the port serves now
(log entry 104). -/
def Vp.takeTrip (v : Vp) (p : Nat) (f : HFrame) (op key : Nat) : Vp :=
  let was := (v.port p).serving
  let may := if op = 2 then
      v.hasProt p || (!portIds.any (fun q => v.portOn q && v.hasProt q) && v.holdsToken p)
    else v.hasProt p || v.hasCmd p
  let v := if !may then v.reply p f stRole
    else if key ≠ 0xA5 then v.reply p f stKey
    else if op = 1 then (v.hostTrip p).reply p f stOk
    else if op = 2 then v.hostTripClear.reply p f stOk
    else v.reply p f stItem
  v.setPort p { v.port p with serving := was }

/-! ### Arrival and service (R361, R365, R366) -/

/-- The bundle of a WRITE or COMMAND frame. -/
def mkBundle (p : Nat) (f : HFrame) : HBody → Bundle
  | .write t xs => { port := p, tag := f.tag, target := t, cmd := false, items := xs, cmds := [] }
  | .command t cs => { port := p, tag := f.tag, target := t, cmd := true, items := [], cmds := cs }
  | _ => { port := p, tag := f.tag, target := 0, cmd := false, items := [], cmds := [] }

/-- A request is acted on: a READ that would cross the boundary waits for it. -/
def Vp.act (v : Vp) (p : Nat) (f : HFrame) : Vp :=
  match f.body with
  | .bad _ => v.reply p f stBad
  | .read xs =>
    if 1500 < 32 + 8 * xs.length + 4 * readWords xs then v.reply p f stTooLong
    else if v.readCrosses xs then v
    else v.readNow p f xs
  | .write _ _ | .command _ _ => v.takeBundle p f (mkBundle p f f.body)
  | .token op => v.takeToken p f op
  | .cancel tag => v.takeCancel p f tag
  | .post j => v.takePost p f j
  | .msg len data => v.takeMsg p f len data
  | .image op slot ofs len data => v.takeImage p f op slot ofs len data
  | .trip op key => v.takeTrip p f op key

/-- A frame is served: one whose TAG the port has answered among its last 16 is not acted on again; the stored response
is sent again (R365) (log entry 102). -/
def Vp.serve (v : Vp) (p : Nat) (f : HFrame) : Vp :=
  match (v.port p).saved.find? (fun r => r.tag == f.tag) with
  | some r =>
    let x := v.port p
    (v.setPort p { x with sent := some r, serving := if x.serving = some f then none else x.serving }).addFld
      (Reg.HOST_P_REQ_CNT p) 16 16 1
  | none => v.act p f

/-- Queued frames are served in turn while the port serves none; `fuel` counts frames (log entry 102). -/
def Vp.portRun (p : Nat) : Nat → Vp → Vp
  | 0, v => v
  | n + 1, v =>
    let x := v.port p
    match x.serving, x.queue with
    | none, f :: q => portRun p n ((v.setPort p { x with serving := some f, queue := q }).serve p f)
    | _, _ => v

/-- The TOKEN request that a port serves, at a VP that decides it itself. -/
def Vp.tokenAsked (v : Vp) (p : Nat) : Option (HFrame × Nat) :=
  if v.pairMode && v.isB then none
  else match (v.port p).serving with
    | some f => match f.body with
      | .token op => some (f, op)
      | _ => none
    | none => none

/-- A TOKEN request that waits for VP-A when the partner is lost is decided by the VP that keeps the token alone (R369). -/
def Vp.tokenWaits (v : Vp) (p : Nat) : Vp :=
  match v.tokenAsked p with
  | some (f, op) => v.takeToken p f op
  | none => v

/-- Every port goes on with its queue. -/
def Vp.portsRun (v : Vp) : Vp := portIds.foldl (fun v p => Vp.portRun p 9 (v.tokenWaits p)) v

/-- A received frame is dropped and counted (R361, R366) (log entry 102). -/
def Vp.dropFrame (v : Vp) (p : Nat) : Vp := v.addFld (Reg.HOST_P_RX_CNT p) 16 16 1

/-- A host frame arrives at a port (R361, R366) (log entry 102). -/
def Vp.arrive (v : Vp) (p : Nat) (f : HFrame) : Vp :=
  if !decide (p < 4) || v.isRemoved 11 p || v.txOff then v
  else if !v.portOn p then v.dropFrame p
  else
    let trip := match f.body with
      | .trip _ _ => true
      | _ => false
    let x := v.port p
    if !trip && decide (8 ≤ x.queue.length) then v.dropFrame p
    else
      let v := (v.addFld (Reg.HOST_P_RX_CNT p) 0 16 1).setReg (Reg.HOST_P_LAST p)
        (w32 (f.tag % 65536 + f.body.typ % 256 * 65536))
      let v := v.setBit (Reg.HOST_P_STAT p) 2 true
      let x := { x with dst := f.src, dstVlan := f.vlan }
      if trip then
        let v := (v.setPort p { x with serving := some (x.serving.getD f) }).serve p f
        v.setPort p { v.port p with serving := x.serving }
      else Vp.portRun p 9 (v.setPort p { x with queue := x.queue ++ [f] })

/-- The reads that waited for the boundary start (R370). -/
def Vp.readStart (v : Vp) (p : Nat) : Vp :=
  match (v.port p).serving with
  | some f =>
    match f.body with
    | .read xs => if v.readCrosses xs then v else Vp.portRun p 9 (v.readNow p f xs)
    | _ => v
  | none => v

/-- No frame has come from the holder's port for `HOST_TOKEN_TMO` (R368). -/
def Vp.tokenTimeout (v : Vp) : Vp :=
  match v.host.token with
  | some (p, b) => if b = v.isB then v.dropToken p else v
  | none => v

/-- A port's link has been lost for 10 ms (R368, R382). -/
def Vp.linkLost (v : Vp) (p : Nat) : Vp :=
  if !decide (p < 4) then v
  else
    let v := v.dropToken p
    if v.portOn p && v.hasProt p && v.bit (Reg.HOST_P_CFG p) 4 then v.hostTrip p else v

/-! ### Messages between the partners (R369, R377) -/

/-- A HOSTX arrives (log entry 91). -/
def Vp.hostxIn (v : Vp) (x : HostX) (gap : Bool) : Vp :=
  if !v.pairMode then v
  else v.gapped gap (fun v =>
    match x with
    | .forward b =>
      let b := { b with own := false, waiting := false }
      let st := v.bundleTest b 1
      if st = stOk then (v.stage b).hostxSend (.confirm b.port b.tag) else (v.stageFull st).hostxSend (.refuse b.port b.tag)
    | .confirm p tag => v.confirmed p tag
    | .refuse p tag => v.withdraw p tag
    | .withdraw p tag =>
      let gone := v.host.staged.filter (fun b => !b.own && b.port == p && b.tag == tag)
      gone.foldl Vp.timeDrop
        { v with host := { v.host with staged := v.host.staged.filter (fun b => !(!b.own && b.port == p && b.tag == tag)) } }
    | .tokenReq p op =>
      if v.isB then v
      else
        let (v, ok) := v.tokenAsk (p, true) op
        v.hostxSend (.tokenIs p ok v.host.token)
    | .tokenIs p ok holder =>
      if !v.isB then v
      else
        let v := v.setToken holder
        match (v.port p).serving with
        | some f => match f.body with
          | .token _ => v.reply p f (if ok then stOk else stRole)
          | _ => v
        | none => v)

/-! ### Application at B_t (R374, R378, R379) -/

/-- A word that has passed its tests takes effect. -/
def Vp.putWord (v : Vp) (m a : Nat) (w : Word) : Vp :=
  if !v.domOn (accessDom m a) then v.pwrAccess
  else match region m a with
    | .sram a' => { v with mem := msetW v.mem a' w }
    | .ret => { v with ret := msetW v.ret a w }
    | .reg =>
      match regRow a with
      | some r => if r.acc = .ro ∨ r.acc = .ros then v else v.effect m a r w
      | none => v
    | _ => v

/-- One word of a write item at B_t, written by master `m`: a masked word takes the other bits as the items before it
have left them, and the tests are made on the state `v0` before the bundle (R373, R374), in which SAMPLE_LEAD and
APPLY_OFFSET stand as the bundle leaves them: they must meet R22 together (R31). -/
def Vp.applyWord (v v0 : Vp) (m : Nat) (q : Nat × Nat × Word) : WRes :=
  let a := q.1
  let w := (v.view m a &&& ~~~ (w32 q.2.1)) ||| (q.2.2 &&& w32 q.2.1)
  let w := match region m a with
    | .reg => if q.2.1 = 0xFFFFFFFF then q.2.2 else w
    | _ => (v.peekMem m a &&& ~~~ (w32 q.2.1)) ||| (q.2.2 &&& w32 q.2.1)
  if needsSeal a && !v0.sealBoth then ⟨v, isSeal⟩
  else
    let st := (v0.tryWrite m a (if isTime a then v0.reg a else w) true).st
    if st = isOk then ⟨v.putWord m a w, isOk⟩ else ⟨v, st⟩

/-- Writes in order, until one fails; the address of the one that failed stands beside. -/
def applyWords (v0 : Vp) (m : Nat) : List (Nat × Nat × Word) → Vp → WRes × Nat
  | [], v => (⟨v, isOk⟩, 0)
  | q :: r, v =>
    let x := v.applyWord v0 m q
    if x.st = isOk then applyWords v0 m r x.v else (x, q.1)

/-- One command at B_t, tested on the state `v0` before the bundle (R374, R379); `blocks` are the arms that a BLOCK of
this boundary names (log entry 60). -/
def Vp.applyCmd (v v0 : Vp) (m blocks : Nat) (c : HCmd) : WRes × Nat :=
  let arms := armIds.filter (fun k => c.arg.testBit k)
  match c.op with
  | 1 =>
    if c.arg / 4096 % 16 = 0 ∧ v0.tripSrc = 0
      ∧ arms.all (fun k => v0.armOn k && !v0.armRuns k && v0.bit Reg.BOOT_ARMED k) then
      (⟨(arms.filter (fun k => !blocks.testBit k)).foldl Vp.runArm v, isOk⟩, 0)
    else (⟨v, isRule⟩, 0)
  | 2 => (⟨arms.foldl Vp.blockArm v, isOk⟩, 0)
  | 3 => v.applyWord v0 m (Reg.LOOP_SP (c.arg % 128), 0xFFFFFFFF, c.val) |> fun x => (x, Reg.LOOP_SP (c.arg % 128))
  | 4 =>
    let cell := c.arg % 4096
    if v0.present' cell then
      (⟨(v.setCf cell 2 15 1 1).mgSend (cell / 256) (mgWrite (cell % 256) Reg.CN_PROT_CMD [w32 0x00A50001] .prot), isOk⟩, 0)
    else (⟨v, isRule⟩, 0)
  | _ => (⟨v, isRule⟩, 0)

/-- The items of a bundle in order: the state and ISTAT, the place of the item that failed, and the address refused. -/
def applyItems (v0 : Vp) (m : Nat) : List WItem → Nat → Vp → WRes × Nat × Nat
  | [], _, v => (⟨v, isOk⟩, 0, 0)
  | x :: r, i, v =>
    match applyWords v0 m x.writes v with
    | (y, a) => if y.st = isOk then applyItems v0 m r (i + 1) y.v else (y, i, a)

/-- The commands of a bundle in order, likewise (log entry 60). -/
def applyCmds (v0 : Vp) (m blocks : Nat) : List HCmd → Nat → Vp → WRes × Nat × Nat
  | [], _, v => (⟨v, isOk⟩, 0, 0)
  | c :: r, i, v =>
    match v.applyCmd v0 m blocks c with
    | (y, a) => if y.st = isOk then applyCmds v0 m blocks r (i + 1) y.v else (y, i, a)

/-- A bundle due at this boundary is applied whole or not at all (R374), and not with an uncorrectable error in it (R394); the answer says whether it took effect. -/
def Vp.applyBundle (v : Vp) (blocks : Nat) (b : Bundle) : Vp × Bool :=
  let m := (if b.own then 0x20 else 0x28) + b.port
  let (y, i, a) := if b.ecc then (⟨v, isEcc⟩, 0, 0)
    else if b.cmd then applyCmds v m blocks b.cmds 0 v else applyItems (v.withTimes b.times) m b.items 0 v
  let entry := fun (v : Vp) (code data : Nat) => if b.own then v.portEntry b.port (v.entry code b.port data) else v
  if y.st = isOk then (entry y.v 4 (b.tag % 65536), true)
  else
    let v := if y.st = isRule ∧ a ≠ 0 then v.cfgRefused a else v
    (entry ((v.hostSticky 4).hostInt 0) 5 (b.tag % 65536 + i % 256 * 2 ^ 16 + y.st * 2 ^ 24), false)

/-- The bundles due at the boundary that has come, in the order in which they were accepted; one that still waits for the
partner is withdrawn. EV52 occurs when at least one has taken effect (R374). -/
def Vp.applyBundles (v : Vp) : Vp :=
  let due := v.host.staged.filter (fun b => decide (b.target ≤ v.frameNo))
  let v := (due.filter (fun b => b.waiting)).foldl (fun v b => v.withdraw b.port b.tag) v
  let due := due.filter (fun b => !b.waiting)
  let v := { v with host := { v.host with staged := v.host.staged.filter (fun b => decide (v.frameNo < b.target)) } }
  let blocks := due.foldl (fun n b => b.cmds.foldl (fun n c => if c.op = 2 then n ||| c.arg else n) n) 0
  let (v, any) := due.foldl (fun (x : Vp × Bool) b =>
    let y := x.1.applyBundle blocks b
    (y.1, x.2 || y.2)) (v, false)
  let v := if v.timeAt ≠ 0 ∧ v.timeAt ≤ v.frameNo then
      ({ v with timeAt := 0, timeNeed := 0, timeGot := 0 }).timeSync false
    else v
  if any then v.post (.event 52) else v

/-! ### Event frames (R386) -/

/-- An event frame leaves on a port: after losses it begins with a LOST entry; its TAG is EVSEQ, which counts the port's event
frames (R362, R386) (log entry 75). -/
def Vp.eventSend (v : Vp) (p : Nat) : Vp :=
  let q := sget (fun _ => []) v.evq p
  let lost := sget (fun _ => 0) v.evLost p
  if !v.portOn p || (q.isEmpty && lost == 0) then v
  else
    let first := if lost = 0 then [] else [v.entry 0x0B 0 lost]
    let n := 16 - first.length
    let v := { v with evq := sset (fun _ => []) v.evq p (q.drop n), evLost := sset (fun _ => 0) v.evLost p 0 }
    let head := v.ownHead p 0xC0 (v.fld (Reg.HOST_P_EV_CNT p) 0 16)
    (v.setPort p { v.port p with evSent := first ++ q.take n, evHead := some head }).addFld (Reg.HOST_P_EV_CNT p) 0 16 1

/-- Event entries of a port have been lost (R386, R394) (log entry 7). -/
def Vp.entriesLost (v : Vp) (p : Nat) : Vp := ((v.hostSticky 1).hostInt 5).raise 11 p 2 cor (Reg.HOST_P_EV_CNT p)

end Sys2Proof.Machine
end

