-- ==== Sys2Proof/Machine/Frame.lean ====
section
/-!
DEFINITION. The frame: what happens at a boundary, in its order (R18, R36, R266, R267, R370, R374), the trains launched
(R124 to R129), the first frame (R17), and a joining VP's first frame (R432).
-/

namespace Sys2Proof.Machine

/-! ### Trains (R124 to R126) -/

/-- H1: the published latencies and ASYM of a ring. -/
def Vp.trainH1 (v : Vp) (m : Nat) : Nat :=
  v.fld (Reg.RING_TDN m) 0 24 + v.fld (Reg.RING_TUP m) 0 24 * 2 ^ 24 + v.fld (Reg.RING_ASYM m) 0 16 * 2 ^ 48

/-- H2: the ring's information. -/
def Vp.trainH2 (v : Vp) (m : Nat) : Nat :=
  let w := v.reg (Reg.RING_WRAP m)
  let arm := match v.armOfRing m with
    | some k => 2 ^ 9 + k * 2 ^ 10
    | none => 0
  v.ncell m + arm + b2n (v.ring m).topoChg * 2 ^ 14 + Machine.fld w 0 8 * 2 ^ 15 + b2n (Machine.bit w 16) * 2 ^ 23
    + Machine.fld w 8 8 * 2 ^ 24 + b2n (Machine.bit w 17) * 2 ^ 32

/-- The blocks of a train. -/
def Vp.trainOf (v : Vp) (m : Nat) (up : Bool) : List Block :=
  let ((w0, w1, w2), ack, grant) := v.recordFor m v.voidArm
  wholeTrain (v.ncell m) up (sotContent m up v.isB v.active v.paired v.gen v.chip)
    (trainBlocks v.frameNo (v.trainH1 m) (v.trainH2 m) w0 w1 w2 ack grant)

/-- Does a train leave in a direction: the VP owns it, and the PLL of its lane's quad holds lock (R32, R160)? -/
def Vp.launches (v : Vp) (m : Nat) (up : Bool) : Bool := v.owns up && v.quadOk (2 * m + b2n up)

/-- A train leaves on every direction that the VP owns of every trained ring (R18, R32) (log entry 15). -/
def Vp.trainsLaunch (v : Vp) : Vp :=
  if v.txOff then v
  else
    ringIds.foldl (fun v m =>
      if v.ringUp m then
        let dn := if v.launches m false then v.trainOf m false else []
        let up := if v.launches m true then v.trainOf m true else []
        v.updRing m (fun r => { r with trainDn := dn, trainUp := up })
      else v) v

/-! ### The frame begins -/

/-- A ring whose trainings have ended carries trains from this boundary (R152). -/
def Vp.ringStart (v : Vp) (m : Nat) : Vp :=
  if v.ringSt m = 1 ∧ v.mayTrain m ∧ v.hopsDone m then v.setFld (Reg.RING_STATE m) 0 2 2 else v

/-- Enumeration of a ring starts with its first train, in paired mode once a PST has come or the VP runs solo (R152,
R448). -/
def Vp.enumStart (v : Vp) (m : Nat) : Vp :=
  let r := v.ring m
  if v.ringSt m = 2 ∧ !r.enumOn ∧ !r.enumFailed ∧ (!v.paired ∨ v.peer.pstIn.isSome ∨ v.bit Reg.PEER_STAT 4) then
    v.setRing m { r with enumOn := true, enumFrames := 0, enumGood := [] }
  else v

/-- Does a division event of the scheduler occur: FRAME_NO mod DIV is PHASE (R266)? -/
def Vp.divDue (v : Vp) (a : Nat) : Bool :=
  decide (v.fld a 0 16 ≠ 0) && v.frameNo % v.fld a 0 16 == v.fld a 16 16

/-- The events of a boundary (R266). -/
def Vp.boundaryEvents (v : Vp) : Vp :=
  let v := v.post (.event 0)
  let v := if v.atSecond then v.post (.event 1) else v
  let v := if v.divDue Reg.SCHED_DIV0 then v.post (.event 2) else v
  if v.divDue Reg.SCHED_DIV1 then v.post (.event 3) else v

/-- Pools enabled since the last boundary are armed (R326). -/
def Vp.poolsEnable (v : Vp) : Vp :=
  poolIds.foldl (fun v p =>
    if v.bit Reg.ACQ_CFG 0 && v.poolOn p && v.poolSt p == 0 && !v.isRemoved 9 (0x10 + p) then v.poolEnable p else v) v

/-- The frame whose number now stands begins: rings start, overrides and closes named for this boundary take effect, the
trains leave, a standing trip repeats, and the status goes to the partner. -/
def Vp.beginFrame (v : Vp) : Vp :=
  let v := ringIds.foldl Vp.ringStart v
  let v := ringIds.foldl (fun v m => if v.ringUp m then v.updRing m RingSt.clearFrame else v) v
  let v := ringIds.foldl Vp.enumStart v
  let v := { v with held := [], decided := false }
  let v := ringIds.foldl Vp.closeAtBoundary v.ovrBoundary
  let v := v.boundaryEvents.trainsLaunch
  let v := armIds.foldl (fun v k => v.noteSent k v.voidArm) v
  v.pstSend.tripRepeat.poolsEnable

/-- The epoch of the frame that ends closes: its number is `n`, the banks of the cell state table exchange roles, and the
host-readable registers are captured (R36, R370) (log entries 74, 105). -/
def Vp.closeEpoch (v : Vp) (n : Nat) : Vp :=
  let v := (v.setReg Reg.HOST_EPOCH0 (w32 n)).setReg Reg.HOST_EPOCH1 (w32 (n / 2 ^ 32))
  ({ v with cstClosed := v.cst }).clearCst.capture'

/-- The boundary B_{n+1} (R18): what was measured in the frame is published, the epoch closes, staged writes and bundles
take effect, banks swap, and the next frame begins. `frames` are the conversions of the frame that ends (R296). The clock
is brought to the boundary. A VP in the fatal state launches no further frame (R409). -/
def Vp.frameBoundary (v : Vp) (frames : List AdcFrame) : Vp :=
  if !v.launched || v.fatal then v
  else
    let n := v.frameNo
    let v := v.nextFrame
    let v := v.frameCodes frames
    let v := ringIds.foldl (fun v m => (v.publish m).configService m) v
    let v := v.closeEpoch n
    let v := v.applyCoreWrites.applyBundles.loopBoundary
    let v := (v.peerBoundary v.frameNo).schedBoundary
    let v := [0, 1, 2, 3].foldl Vp.trackerBoundary v
    v.beginFrame

/-! ### The first frame (R17) -/

/-- The clock stands at the boundary that begins frame `n`, and frames run from here on: bank swaps and tunes that wait for
a boundary take effect at this one (R246, R252). -/
def Vp.launchAt (v : Vp) (n : Nat) : Vp :=
  let t := v.epochE * secUnit + n * v.fpU
  let v := v.advanceTo t
  let v := { v with launched := true, frameNo := n, frameOfs := v.tai - t
                    time := { v.time with seqErr := 0, slew := 0, boundary := t, prevNo := n - 1, prevLen := v.fpU } }
  ((v.setPhase 5).setBit Reg.TIME_STATE 8 true).seqRegs.loopBoundary.beginFrame

/-- The first frame begins at the first whole TAI second at least 1 ms after time is ready (R17); in paired mode the pair
has formed, or the VP runs solo (R446). -/
def Vp.firstFrame (v : Vp) : Vp :=
  if v.launched || v.fatal || !v.ready || v.phase != 4 || v.peer.joining
      || (v.paired && !v.bit Reg.PEER_STAT 2 && !v.bit Reg.PEER_STAT 4) then v
  else v.launchAt ((v.firstSecond - v.epochE) * 1000000000 / v.fp)

/-- JOIN (R432): the joining VP launches at the boundary that the SNAPs name. -/
def Vp.joinPair (v : Vp) (snaps : List Snap) : Vp :=
  match v.join snaps, snaps with
  | (v, true), s :: _ => if v.ready && !v.fatal then v.launchAt s.at_ else v
  | (v, _), _ => v

/-- Four frames after it starts, enumeration of a ring ends (R152); with the last one the cells are configured (R446). -/
def Vp.enumerationEnd (v : Vp) (m : Nat) : Vp :=
  let v := v.enumEnd m
  if v.phase = 5 ∧ !ringIds.any (fun m => (v.ring m).enumOn) then v.setPhase 6 else v

end Sys2Proof.Machine
end

