-- ==== Sys2Proof/Machine/Mem.lean ====
section
/-!
DEFINITION. Errors in the memories of the VP: the rows of the fault tables for a corrected and an uncorrectable error
(R77, R156, R188, R229, R258, R287, R313, R341, R359, R394, R435, R436, R454), and what each does beside the fault. The
table of operations has no row for them: the commands at I_n, at D_n and at a boundary bring them (log entry 140).
-/

namespace Sys2Proof.Machine

/-- The class of a row of a block's table of faults that an error in a memory raises; none for the other rows. -/
def memClass (blk cause : Nat) : Option Nat :=
  match blk, cause with
  | 0, 1 | 2, 1 | 3, 1 | 4, 1 | 5, 1 | 6, 1 | 8, 1 | 9, 1 | 10, 1 | 11, 1 | 12, 1 | 13, 2 => some cor
  | 0, 3 | 0, 4 | 4, 4 | 5, 5 | 6, 11 | 7, 8 | 8, 6 | 9, 2 | 9, 3 | 10, 4 | 11, 4 | 11, 5 | 11, 6 | 12, 9 | 13, 4 => some unc
  | 0, 6 | 0, 7 | 2, 7 | 3, 7 | 4, 6 | 5, 6 | 6, 12 | 8, 7 | 9, 4 | 9, 5 | 10, 5 | 11, 7 | 12, 10 | 13, 5 => some fat
  | _, _ => none

/-- The instance against which a row is raised (R396): 0xFF where the block cannot tie the error to one, the MC for its own
memory. -/
def MemErr.scope (e : MemErr) : Nat :=
  match e.blk, e.cause with
  | 0, 7 => 16
  | 0, _ | 2, _ | 12, _ | 13, _ => 0xFF
  | 3, 7 | 11, 4 | 11, 5 | 11, 6 => 0xFF
  | _, _ => e.inst

/-- Does the error name something: a row, and an instance of its block (R396)? -/
def MemErr.ok (e : MemErr) : Bool :=
  (memClass e.blk e.cause).isSome && (e.scope == 0xFF || match e.blk, e.cause with
    | 0, _ => true
    | 3, _ => decide (e.inst < 16)
    | 4, _ => decide (e.inst < 32)
    | 5, _ => decide (e.inst < 12)
    | 6, _ => decide (e.inst < 16)
    | 7, _ => decide (e.inst < 40)
    | 8, 6 => decide (16 ≤ e.inst) && decide (e.inst < 34)
    | 8, 7 => decide (e.inst < 16)
    | 8, _ => decide (e.inst < 34)
    | 9, 4 => decide (e.inst < 16) || decide (32 ≤ e.inst) && decide (e.inst < 40)
    | 9, 1 => decide (e.inst < 40)
    | 9, _ => decide (16 ≤ e.inst) && decide (e.inst < 32)
    | 10, _ => decide (e.inst < 4)
    | _, _ => decide (e.inst < 4))

/-! ### What an error does beside its fault -/

/-- The measurement engine meets an error in the record that it reads: the record is written with MEAS_SKIP (R341). -/
def Vp.measSkip (v : Vp) : Vp :=
  match v.acq.queue with
  | [] => v
  | (p, r) :: rest =>
    let v := { v with acq := { v.acq with queue := rest } }
    let v := v.setFld Reg.ACQ_MQ_STAT 0 5 rest.length
    (v.unmeasuredRec p r).unfull p

/-- The locator meets an error in the record that it reads: SE_REFUSED (R341). -/
def Vp.locSkip (v : Vp) : Vp :=
  match v.acq.loc with
  | [] => v
  | _ :: rest => { v with acq := { v.acq with loc := rest } }.setBit Reg.ACQ_LOC_STAT 5 true

/-- An error in the record that pool `p` writes: its header keeps COMPLETE at 0, and the pool re-arms (R341, R330). -/
def Vp.recLost (v : Vp) (p : Nat) : Vp :=
  if (v.acq.cur.lookup p).isSome then
    let v := { v with acq := { v.acq with cur := sdel p v.acq.cur } }
    if v.poolOn p then (v.setPoolSt p 3).rearm p else v
  else v

/-- Entry `i` of the phasor queue is dropped, and counted as lost (R359). -/
def Vp.pqLose (v : Vp) (i : Nat) : Vp :=
  if i < v.grid.pq.length then
    let v := { v with grid := { v.grid with pq := v.grid.pq.eraseIdx i } }
    (((v.setFld Reg.GRID_PQ_STAT 0 6 v.grid.pq.length).addFld Reg.GRID_PQ_STAT 16 16 1).gridSticky 1).gridInt 7
  else v

/-- The messages in an exchange buffer are discarded (R428, R435): `which` names the partner's RFHs, RTV, digests and PST of
the frame, one bit each. -/
def Vp.exchangeLose (v : Vp) (which : Nat) : Vp :=
  let v := v.peerSticky 7
  let v := if which.testBit 0 then ringIds.foldl (fun v m => v.updRing m (fun r => { r with rfhPeer := [] })) v else v
  { v with peer := { v.peer with
    rtvIn := if which.testBit 1 then [] else v.peer.rtvIn
    rtvGot := v.peer.rtvGot && !which.testBit 1
    digIn := if which.testBit 2 then [] else v.peer.digIn
    pstGot := v.peer.pstGot && !which.testBit 3 } }

/-- What an error does beside its fault. -/
def Vp.memEffect (v : Vp) (e : MemErr) : Vp :=
  match e.blk, e.cause with
  | 0, 3 => v.jrnlAgain
  | 4, 1 =>
    let i := 16 * e.inst + e.sub % 16
    { v with loop := { v.loop with delay := sset (fun _ => 0) v.loop.delay i (sget (fun _ => 0) v.loop.delay i + 16) } }
  | 4, 4 => v.eccHold (16 * e.inst + e.sub % 16)
  | 5, 5 => if v.armOn e.inst then v.setArm e.inst { v.arm e.inst with badHist := true } else v
  | 6, 11 => v.updRing e.inst (fun r => { r with bufBad := true })
  | 7, 8 => if v.laneHere e.inst && v.quadOk e.inst then v.setLane e.inst ((v.lane e.inst).trainStart) else v
  | 8, 6 => v.sliceOut (e.inst - 16)
  | 9, 2 => if e.sub = 0 then v.measSkip else v.locSkip
  | 9, 3 => v.recLost (e.inst - 16)
  | 10, 4 => v.pqLose e.sub
  | 11, 4 =>
    { v with host := { v.host with staged := v.host.staged.mapIdx (fun i b => if i = e.sub then { b with ecc := true } else b) } }
  | 11, 5 => { v with host := { v.host with shadowBad := v.host.shadowBad ++ [e.addr] } }
  | 11, 6 =>
    let v := { v with host := { v.host with sealBad := true } }
    if v.sealOpen then v.sealShut.imageStop else v
  | 12, 9 => v.exchangeLose e.sub
  | 13, 2 => v.retWrite
  | 13, 4 => v.retLost
  | _, _ => v

/-- The condition that an error is (R398): of an enabled arm engine's histogram it is found with the engine's decision
(R77, R397). A tune that the error ends is one condition more of the same fault (R258). -/
def Vp.memConds (v : Vp) (e : MemErr) : List Cond :=
  match memClass e.blk e.cause with
  | none => []
  | some k =>
    if e.blk = 5 ∧ e.cause = 5 ∧ v.armOn e.inst then []
    else Cond.own e.blk e.cause k e.addr ::
      (if e.blk = 4 ∧ e.cause = 4 ∧ v.bit (Reg.LOOP_SLOT_CFG (16 * e.inst + e.sub % 16)) 15 then v.tuneCond e.inst else [])

/-- The errors that a command brings: each has its effect, and those of one scope are one fault (R397)
(log entry 140). -/
def Vp.memErrors (v : Vp) (errs : List MemErr) : Vp :=
  let errs := errs.filter (fun e => e.ok && !v.isRemoved e.blk e.scope)
  let scopes := errs.foldl (fun l e => if l.contains (e.blk, e.scope) then l else l ++ [(e.blk, e.scope)]) []
  let conds := scopes.map (fun s =>
    (s, (errs.filter (fun e => (e.blk, e.scope) == s)).flatMap v.memConds))
  conds.foldl (fun v x => v.raiseAll x.1.1 x.1.2 x.2) (errs.foldl Vp.memEffect v)

end Sys2Proof.Machine
end

