-- ==== Sys2Proof/Machine/Settle.lean ====
section
/-!
DEFINITION. What follows from a command within the VP: removals and the device-level fatal sequence (R396, R407, R409),
the scheduler's inputs in their order (R270), and the ports' queues (R366).
-/

namespace Sys2Proof.Machine

/-! ### Removals (R396, R407) -/

/-- A unit of ACQ is removed (R341) (log entry 36). -/
def Vp.removeUnit (v : Vp) (u : Nat) : Vp :=
  let key := 9 * 256 + u
  let v := if v.flt.removed.contains key then v
    else { v with flt := { v.flt with removed := v.flt.removed ++ [key] } }
  (v.setFld (Reg.ACQ_TU_STAT u) 0 3 4).acqSticky 6

/-- A unit, a pool, or a derived channel with every unit whose chain uses it (R341). -/
def Vp.removeAcq (v : Vp) (inst : Nat) : Vp :=
  if inst < 16 then v.removeUnit inst
  else if inst < 32 then
    let p := inst - 16
    let v := (v.setBit (Reg.ACQ_P_STAT p) 3 true).acqSticky 6
    (poolIds.filter (fun u => v.tuLead u == p)).foldl (fun v u => v.setFld (Reg.ACQ_TU_STAT u) 0 2 0) v
  else
    let d := inst - 16
    let uses := fun (v : Vp) (u : Nat) => chain v 8 (v.tuSrc u) d
    (poolIds.filter (uses v)).foldl Vp.removeUnit v
where
  /-- Does the chain of channel code `c` name channel code `d`? -/
  chain (v : Vp) : Nat → Nat → Nat → Bool
    | 0, c, d => c == d
    | n + 1, c, d => c == d
        || (decide (16 ≤ c) && decide (c < 24) && (List.range 3).any (fun i => chain v n (v.dcIn (c - 16) i) d))

/-- The urgent burst of a removed engine that feeds a level route with LOSS_TRIP (R250). -/
def Vp.lossTrip (v : Vp) (e : Nat) : Vp :=
  if v.lossTrips e then
    (v.setBit Reg.LOOP_STICKY 2 true).urgCmd (w32 0x00A50001)
  else v

/-- Instance `inst` of block `blk` is removed; the MC enters it in the journal (R407). -/
def Vp.removeInst (v : Vp) (blk inst : Nat) : Vp :=
  let v := v.journal 3 blk inst 3 (v.reg (Reg.FLT_FIRST blk 0)).toNat (v.reg (Reg.FLT_FIRST blk 1)).toNat 0
  match blk with
  | 0 | 3 => v.removeCore inst
  | 4 => (v.removeEngine inst).lossTrip inst
  | 6 => (v.setFld (Reg.RING_STATE inst) 0 2 0).lanesSync
  | 7 => v.removeLanes inst
  | 8 => if inst < 16 then v.adcSync else v.dropSlice (inst - 16)
  | 9 => v.removeAcq inst
  | 10 => if inst < 4 then v.setBit (Reg.GRID_TR_STAT inst) 8 true else v
  | 11 => (v.dropToken inst).lanesSync
  | 15 => { v with clk := { v.clk with tap := v.clk.tap.sealed } }
  | _ => v

/-- The sequence of a device-level fatal fault (R409), which runs once: in single-VP mode SYS sends the urgent burst,
unless RING as a whole has failed or no clock runs, and `TRIP_OUT_N` is asserted (R416) (log entry 92). -/
def Vp.deviceFatal (v : Vp) (blk inst : Nat) : Vp :=
  if v.fatal then v
  else
    let v := v.setFld Reg.SYS_FATAL 0 13 (1 + blk % 16 * 2 + inst % 256 * 32)
    let v := { v.blockAll with boot := { v.boot with failN := true } }
    let v := if v.paired then v
      else
        let v := { v with trip := { v.trip with out := true } }
        if (blk = 6 ∧ inst = 0xFF) ∨ v.clk.lost then v else v.urgCmd (w32 0x00A50001)
    { v with txOff := true }

/-! ### The inbox (R270) -/

/-- One input is taken (log entry 22). -/
def Vp.takeInput (v : Vp) : Input → Vp
  | .removal b i => v.removeInst b i
  | .deviceFatal b i => v.deviceFatal b i
  | .complete k => v.completeTop k
  | .take k => if v.dispatching then v.takeIdle k else v
  | .event n => v.occur n
  | .post k w => v.postItem w 0 (if k ≤ 16 then 1 else 0)
  | .hostLost p => v.entriesLost p

/-- The order in which inputs that arrive together are taken (R270), what faults take away before them: its rank, then the
core or event. -/
def Input.rank : Input → Nat
  | .removal _ _ | .deviceFatal _ _ | .hostLost _ => 0
  | .complete k => 0x10000 + k
  | .take k => 0x20000 + k
  | .event n => 0x30000 + n
  | .post k _ => 0x40000 + k

/-- An input joins a list ordered by rank, behind those of its rank. -/
def joinInput (i : Input) : List Input → List Input
  | [] => [i]
  | j :: r => if i.rank < j.rank then i :: j :: r else j :: joinInput i r

/-- Inputs in order (log entry 22). -/
def orderInputs (l : List Input) : List Input := l.foldl (fun r i => joinInput i r) []

/-- The inputs that wait are taken, and those that they bring about, `fuel` rounds at most (log entry 22). -/
def Vp.rounds : Nat → Vp → Vp
  | 0, v => v
  | n + 1, v =>
    match v.inbox with
    | [] => v
    | l => rounds n ((orderInputs l).foldl Vp.takeInput { v with inbox := [] })

/-- What a command brings about within the VP, until nothing waits (log entry 22). -/
def Vp.settle (v : Vp) : Vp := ((v.msgLeft).rounds 64).portsRun.rounds 64

end Sys2Proof.Machine
end

