-- ==== Sys2Proof/Syntax.lean ====
section
/-!
DEFINITION. The commands of the part: one constructor of `Instr` for each row of the table of operations and events, with
the operands that the row's rule gives it. Numbers are plain; `WellFormed` says which of them name something.

Registers are written by a master: a control core 0 to 15, or 16 for the management core (R36, R38). Times are in the units
that each line names.
-/

namespace Sys2Proof

open Machine

/-- A cell: its ring and its position. -/
structure CellRef where
  ring : Nat
  pos : Nat
  deriving DecidableEq, Repr

/-- A PLL (R455, R460): the VP's root PLL, that of a quad, or a cell's root PLL. -/
inductive PllRef where
  | root
  | quad (q : Nat)
  | cell (c : CellRef)
  deriving DecidableEq, Repr

/-- A lane (R158, R161): of the VP, or CL0 or CL1 of a cell. -/
inductive LaneRef where
  | vp (l : Nat)
  | cell (c : CellRef) (i : Nat)
  deriving DecidableEq, Repr

/-- Who writes a register: a core of the VP, or the housekeeping core of a cell (R7, R113). -/
inductive Writer where
  | vp (m : Nat)
  | hk (c : CellRef)
  deriving DecidableEq, Repr

/-- The header of a host frame on its port (R361, R362): TAG, source MAC, and VLAN tag or 0. -/
structure HostHdr where
  port : Nat
  tag : Nat
  src : Nat
  vlan : Nat
  deriving DecidableEq, Repr

inductive Instr where
  -- Resets, clocks and power (R455 to R493)
  /-- `role` is the level of `PAIR_ROLE`. -/
  | powerOnReset (role : Bool)
  | warmReset
  | rootPllLock
  /-- `guard` says that the cycle guard closed a gate. -/
  | pllLossOfLock (pll : PllRef) (guard : Bool)
  /-- `within` says that the relock came within 10 ms. -/
  | pllRelock (pll : PllRef) (guard within : Bool)
  | quadPllRelockTimeout (q : Nat)
  | syncInEdge (rising guard : Bool)
  | sysPwrCfgWrite (m : Nat) (w : Word)
  | domainReady (d : Nat)
  /-- `coreInt` is the level of `CORE_INT`. -/
  | cnPowerOnReset (c : CellRef) (coreInt : Bool)
  | laneWatchdog (c : CellRef)
  -- Start-up (R437 to R450)
  /-- What the flash answers: it describes itself; its manufacturer code; log2 of its size in bytes; four-byte addresses;
  quad reads; its clock in MHz. -/
  | flashDiscoveryDone (ok : Bool) (jedec log2 : Nat) (addr4 r144 : Bool) (mhz : Nat)
  | imageLoadDone (readOk : Bool)
  | firstFrameLaunch
  | enumerationEnd (ring : Nat)
  | cellConfigTimeout (c : CellRef)
  | armingBound
  | bootRetclr (m : Nat) (w : Word)
  -- The frame
  /-- The conversions of the channels in the frame that ends; the errors found in memories. -/
  | frameBoundary (frames : List AdcFrame) (errs : List MemErr)
  | trackerPublish
  | adcResultUpdate
  /-- The analogue inputs at I_n; the errors found in memories. -/
  | loopLatch (ain : List (List RawConv)) (errs : List MemErr)
  /-- `t`: ns after I_n. -/
  | loopSlotWaitResume (e t : Nat)
  | loopDone (t : Nat)
  | loopOverrunDeadline (t : Nat)
  | tuneStart (m e : Nat) (w : Word)
  | tuneStop (m e : Nat) (w : Word)
  | loopESwap (m e : Nat) (w : Word)
  | loopSwap (m : Nat) (w : Word)
  | loopSlotIntWrite (m slot : Nat) (w : Word)
  /-- The errors found in memories. -/
  | decisionInstant (errs : List MemErr)
  /-- `t`: ns after D_n. -/
  | armRecordWritten (k t : Nat)
  | decisionReserveExpiry
  | armOvrWrite (m e : Nat) (w : Word)
  | overrideConfirmTimeout (e : Nat)
  | timeChangeConfirmTimeout
  | armDecTimeClr (m : Nat) (w : Word)
  -- Rings at the VP
  /-- `t`: return latency in 62.5 ps; `sotOk`, `crcOk`: SOT and TRAIN_CRC are good; `errs`: other bad blocks; `sent`: when the
  RFH leaves, in ns after B_n. -/
  | trainCopyReturn (ring : Nat) (up wrapped : Bool) (t hop : Nat) (sotOk crcOk : Bool) (errs sent : Nat)
  /-- `arr`: ns after B_n. -/
  | reportReceived (ring pos : Nat) (up wrapped : Bool) (arr slot : Nat)
  | mgRequestGo (m : Nat) (w : Word)
  /-- `good`: MGS and MGE are good; `errs`: other bad blocks. -/
  | mgPacketReturn (ring tag status resp : Nat) (data : List Word) (good : Bool) (errs : Nat)
  | mgRetryTimeout (ring tag : Nat)
  | retrainAttempt (ring hop : Nat)
  | retrainNow (m ring : Nat) (w : Word)
  | closeNow (m ring : Nat) (w : Word)
  | closeConfirmTimeout (ring hop : Nat)
  | ringUrgCmdSend (m : Nat) (w : Word)
  | tripInputActive (input : Nat)
  | tripInputRelease (input : Nat)
  | tripOutRelease
  | partnerFailAssert
  -- Cells
  /-- The three decision conversions, as their converter gives them. -/
  | sampleInstant (c : CellRef) (r0 r1 r2 : Int)
  | reportAssembled (c : CellRef)
  | applyInstant (c : CellRef)
  | gateEdgeDue (c : CellRef)
  | trimCarrierStart (c : CellRef)
  | refreshLimitReached (c : CellRef)
  | trainReceived (c : CellRef) (x : CnTrain)
  | cnThetaUpdate (c : CellRef)
  | urgentBlockReceived (c : CellRef) (rx content : Nat)
  | mgRead (c : CellRef) (p : CnPkt)
  | mgWrite (c : CellRef) (p : CnPkt)
  | mgConfig (c : CellRef) (p : CnPkt)
  | mgConfigEnd (c : CellRef) (p : CnPkt)
  | mgReset (c : CellRef) (p : CnPkt)
  | mgReservedOpcode (c : CellRef) (p : CnPkt)
  | cnCalibrationDone (c : CellRef)
  | cnAdcCal (c : CellRef)
  | cnRecalStageDone (c : CellRef)
  | pwmCommit (c : CellRef)
  | cnRetireCommand (c : CellRef) (w : Word)
  | clearParityCause (c : CellRef)
  | cnFreeze (c : CellRef) (w : Word)
  | cnFreezeExit (c : CellRef)
  /-- `b`: the pin is `DESAT_B_N`; `chat`: its chatter detector fired. -/
  | desatTrip (c : CellRef) (b chat : Bool)
  /-- Consecutive conversions, the latest last. -/
  | overVoltageTrip (c : CellRef) (raws : List Int)
  | auxResult (c : CellRef) (ch : Nat) (raws : List Int)
  | gateSupplyLost (c : CellRef) (chat : Bool)
  | gateSupplyRestored (c : CellRef)
  /-- `pin`: 0 `DESAT_A_N`, 1 `DESAT_B_N`, 2 `GSUP_OK`. -/
  | cnChatterCleared (c : CellRef) (pin : Nat)
  | configParityError (c : CellRef)
  | bypFastAssert (c : CellRef)
  | bypMechAssert (c : CellRef)
  /-- The measured delay of 64 taps, in 1/256 tick. -/
  | delayLineCalibration (c : CellRef) (dl : Nat)
  | overrideAtBoundary (c : CellRef)
  | closeAtBoundary (c : CellRef)
  | timeChangeAtBoundary (c : CellRef)
  /-- `side`: false P, true S. -/
  | cellLossOfSignal (c : CellRef) (side : Bool)
  | orphanTimeout (c : CellRef) (side : Bool)
  | mboxInWrite (c : CellRef) (w : Word)
  | mboxOutWrite (c : CellRef) (w : Word)
  | hkMemoryError (c : CellRef)
  -- Lanes and hops (R164 to R185). A hop's ends are its near end (false), towards the VP's downstream transmitter, and
  -- its far end.
  | hopTrainStart (ring hop : Nat) (far : Bool)
  /-- The coefficients found, and the latency found at block lock: as `LANE_LAT` holds it for a VP lane, in ps for a
  cell's. -/
  | trainStageDone (l : LaneRef) (lost : Bool) (c0 c1 lat : Word)
  | hopConfirm (ring hop : Nat) (far : Bool) (blk : Nat)
  | hopTimeout (ring hop : Nat)
  | lossOfSignal (l : LaneRef)
  | lossOfClockLock (l : LaneRef)
  /-- `hdrs`: invalid sync headers that led to it. -/
  | lossOfBlockLock (l : LaneRef) (hdrs : Nat)
  /-- `rows`: the conditions of R170 that clear, bit 0 signal, 1 clock lock, 2 block lock; `lat`: the latency found at lock,
  as for a training stage. -/
  | lossCleared (l : LaneRef) (rows : Nat) (lat : Word)
  | highBitErrorRate (l : LaneRef) (n : Nat)
  /-- `dens`: data transitions; `dirs`: the direction in which adaptation moves each coefficient; `errs`: bit errors of the
  pattern checker. -/
  | adaptWindow (l : LaneRef) (dens : Nat) (dirs : List Int) (errs : Nat)
  | eyeMeasurement (l : LaneRef) (h v : Nat)
  | fastReadaptEnd (l : LaneRef)
  | lanePwrRequest (m l : Nat) (w : Word)
  | electricalIdleBurst (l : Nat) (recv : Bool) (stage : Nat)
  | electricalIdleExit (l : Nat) (recv : Bool)
  | eiLost (l : Nat)
  | deepEntry (l : LaneRef)
  | signalReturn (l : LaneRef) (lat : Word)
  | dskMarkerSend
  /-- Per lane, the content received and by how many blocks it lies behind the earliest. -/
  | dskMarkerReceived (ms : List (Nat × Nat × Nat))
  -- Time (R190 to R229)
  /-- `sdly`: how long after its instant the marker is sent, in 62.5 ps. -/
  | ptmSend (sdly : Nat)
  /-- `stamp`: TAI time in 62.5 ps. -/
  | ptmReceived (content stamp : Nat)
  /-- `th` in 2^-8 ns. -/
  | timeMeasurement (src : Nat) (th : Int)
  | ptpMeasSubmit (m : Nat) (w : Word)
  | ptpEventMessage (port : Nat) (tx : Bool) (mtype seq sec ns frac : Nat)
  | timeTsqPop (m : Nat)
  /-- `stamp` in 62.5 ps within the second; `gapMs` since the qualified edge before it. -/
  | ppsEdge (stamp gapMs : Nat)
  | ppsMeasurementDelivered
  | ppsOutPulse (high : Bool)
  | sourceTimeout (src : Nat)
  | timeSetGo (m : Nat) (w : Word)
  | wideValueReadLatch (m a : Nat)
  -- The work scheduler (R260 to R287)
  | schedPost (m : Nat) (w : Word)
  | selfDone (core : Nat)
  | coreException (core : Nat) (cause pc val : Word)
  | itemWatchdogOverrun (item : Nat)
  | schedLockRead (m j : Nat)
  | schedLockWrite (m j : Nat)
  /-- `entry`: the write is of `SCHED_WI_ENTRY`, else of `SCHED_WI_CFG`. -/
  | wiCfgWrite (m item : Nat) (entry : Bool) (w : Word)
  | debugHalt (core : Nat)
  | debugResume (core : Nat)
  -- Analogue inputs (R288 to R312)
  | adcInjReq (m : Nat) (w : Word)
  /-- The raw output, at a limit of the converter or not, and a hard excursion or not. -/
  | injectedResult (ch : Nat) (raw : Int) (limit hard : Bool)
  | adcCalAll (m : Nat) (w : Word)
  | adcCalOne (m : Nat) (w : Word)
  /-- The factors found. -/
  | sliceCalibrationDone (ofs : Int) (gain : Nat)
  | rotationStep
  /-- `mean`: the mean difference in 1/256 LSB. -/
  | handoverStageEnd (moon : Nat) (pairs : List (Int × Int))
  | lpBurstStart
  | streamLineWrite (ch lag sidx : Nat) (xs : List RawConv)
  | adcOverRange (ch : Nat) (high hard : Bool)
  -- Records and fault location (R314 to R341)
  /-- A run of raw conversions, of which the first `lead` are history; `taken` samples stood in the head ring. -/
  | triggerCrossing (pool lead taken : Nat) (raw : List (Nat × List RawConv))
  | tailComplete (pool lead : Nat) (raw : List (Nat × List RawConv)) (facts : RecFacts)
  | measurementComplete
  | acqPFree (m pool : Nat) (w : Word)
  | locatorSeDone
  | locRemoteSubmit (m : Nat) (w : Word)
  -- The grid tracker (R342 to R358)
  | tliWordReceived (j word : Nat)
  | tliCodeError (j : Nat)
  | tliTimeout (j : Nat)
  /-- The entry of tracker `k` for second `sec` and count `n` in it. -/
  | phasorEntryWritten (k sec n : Nat)
  | gridPqPop (m : Nat)
  -- Hosts (R360 to R394)
  | hostFrameDropped (port : Nat)
  | badFrame (h : HostHdr) (typ : Nat)
  /-- Items: address and number of words. -/
  | read (h : HostHdr) (items : List (Nat × Nat))
  | readDeferredStart (port : Nat)
  | write (h : HostHdr) (target : Nat) (items : List WItem)
  /-- COMMAND frames, by their first command; `rest` are the further commands of the bundle. -/
  | deblock (h : HostHdr) (target arms : Nat) (rest : List HCmd)
  | block (h : HostHdr) (target arms : Nat) (rest : List HCmd)
  | setpoint (h : HostHdr) (target j : Nat) (w : Word) (rest : List HCmd)
  | retire (h : HostHdr) (target cell : Nat) (w : Word) (rest : List HCmd)
  | tokenRequest (h : HostHdr)
  | tokenRelease (h : HostHdr)
  | tokenTimeout
  | hostLinkLost (port : Nat)
  | cancel (h : HostHdr) (tag : Nat)
  | post (h : HostHdr) (j : Nat)
  | msg (h : HostHdr) (len : Nat) (data : List Word)
  | hostPMsgAck (m port : Nat) (w : Word)
  | hostPMsgSend (m port : Nat) (w : Word)
  | imageRead (h : HostHdr) (slot ofs len : Nat)
  | imageErase (h : HostHdr) (slot ofs : Nat)
  | imageProgram (h : HostHdr) (slot ofs : Nat) (data : List Nat)
  | imageCrc (h : HostHdr) (slot ofs len : Nat)
  /-- The flash answered. -/
  | imageOpDone (ok : Bool)
  | trip (h : HostHdr) (key : Nat)
  | tripClear (h : HostHdr) (key : Nat)
  | eventFrameSend (port : Nat)
  | partnerConfirm (port tag : Nat)
  | partnerConfirmTimeout (port tag : Nat)
  /-- `gap`, here and below: a block of the message stood in a missing place (R428). -/
  | hostxReceived (x : HostX) (gap : Bool)
  | sealOpen
  | sealClose
  /-- The filtered levels, and whether the chatter detector fires. -/
  | sealPinChange (a b chatter : Bool)
  -- Faults (R395 to R416)
  | fltAck (m blk : Nat) (w : Word)
  | faultAutoAck (blk inst : Nat)
  | dumpWritten
  -- The pair (R417 to R434)
  | cfgdReceived (digest : Nat) (role gap : Bool)
  | soloStart
  | rfhReceived (ring : Nat) (f : Rfh) (frame arr : Nat) (gap : Bool)
  | rfhDeadline (ring sent : Nat)
  | forwardedReportReceived (blk arr : Nat) (gap : Bool)
  /-- Per arm its L and i_arm. -/
  | rtvReceived (frame : Nat) (xs : List (Nat × Nat × Int)) (gap : Bool)
  | rtvWaitExpiry
  | ackSetClose
  | digReceived (frame : Nat) (ds : List (Nat × Nat)) (gap : Bool)
  | digestCompare
  | snapApply (x : Snap) (gap : Bool)
  | snapTimeout (k : Nat)
  | pstReceived (x : Pst) (gap : Bool)
  | pstMissing
  | takeover
  | join (snaps : List Snap)
  | tripMessageReceived (src : Nat) (gap : Bool)
  -- Registers without a row of their own
  | stickyClr (m a : Nat) (w : Word)
  | w1cClear (m a : Nat) (w : Word)
  | registerWrite (who : Writer) (a : Nat) (w : Word) (guard : Bool)
  -- Further rows
  | warmResetRelease
  | hiBerCleared (l : LaneRef) (n : Nat)
  | sealChatterCleared
  | depthRampDone
  | capacitorHigh (c : CellRef) (raw : Int)
  /-- The part whose access port it is: the VP (none), or a cell. -/
  | tapInstructionLoad (part : Option CellRef) (t : Tap)
  deriving DecidableEq, Repr

end Sys2Proof
end

