-- ==== Sys2Proof/Decode.lean ====
section
/-!
DEFINITION. Words of the table of operations and events. The table gives no row any bits: a command is no word, so no word
spells one.
-/

namespace Sys2Proof

/-- The command that a word spells by the table's bits: none (log entry 4). -/
def decodeTableWord (_nbits _w : Nat) : Option Instr := none

end Sys2Proof
end

