-- ==== Sys2Proof/Machine/State.lean ====
section
/-!
DEFINITION. The state of the part: a valve processor, the cell nodes of its rings, and the commands that wait.
-/

namespace Sys2Proof.Machine

/-- The state. Whatever the spec gives a valve processor stands in `Vp`, and a cell node in `Cell`. -/
structure State where
  /-- The commands that wait, first in, first out. -/
  pending : List Instr
  /-- The valve processor. -/
  vp : Vp
  /-- The cell nodes, by 256 * ring + position; an unlisted one stands as its power-on reset leaves it. -/
  cells : List (Nat × Cell)
  deriving DecidableEq, Repr

/-- No command ends in a fault: every fault of the spec is a condition that the part reports and goes on from, with or
without the scope that failed (R395 to R410), and so is a next state (log entry 24). -/
inductive Fault
  deriving DecidableEq, Repr

/-- Why a command is refused. No meaning of this model refuses (log entry 24). -/
inductive Refusal where
  /-- Raised by the arm of a command without a meaning; there is none. Safe: nothing is claimed of such a command. -/
  | notModelled (mnemonic : String)
  deriving DecidableEq, Repr

/-- The machine right after `PORESET_N` is released (R472): every register at its reset value, memories at zero, the
flash erased and the journal empty; the cells after their own power-on reset (R470, R474) (log entry 4). -/
def State.reset : State := { pending := [], vp := {}, cells := [] }

end Sys2Proof.Machine
end

