-- ==== Sys2Proof/Machine/Act.lean ====
section
/-!
DEFINITION. How a command reaches the part that it acts on, and the steps that concern both ends of a hop. A command to a
valve processor whose clocks do not run, or to a cell whose root PLL has lost lock, finds nothing that acts (R457, R460,
R471).
-/

namespace Sys2Proof.Machine

/-- The key of a cell. -/
def cellKey (c : CellRef) : Nat := 256 * c.ring + c.pos

/-- A cell of the part. -/
def State.cell (s : State) (c : CellRef) : Cell := sget (fun _ => {}) s.cells (cellKey c)

/-- `s` with a cell's state set; the list keeps its canonical form. -/
def State.setCell (s : State) (c : CellRef) (x : Cell) : State :=
  { s with cells := sset (fun _ => {}) s.cells (cellKey c) x }

/-- The valve processor takes up `f`, and what that brings about within it, whether its clocks run or not. -/
def State.vpAny (s : State) (f : Vp → Vp) : State := { s with vp := (f s.vp).settle }

/-- The valve processor takes up `f`, and what that brings about within it, while its clocks run (log entry 18). -/
def State.onVp (s : State) (f : Vp → Vp) : State := if s.vp.runs then s.vpAny f else s

/-- A cell takes up `f`, whether its clock runs or not. -/
def State.cellAny (s : State) (c : CellRef) (f : Cell → Cell) : State := s.setCell c (f (s.cell c))

/-- A cell takes up `f` while its clock runs (log entry 18). -/
def State.onCell (s : State) (c : CellRef) (f : Cell → Cell) : State :=
  if (s.cell c).clamped then s else s.cellAny c f

/-- The cell and side that stand at an end of a hop, if a cell does (R119, R151). -/
def Vp.cellEnd (v : Vp) (m h : Nat) (far : Bool) : Option (CellRef × Bool) :=
  if far then (if h < v.ncell m then some (⟨m, h⟩, false) else none)
  else if h = 0 then none else some (⟨m, h - 1⟩, true)

/-- An end of a hop starts to train (R151, R174). -/
def State.hopStart (s : State) (m h : Nat) (far : Bool) : State :=
  let t := s.onVp (fun v => v.hopStart m h far)
  match s.vp.cellEnd m h far with
  | some (c, side) => t.onCell c (fun x => x.hopStart side)
  | none => t

/-- An end of a hop takes 16 TRAIN blocks with content `blk` (R173): the end checks them and confirms, and the VP learns
it. -/
def State.hopConfirm (s : State) (m h : Nat) (far : Bool) (blk : Nat) : State :=
  match s.vp.cellEnd m h far with
  | some (c, side) =>
    let x := s.cell c
    let ok := !x.clamped && x.takesTrain side blk && x.trainGood side blk
    (s.onCell c (fun x => x.hopConfirm side blk)).onVp (fun v => v.hopConfirm m h far blk ok)
  | none => s.onVp (fun v => v.hopConfirm m h far blk (v.paired && blk.testBit 3))

/-- A hop is not trained in time (R151, R176): the VP declares it broken, and its ends at cells bridge. -/
def State.hopTimeout (s : State) (m h : Nat) : State :=
  let t := s.onVp (fun v => v.hopTimeout m h)
  if (s.vp.hop m h).started && !(t.vp.hop m h).started then
    [false, true].foldl (fun t far =>
      match s.vp.cellEnd m h far with
      | some (c, side) => t.onCell c (fun x => x.hopBroken side)
      | none => t) t
  else t

/-- An operation on a lane: `f` with the lane's own thresholds, its faults shown by register `addr` of the VP's lane. -/
def State.onLane (s : State) (l : LaneRef) (addr : Nat → Nat) (f : Lane → Lane × List Nat) : State :=
  match l with
  | .vp l => s.onVp (fun v => v.laneOp l (addr l) f)
  | .cell c i => s.onCell c (fun x => x.onLane i f)

/-- The latency that a lane of the VP reports at a lock (R163): a ring lane holds T_VPTX and T_VPRX of R146 exactly. -/
def vpLat (l : Nat) (lat : Word) : Word := if l < 32 then w32 (512 + 1024 * 2 ^ 16) else lat &&& w32 0x0FFF0FFF

/-- An operation on a lane that may take a lock anew: `lat` is the latency found then, of a cell's lane in ps (R163). -/
def State.onLaneLat (s : State) (l : LaneRef) (addr : Nat → Nat) (lat : Word) (took : Lane → Lane → Bool)
    (f : Word → Lane → Lane × List Nat) : State :=
  match l with
  | .vp l => s.onVp (fun v => v.laneOp l (addr l) (f (vpLat l lat)))
  | .cell c i => s.onCell c (fun x => x.onLaneLat i lat.toNat took f)

/-- `LANE_EYE_CFG` of the part that a lane belongs to (R187, R189). -/
def State.eyeCfg (s : State) : LaneRef → Word
  | .vp _ => s.vp.reg Reg.LANE_EYE_CFG
  | .cell c _ => (s.cell c).reg Reg.CN_LANE_EYE_CFG

/-- A training stage of a lane of the VP ends (R171): a lane that belongs to no hop ends with the Adapt stage; on a hop the
TRAIN blocks sent back follow the receiver (R175). -/
def Vp.stageDone (v : Vp) (l : Nat) (lost : Bool) (c0 c1 lat : Word) : Vp :=
  let v := v.laneOp l (Reg.LANE_STAT l) (fun x => (x.stageDone (decide (l < 32)) lost c0 c1 (vpLat l lat), []))
  if l < 32 ∧ (v.lane l).training then v.hopTrain (l / 2) (l % 2 == 0) 1 (v.rxReady (l / 2) (l % 2 == 0)) false else v

/-- A training stage of a lane ends (R171). -/
def State.stageDone (s : State) (l : LaneRef) (lost : Bool) (c0 c1 lat : Word) : State :=
  match l with
  | .vp l => s.onVp (fun v => v.stageDone l lost c0 c1 lat)
  | .cell c i => s.onCell c (fun x => x.stageDone i lost c0 c1 lat.toNat)

/-- An instruction of a cell's test access port (R493): one that the cell does not implement acts as BYPASS
(log entry 118). -/
def Cell.tapLoad (c : Cell) (t : Tap) : Cell :=
  { c with tap := match t with
      | .extestPulse | .extestTrain | .debug => .bypass
      | t => t }

/-- A host frame with its header (R361, R362). -/
def hostFrame (h : HostHdr) (b : HBody) : HFrame := { tag := h.tag, src := h.src, vlan := h.vlan, body := b }

/-! ### Steps of the VP that take several operations -/

/-- At I_n, to which the clock is brought (log entry 20), the engines see the inputs as the ADC block gives them, and their
last values are kept (R232). -/
def Vp.latchInputs (v : Vp) (ain : List (List RawConv)) : Vp :=
  if v.loop.latched then v
  else
    let v := v.frameAt v.iOfs
    (v.loopLatch (v.ainSeen ain)).ainKeep (v.ainSeen ain)

/-- A waited source has become fresh `t` ns after I_n, to which the clock is brought (R238). -/
def Vp.resumeAt (v : Vp) (e t : Nat) : Vp :=
  if v.loop.latched && !v.loop.done then (v.frameAt (v.iOfs + t)).loopResume e t else v

/-- Every engine that has not been removed has completed its slots in this frame. -/
def Vp.enginesDone (v : Vp) : Bool := engIds.all (fun e => v.isRemoved 4 e || v.engAt e == 16)

/-- LOOP_DONE, once in a frame, when every engine has completed (R251); in a pair the active VP then sends RTV (R422). -/
def Vp.loopsComplete (v : Vp) (t : Nat) : Vp :=
  if v.loop.latched && !v.loop.done && v.bit Reg.LOOP_CFG 16 && v.enginesDone then
    ((v.frameAt (v.iOfs + t)).loopDone t).rtvSend
  else v

/-- The overrun deadline (R249, R251). -/
def Vp.loopsDeadline (v : Vp) (t : Nat) : Vp :=
  let was := v.loop.done
  let v := if v.loop.latched then v.frameAt (v.iOfs + t) else v
  let v := v.loopDeadline t
  if !was && v.loop.done then v.rtvSend else v

/-- An engine writes its record; with the last one a VP of a pair sends its digests (R69, R419). -/
def Vp.armWritten (v : Vp) (k t : Nat) : Vp := if (v.arm k).busy then ((v.frameAt (v.dOfs + t)).recordWritten k t).digSend else v

/-- AUTO_MS after the latest fault in a scope, its corrected fault is acknowledged (R404) (log entry 70). -/
def Vp.autoAck (v : Vp) (blk inst : Nat) : Vp :=
  if blk < 16 ∧ v.bit Reg.SYS_FLT_AUTO blk ∧ v.pending blk inst cor then v.ackClass blk cor (fun i => i == inst) else v

/-- A tick of 4 ns (R190, R453, R457): the counters of the clock tree's ticks run while the root PLL holds lock, through a
warm reset too (R192); before its first lock only the time since the reset passes (log entry 1). -/
def Vp.clockTick (v : Vp) : Vp :=
  if v.clk.lost then v else if v.clk.locked then v.ticks 1 else { v with up := v.up + 1 }

/-- May the debug port act: the seal is open (R389), and DBG has not been removed (R396)? (log entry 69) -/
def Vp.debugOn (v : Vp) : Bool := v.sealOpen && !v.isRemoved 15 0xFF

/-- The debug port halts a core where it stands (R261) (log entry 69); a ready item may be left without a core (R281). -/
def Vp.debugHalt (v : Vp) (k : Nat) : Vp :=
  if v.debugOn && decide (k < 16) && !v.sched.removed.testBit k then
    let v := { v with sched := { v.sched with halted := putBit v.sched.halted k true } }
    v.sched.ready.foldl Vp.checkNoCore v
  else v

/-- A halted core goes on with its items in their states (R261), and may take what has become ready (log entry 69). -/
def Vp.debugResume (v : Vp) (k : Nat) : Vp :=
  if v.debugOn && v.sched.halted.testBit k then
    ({ v with sched := { v.sched with halted := putBit v.sched.halted k false } }).coresChanged
  else v

/-- An item that still runs, or stands pre-empted, has reached an overrun boundary (R279) (log entry 68). -/
def Vp.watchdogOverrun (v : Vp) (w : Nat) : Vp :=
  if v.sched.wdogDue.contains w then
    let u := { v with sched := { v.sched with wdogDue := v.sched.wdogDue.filter (· != w) } }
    if cores.any (fun k => (v.stack k).contains w) && v.bit (Reg.SCHED_WI_CFG w) 5 then u.overrun w else u
  else v

/-- A core that runs an item meets an exception (R278). -/
def Vp.exception (v : Vp) (k : Nat) (cause pc val : Word) : Vp :=
  if k < 16 ∧ v.masterActs k then v.coreException k cause pc val else v

/-- A keyed RETIRE written to `CN_PROT_CMD` takes effect at the next apply instant (R104) (log entry 131). -/
def Cell.retireWrite (c : Cell) (w : Word) : Cell := (c.protCmd false w).retireCmd

end Sys2Proof.Machine
end

