-- ==== Sys2Proof/Machine/CmdAcq.lean ====
section
/-!
DEFINITION. Commands: Records and fault location (R314 to R341).
-/

namespace Sys2Proof.Machine

/-- TRIGGER_CROSSING: R327. -/
def execTriggerCrossing (pool lead taken : Nat) (raw : List (Nat × List RawConv)) (s : State) : Host.Outcome State Fault
    Refusal :=
  .next (s.onVp (fun v => v.trigRun pool lead taken (v.rawSmps raw)))

/-- TAIL_COMPLETE: R330. -/
def execTailComplete (pool lead : Nat) (raw : List (Nat × List RawConv)) (facts : RecFacts) (s : State) : Host.Outcome State
    Fault Refusal :=
  .next (s.onVp (fun v => v.tailDone pool lead (v.rawSmps raw) (facts.seen raw)))

/-- MEASUREMENT_COMPLETE: R333. -/
def execMeasurementComplete (s : State) : Host.Outcome State Fault Refusal :=
  .next (s.onVp (fun v => v.measDone))

/-- ACQ_P_FREE: R330. -/
def execAcqPFree (m pool : Nat) (w : Word) (s : State) : Host.Outcome State Fault Refusal :=
  .next (s.onVp (fun v => v.coreWrite m (Reg.ACQ_P_FREE pool) w))

/-- LOCATOR_SE_DONE: R336. -/
def execLocatorSeDone (s : State) : Host.Outcome State Fault Refusal :=
  .next (s.onVp (fun v => v.locDone))

/-- LOC_REMOTE_SUBMIT: R337. -/
def execLocRemoteSubmit (m : Nat) (w : Word) (s : State) : Host.Outcome State Fault Refusal :=
  .next (s.onVp (fun v => v.coreWrite m (Reg.ACQ_LOC_REM 3) w))

end Sys2Proof.Machine
end

