-- ==== Sys2Proof/Machine/CmdAdc.lean ====
section
/-!
DEFINITION. Commands: Analogue inputs (R288 to R312).
-/

namespace Sys2Proof.Machine

/-- ADC_RESULT_UPDATE: R296. -/
def execAdcResultUpdate (s : State) : Host.Outcome State Fault Refusal :=
  .next (s.onVp (fun v => v.adcResults))

/-- ADC_INJ_REQ: R298. -/
def execAdcInjReq (m : Nat) (w : Word) (s : State) : Host.Outcome State Fault Refusal :=
  .next (s.onVp (fun v => v.coreWrite m Reg.ADC_INJ_REQ w))

/-- INJECTED_RESULT: R299. -/
def execInjectedResult (ch : Nat) (raw : Int) (limit hard : Bool) (s : State) : Host.Outcome State Fault Refusal :=
  .next (s.onVp (fun v => v.injResult ch raw limit hard))

/-- ADC_CAL_ALL: R300. -/
def execAdcCalAll (m : Nat) (w : Word) (s : State) : Host.Outcome State Fault Refusal :=
  .next (s.onVp (fun v => v.coreWrite m Reg.ADC_CAL_CMD w))

/-- ADC_CAL_ONE: R306. -/
def execAdcCalOne (m : Nat) (w : Word) (s : State) : Host.Outcome State Fault Refusal :=
  .next (s.onVp (fun v => v.coreWrite m Reg.ADC_CAL_CMD w))

/-- SLICE_CALIBRATION_DONE: R301. -/
def execSliceCalibrationDone (ofs : Int) (gain : Nat) (s : State) : Host.Outcome State Fault Refusal :=
  .next (s.onVp (fun v => v.calDone ofs gain))

/-- ROTATION_STEP: R302. -/
def execRotationStep (s : State) : Host.Outcome State Fault Refusal :=
  .next (s.onVp (fun v => v.rotationStep))

/-- HANDOVER_STAGE_END: R303. -/
def execHandoverStageEnd (moon : Nat) (pairs : List (Int × Int)) (s : State) : Host.Outcome State Fault Refusal :=
  .next (s.onVp (fun v => v.handoverEnd moon pairs))

/-- LP_BURST_START: R307. -/
def execLpBurstStart (s : State) : Host.Outcome State Fault Refusal :=
  .next (s.onVp (fun v => v.lpBurst))

/-- STREAM_LINE_WRITE: R310. -/
def execStreamLineWrite (ch lag sidx : Nat) (xs : List RawConv) (s : State) : Host.Outcome State Fault Refusal :=
  .next (s.onVp (fun v => v.streamLine ch lag sidx xs))

/-- ADC_OVER_RANGE: R293. -/
def execAdcOverRange (ch : Nat) (high hard : Bool) (s : State) : Host.Outcome State Fault Refusal :=
  .next (s.onVp (fun v => v.adcOverRange ch high hard))

end Sys2Proof.Machine
end

