-- ==== Sys2Proof/Machine/CmdCell.lean ====
section
/-!
DEFINITION. Commands: A cell within the frame, on its ring and in time (R80 to R99, R105, R132 to R149, R209 to R222).
-/

namespace Sys2Proof.Machine

/-- SAMPLE_INSTANT: R82. -/
def execSampleInstant (c : CellRef) (r0 r1 r2 : Int) (s : State) : Host.Outcome State Fault Refusal :=
  .next (s.onCell c (fun x => x.sample r0 r1 r2))

/-- REPORT_ASSEMBLED: R132. -/
def execReportAssembled (c : CellRef) (s : State) : Host.Outcome State Fault Refusal :=
  .next (s.onCell c (fun x => x.assemble))

/-- APPLY_INSTANT: R59. -/
def execApplyInstant (c : CellRef) (s : State) : Host.Outcome State Fault Refusal :=
  .next (s.onCell c (fun x => x.apply))

/-- GATE_EDGE_DUE: R86. -/
def execGateEdgeDue (c : CellRef) (s : State) : Host.Outcome State Fault Refusal :=
  .next (s.onCell c (fun x => x.gateEdge))

/-- TRIM_CARRIER_START: R92. -/
def execTrimCarrierStart (c : CellRef) (s : State) : Host.Outcome State Fault Refusal :=
  .next (s.onCell c (fun x => x.carrierStart))

/-- REFRESH_LIMIT_REACHED: R97. -/
def execRefreshLimitReached (c : CellRef) (s : State) : Host.Outcome State Fault Refusal :=
  .next (s.onCell c (fun x => x.refreshReached))

/-- TRAIN_RECEIVED: R136. -/
def execTrainReceived (c : CellRef) (x : CnTrain) (s : State) : Host.Outcome State Fault Refusal :=
  .next (s.onCell c (fun y => y.trainIn x))

/-- CN_THETA_UPDATE: R213. -/
def execCnThetaUpdate (c : CellRef) (s : State) : Host.Outcome State Fault Refusal :=
  .next (s.onCell c (fun x => x.timeUpdate))

/-- URGENT_BLOCK_RECEIVED: R105. -/
def execUrgentBlockReceived (c : CellRef) (rx content : Nat) (s : State) : Host.Outcome State Fault Refusal :=
  .next (s.onCell c (fun x => x.urgentIn rx content))

/-- PWM_COMMIT: R94. -/
def execPwmCommit (c : CellRef) (s : State) : Host.Outcome State Fault Refusal :=
  .next (s.onCell c (fun x => x.pwmCommit))

/-- DELAY_LINE_CALIBRATION: R222. -/
def execDelayLineCalibration (c : CellRef) (dl : Nat) (s : State) : Host.Outcome State Fault Refusal :=
  .next (s.onCell c (fun x => x.delayCal dl))

/-- OVERRIDE_AT_BOUNDARY: R84. -/
def execOverrideAtBoundary (c : CellRef) (s : State) : Host.Outcome State Fault Refusal :=
  .next (s.onCell c (fun x => x.overrideAt))

/-- CLOSE_AT_BOUNDARY: R153. -/
def execCloseAtBoundary (c : CellRef) (s : State) : Host.Outcome State Fault Refusal :=
  .next (s.onCell c (fun x => x.closeAt))

/-- TIME_CHANGE_AT_BOUNDARY: R230. -/
def execTimeChangeAtBoundary (c : CellRef) (s : State) : Host.Outcome State Fault Refusal :=
  .next (s.onCell c (fun x => x.timeChangeAt))

/-- CELL_LOSS_OF_SIGNAL: R148. -/
def execCellLossOfSignal (c : CellRef) (side : Bool) (s : State) : Host.Outcome State Fault Refusal :=
  .next (s.onCell c (fun x => x.lossSeen side))

/-- ORPHAN_TIMEOUT: R149. -/
def execOrphanTimeout (c : CellRef) (side : Bool) (s : State) : Host.Outcome State Fault Refusal :=
  .next (s.onCell c (fun x => x.orphaned side))

end Sys2Proof.Machine
end

