-- ==== Sys2Proof/Machine/CmdCellMg.lean ====
section
/-!
DEFINITION. Commands: The management channel at a cell, and its housekeeping core (R113, R137 to R141).
-/

namespace Sys2Proof.Machine

/-- MG_READ: R138. -/
def execMgRead (c : CellRef) (p : CnPkt) (s : State) : Host.Outcome State Fault Refusal :=
  .next (s.onCell c (fun x => x.packetIn (fun op => op == 0) p))

/-- MG_WRITE: R138. -/
def execMgWrite (c : CellRef) (p : CnPkt) (s : State) : Host.Outcome State Fault Refusal :=
  .next (s.onCell c (fun x => x.packetIn (fun op => op == 1) p))

/-- MG_CONFIG: R141. -/
def execMgConfig (c : CellRef) (p : CnPkt) (s : State) : Host.Outcome State Fault Refusal :=
  .next (s.onCell c (fun x => x.packetIn (fun op => op == 2) p))

/-- MG_CONFIG_END: R141. -/
def execMgConfigEnd (c : CellRef) (p : CnPkt) (s : State) : Host.Outcome State Fault Refusal :=
  .next (s.onCell c (fun x => x.packetIn (fun op => op == 3) p))

/-- MG_RESET: R474. -/
def execMgReset (c : CellRef) (p : CnPkt) (s : State) : Host.Outcome State Fault Refusal :=
  .next (s.onCell c (fun x => x.packetIn (fun op => op == 4) p))

/-- MG_RESERVED_OPCODE: R138. -/
def execMgReservedOpcode (c : CellRef) (p : CnPkt) (s : State) : Host.Outcome State Fault Refusal :=
  .next (s.onCell c (fun x => x.packetIn (fun op => decide (5 ≤ op)) p))

/-- MBOX_IN_WRITE: R113. -/
def execMboxInWrite (c : CellRef) (w : Word) (s : State) : Host.Outcome State Fault Refusal :=
  .next (s.onCell c (fun x => x.mboxIn w))

/-- MBOX_OUT_WRITE: R113. -/
def execMboxOutWrite (c : CellRef) (w : Word) (s : State) : Host.Outcome State Fault Refusal :=
  .next (s.onCell c (fun x => x.mboxOut w))

/-- HK_MEMORY_ERROR: R113. -/
def execHkMemoryError (c : CellRef) (s : State) : Host.Outcome State Fault Refusal :=
  .next (s.onCell c (fun x => x.hkError))

end Sys2Proof.Machine
end

