-- ==== Sys2Proof/Machine/CmdCellProt.lean ====
section
/-!
DEFINITION. Commands: Protection, calibration and freeze of a cell (R100 to R112).
-/

namespace Sys2Proof.Machine

/-- CN_CALIBRATION_DONE: R112. -/
def execCnCalibrationDone (c : CellRef) (s : State) : Host.Outcome State Fault Refusal :=
  .next (s.onCell c (fun x => x.calDone))

/-- CN_ADC_CAL: R112. -/
def execCnAdcCal (c : CellRef) (s : State) : Host.Outcome State Fault Refusal :=
  .next (s.onCell c (fun x => x.adcCal))

/-- CN_RECAL_STAGE_DONE: R112. -/
def execCnRecalStageDone (c : CellRef) (s : State) : Host.Outcome State Fault Refusal :=
  .next (s.onCell c (fun x => x.recalStage))

/-- CN_RETIRE_COMMAND: R104. -/
def execCnRetireCommand (c : CellRef) (w : Word) (s : State) : Host.Outcome State Fault Refusal :=
  .next (s.onCell c (fun x => x.retireWrite w))

/-- CLEAR_PARITY_CAUSE: R100. -/
def execClearParityCause (c : CellRef) (s : State) : Host.Outcome State Fault Refusal :=
  .next (s.onCell c (fun x => x.parityClear))

/-- CN_FREEZE: R107. -/
def execCnFreeze (c : CellRef) (w : Word) (s : State) : Host.Outcome State Fault Refusal :=
  .next (s.onCell c (fun x => x.freezeWrite w))

/-- CN_FREEZE_EXIT: R109. -/
def execCnFreezeExit (c : CellRef) (s : State) : Host.Outcome State Fault Refusal :=
  .next (s.onCell c (fun x => x.freezeExit))

/-- DESAT_TRIP: R100. -/
def execDesatTrip (c : CellRef) (b chat : Bool) (s : State) : Host.Outcome State Fault Refusal :=
  .next (s.onCell c (fun x => x.desat b chat))

/-- OVER_VOLTAGE_TRIP: R100. -/
def execOverVoltageTrip (c : CellRef) (raws : List Int) (s : State) : Host.Outcome State Fault Refusal :=
  .next (s.onCell c (fun x => x.overVoltage raws))

/-- AUX_RESULT: R110. -/
def execAuxResult (c : CellRef) (ch : Nat) (raws : List Int) (s : State) : Host.Outcome State Fault Refusal :=
  .next (s.onCell c (fun x => x.auxResult ch raws))

/-- GATE_SUPPLY_LOST: R100. -/
def execGateSupplyLost (c : CellRef) (chat : Bool) (s : State) : Host.Outcome State Fault Refusal :=
  .next (s.onCell c (fun x => x.supplyLost chat))

/-- GATE_SUPPLY_RESTORED: R100. -/
def execGateSupplyRestored (c : CellRef) (s : State) : Host.Outcome State Fault Refusal :=
  .next (s.onCell c (fun x => x.supplyBack))

/-- CN_CHATTER_CLEARED: R101. -/
def execCnChatterCleared (c : CellRef) (pin : Nat) (s : State) : Host.Outcome State Fault Refusal :=
  .next (s.onCell c (fun x => x.chatterOff pin))

/-- CONFIG_PARITY_ERROR: R100. -/
def execConfigParityError (c : CellRef) (s : State) : Host.Outcome State Fault Refusal :=
  .next (s.onCell c (fun x => x.parityError))

/-- BYP_FAST_ASSERT: R102. -/
def execBypFastAssert (c : CellRef) (s : State) : Host.Outcome State Fault Refusal :=
  .next (s.onCell c (fun x => x.bypFast))

/-- BYP_MECH_ASSERT: R102. -/
def execBypMechAssert (c : CellRef) (s : State) : Host.Outcome State Fault Refusal :=
  .next (s.onCell c (fun x => x.bypMech))

/-- CAPACITOR_HIGH: R100. -/
def execCapacitorHigh (c : CellRef) (raw : Int) (s : State) : Host.Outcome State Fault Refusal :=
  .next (s.onCell c (fun x => x.capConv raw))

end Sys2Proof.Machine
end

