-- ==== Sys2Proof/Machine/CmdFrame.lean ====
section
/-!
DEFINITION. Commands: The frame: boundary, loop engines and decision (R18, R39 to R76, R231 to R258).
-/

namespace Sys2Proof.Machine

/-- FRAME_BOUNDARY: R18. -/
def execFrameBoundary (frames : List AdcFrame) (errs : List MemErr) (s : State) : Host.Outcome State Fault Refusal :=
  .next (s.onVp (fun v => (v.memErrors errs).frameBoundary frames))

/-- LOOP_LATCH: R232. -/
def execLoopLatch (ain : List (List RawConv)) (errs : List MemErr) (s : State) : Host.Outcome State Fault Refusal :=
  .next (s.onVp (fun v => (v.memErrors errs).latchInputs ain))

/-- LOOP_SLOT_WAIT_RESUME: R238. -/
def execLoopSlotWaitResume (e t : Nat) (s : State) : Host.Outcome State Fault Refusal :=
  .next (s.onVp (fun v => v.resumeAt e t))

/-- LOOP_DONE: R251. -/
def execLoopDone (t : Nat) (s : State) : Host.Outcome State Fault Refusal :=
  .next (s.onVp (fun v => v.loopsComplete t))

/-- LOOP_OVERRUN_DEADLINE: R249. -/
def execLoopOverrunDeadline (t : Nat) (s : State) : Host.Outcome State Fault Refusal :=
  .next (s.onVp (fun v => v.loopsDeadline t))

/-- TUNE_START: R252. -/
def execTuneStart (m e : Nat) (w : Word) (s : State) : Host.Outcome State Fault Refusal :=
  .next (s.onVp (fun v => v.coreWrite m (Reg.LOOP_E_TUNE_CTL e) w))

/-- TUNE_STOP: R255. -/
def execTuneStop (m e : Nat) (w : Word) (s : State) : Host.Outcome State Fault Refusal :=
  .next (s.onVp (fun v => v.coreWrite m (Reg.LOOP_E_TUNE_CTL e) w))

/-- LOOP_E_SWAP: R246. -/
def execLoopESwap (m e : Nat) (w : Word) (s : State) : Host.Outcome State Fault Refusal :=
  .next (s.onVp (fun v => v.coreWrite m (Reg.LOOP_E_SWAP e) w))

/-- LOOP_SWAP: R246. -/
def execLoopSwap (m : Nat) (w : Word) (s : State) : Host.Outcome State Fault Refusal :=
  .next (s.onVp (fun v => v.coreWrite m Reg.LOOP_SWAP w))

/-- LOOP_SLOT_INT_WRITE: R242. -/
def execLoopSlotIntWrite (m slot : Nat) (w : Word) (s : State) : Host.Outcome State Fault Refusal :=
  .next (s.onVp (fun v => v.coreWrite m (Reg.LOOP_SLOT_INT slot) w))

/-- DECISION_INSTANT: R42. -/
def execDecisionInstant (errs : List MemErr) (s : State) : Host.Outcome State Fault Refusal :=
  .next (s.onVp (fun v => (v.memErrors errs).atDn))

/-- ARM_RECORD_WRITTEN: R69. -/
def execArmRecordWritten (k t : Nat) (s : State) : Host.Outcome State Fault Refusal :=
  .next (s.onVp (fun v => v.armWritten k t))

/-- DECISION_RESERVE_EXPIRY: R70. -/
def execDecisionReserveExpiry (s : State) : Host.Outcome State Fault Refusal :=
  .next (s.onVp (fun v => v.reserveEnd))

/-- ARM_OVR_WRITE: R73. -/
def execArmOvrWrite (m e : Nat) (w : Word) (s : State) : Host.Outcome State Fault Refusal :=
  .next (s.onVp (fun v => v.coreWrite m (Reg.ARM_OVR e) w))

/-- OVERRIDE_CONFIRM_TIMEOUT: R73. -/
def execOverrideConfirmTimeout (e : Nat) (s : State) : Host.Outcome State Fault Refusal :=
  .next (s.onVp (fun v => v.ovrTimeout e))

/-- TIME_CHANGE_CONFIRM_TIMEOUT: R31. -/
def execTimeChangeConfirmTimeout (s : State) : Host.Outcome State Fault Refusal :=
  .next (s.onVp (fun v => v.timeTimeout))

/-- ARM_DEC_TIME_CLR: R76. -/
def execArmDecTimeClr (m : Nat) (w : Word) (s : State) : Host.Outcome State Fault Refusal :=
  .next (s.onVp (fun v => v.coreWrite m Reg.ARM_DEC_TIME_CLR w))

end Sys2Proof.Machine
end

