-- ==== Sys2Proof/Machine/CmdGrid.lean ====
section
/-!
DEFINITION. Commands: The grid tracker (R342 to R358).
-/

namespace Sys2Proof.Machine

/-- TRACKER_PUBLISH: R352. -/
def execTrackerPublish (s : State) : Host.Outcome State Fault Refusal :=
  .next (s.onVp (fun v => v.trackerPublish))

/-- TLI_WORD_RECEIVED: R344. -/
def execTliWordReceived (j word : Nat) (s : State) : Host.Outcome State Fault Refusal :=
  .next (s.onVp (fun v => v.tliWord j word))

/-- TLI_CODE_ERROR: R342. -/
def execTliCodeError (j : Nat) (s : State) : Host.Outcome State Fault Refusal :=
  .next (s.onVp (fun v => v.tliCodeError j))

/-- TLI_TIMEOUT: R345. -/
def execTliTimeout (j : Nat) (s : State) : Host.Outcome State Fault Refusal :=
  .next (s.onVp (fun v => v.tliTimeout j))

/-- PHASOR_ENTRY_WRITTEN: R356. -/
def execPhasorEntryWritten (k sec n : Nat) (s : State) : Host.Outcome State Fault Refusal :=
  .next (s.onVp (fun v => v.phasorEntry k sec n))

/-- GRID_PQ_POP: R356. -/
def execGridPqPop (m : Nat) (s : State) : Host.Outcome State Fault Refusal :=
  .next (s.onVp (fun v => v.coreRead m (Reg.GRID_PQ 0)))

end Sys2Proof.Machine
end

