-- ==== Sys2Proof/Machine/CmdHost.lean ====
section
/-!
DEFINITION. Commands: Host ports, the seal and images (R360 to R394).
-/

namespace Sys2Proof.Machine

/-- HOST_FRAME_DROPPED: R361. -/
def execHostFrameDropped (port : Nat) (s : State) : Host.Outcome State Fault Refusal :=
  .next (s.onVp (fun v => v.dropFrame port))

/-- BAD_FRAME: R361. -/
def execBadFrame (h : HostHdr) (typ : Nat) (s : State) : Host.Outcome State Fault Refusal :=
  .next (s.onVp (fun v => v.arrive h.port (hostFrame h (.bad typ))))

/-- READ: R370. -/
def execRead (h : HostHdr) (items : List (Nat × Nat)) (s : State) : Host.Outcome State Fault Refusal :=
  .next (s.onVp (fun v => v.arrive h.port (hostFrame h (.read items))))

/-- READ_DEFERRED_START: R370. -/
def execReadDeferredStart (port : Nat) (s : State) : Host.Outcome State Fault Refusal :=
  .next (s.onVp (fun v => v.readStart port))

/-- WRITE: R373. -/
def execWrite (h : HostHdr) (target : Nat) (items : List WItem) (s : State) : Host.Outcome State Fault Refusal :=
  .next (s.onVp (fun v => v.arrive h.port (hostFrame h (.write target items))))

/-- DEBLOCK: R379 (log entry 23). -/
def execDeblock (h : HostHdr) (target arms : Nat) (rest : List HCmd) (s : State) : Host.Outcome State Fault Refusal :=
  .next (s.onVp (fun v => v.arrive h.port (hostFrame h (.command target (⟨1, arms, 0⟩ :: rest)))))

/-- BLOCK: R378 (log entry 23). -/
def execBlock (h : HostHdr) (target arms : Nat) (rest : List HCmd) (s : State) : Host.Outcome State Fault Refusal :=
  .next (s.onVp (fun v => v.arrive h.port (hostFrame h (.command target (⟨2, arms, 0⟩ :: rest)))))

/-- SETPOINT: R378 (log entry 23). -/
def execSetpoint (h : HostHdr) (target j : Nat) (w : Word) (rest : List HCmd) (s : State) : Host.Outcome State Fault
    Refusal :=
  .next (s.onVp (fun v => v.arrive h.port (hostFrame h (.command target (⟨3, j, w⟩ :: rest)))))

/-- RETIRE: R378 (log entry 23). -/
def execRetire (h : HostHdr) (target cell : Nat) (w : Word) (rest : List HCmd) (s : State) : Host.Outcome State Fault
    Refusal :=
  .next (s.onVp (fun v => v.arrive h.port (hostFrame h (.command target (⟨4, cell, w⟩ :: rest)))))

/-- TOKEN_REQUEST: R368. -/
def execTokenRequest (h : HostHdr) (s : State) : Host.Outcome State Fault Refusal :=
  .next (s.onVp (fun v => v.arrive h.port (hostFrame h (.token 1))))

/-- TOKEN_RELEASE: R368. -/
def execTokenRelease (h : HostHdr) (s : State) : Host.Outcome State Fault Refusal :=
  .next (s.onVp (fun v => v.arrive h.port (hostFrame h (.token 2))))

/-- TOKEN_TIMEOUT: R368. -/
def execTokenTimeout (s : State) : Host.Outcome State Fault Refusal :=
  .next (s.onVp (fun v => v.tokenTimeout))

/-- HOST_LINK_LOST: R368. -/
def execHostLinkLost (port : Nat) (s : State) : Host.Outcome State Fault Refusal :=
  .next (s.onVp (fun v => v.linkLost port))

/-- CANCEL: R376. -/
def execCancel (h : HostHdr) (tag : Nat) (s : State) : Host.Outcome State Fault Refusal :=
  .next (s.onVp (fun v => v.arrive h.port (hostFrame h (.cancel tag))))

/-- POST: R384. -/
def execPost (h : HostHdr) (j : Nat) (s : State) : Host.Outcome State Fault Refusal :=
  .next (s.onVp (fun v => v.arrive h.port (hostFrame h (.post j))))

/-- MSG: R383. -/
def execMsg (h : HostHdr) (len : Nat) (data : List Word) (s : State) : Host.Outcome State Fault Refusal :=
  .next (s.onVp (fun v => v.arrive h.port (hostFrame h (.msg len data))))

/-- HOST_P_MSG_ACK: R383. -/
def execHostPMsgAck (m port : Nat) (w : Word) (s : State) : Host.Outcome State Fault Refusal :=
  .next (s.onVp (fun v => v.coreWrite m (Reg.HOST_P_MSG_ACK port) w))

/-- HOST_P_MSG_SEND: R383. -/
def execHostPMsgSend (m port : Nat) (w : Word) (s : State) : Host.Outcome State Fault Refusal :=
  .next (s.onVp (fun v => v.coreWrite m (Reg.HOST_P_MSG_SEND port) w))

/-- IMAGE_READ: R392. -/
def execImageRead (h : HostHdr) (slot ofs len : Nat) (s : State) : Host.Outcome State Fault Refusal :=
  .next (s.onVp (fun v => v.arrive h.port (hostFrame h (.image 1 slot ofs len []))))

/-- IMAGE_ERASE: R392. -/
def execImageErase (h : HostHdr) (slot ofs : Nat) (s : State) : Host.Outcome State Fault Refusal :=
  .next (s.onVp (fun v => v.arrive h.port (hostFrame h (.image 2 slot ofs 0 []))))

/-- IMAGE_PROGRAM: R392. -/
def execImageProgram (h : HostHdr) (slot ofs : Nat) (data : List Nat) (s : State) : Host.Outcome State Fault Refusal
    :=
  .next (s.onVp (fun v => v.arrive h.port (hostFrame h (.image 3 slot ofs data.length data))))

/-- IMAGE_CRC: R392. -/
def execImageCrc (h : HostHdr) (slot ofs len : Nat) (s : State) : Host.Outcome State Fault Refusal :=
  .next (s.onVp (fun v => v.arrive h.port (hostFrame h (.image 4 slot ofs len []))))

/-- IMAGE_OP_DONE: R392. -/
def execImageOpDone (ok : Bool) (s : State) : Host.Outcome State Fault Refusal :=
  .next (s.onVp (fun v => v.imageOpDone ok))

/-- TRIP: R381. -/
def execTrip (h : HostHdr) (key : Nat) (s : State) : Host.Outcome State Fault Refusal :=
  .next (s.onVp (fun v => v.arrive h.port (hostFrame h (.trip 1 key))))

/-- TRIP_CLEAR: R381. -/
def execTripClear (h : HostHdr) (key : Nat) (s : State) : Host.Outcome State Fault Refusal :=
  .next (s.onVp (fun v => v.arrive h.port (hostFrame h (.trip 2 key))))

/-- EVENT_FRAME_SEND: R386. -/
def execEventFrameSend (port : Nat) (s : State) : Host.Outcome State Fault Refusal :=
  .next (s.onVp (fun v => v.eventSend port))

/-- PARTNER_CONFIRM: R377. -/
def execPartnerConfirm (port tag : Nat) (s : State) : Host.Outcome State Fault Refusal :=
  .next (s.onVp (fun v => v.confirmed port tag))

/-- PARTNER_CONFIRM_TIMEOUT: R377. -/
def execPartnerConfirmTimeout (port tag : Nat) (s : State) : Host.Outcome State Fault Refusal :=
  .next (s.onVp (fun v => v.withdraw port tag))

/-- HOSTX_RECEIVED: R377. -/
def execHostxReceived (x : HostX) (gap : Bool) (s : State) : Host.Outcome State Fault Refusal :=
  .next (s.onVp (fun v => v.hostxIn x gap))

/-- SEAL_OPEN: R388. -/
def execSealOpen (s : State) : Host.Outcome State Fault Refusal :=
  .next (s.onVp (fun v => v.sealOpens))

/-- SEAL_CLOSE: R388. -/
def execSealClose (s : State) : Host.Outcome State Fault Refusal :=
  .next (s.onVp (fun v => v.sealClose))

/-- SEAL_PIN_CHANGE: R387. -/
def execSealPinChange (a b chatter : Bool) (s : State) : Host.Outcome State Fault Refusal :=
  .next (s.onVp (fun v => v.sealPinChange a b chatter))

/-- SEAL_CHATTER_CLEARED: R387. -/
def execSealChatterCleared (s : State) : Host.Outcome State Fault Refusal :=
  .next (s.onVp (fun v => v.sealQuiet))

end Sys2Proof.Machine
end

