-- ==== Sys2Proof/Machine/CmdLane.lean ====
section
/-!
DEFINITION. Commands: Lanes and hops (R164 to R185).
-/

namespace Sys2Proof.Machine

/-- HOP_TRAIN_START: R174. -/
def execHopTrainStart (ring hop : Nat) (far : Bool) (s : State) : Host.Outcome State Fault Refusal :=
  .next (s.hopStart ring hop far)

/-- TRAIN_STAGE_DONE: R171. -/
def execTrainStageDone (l : LaneRef) (lost : Bool) (c0 c1 lat : Word) (s : State) : Host.Outcome State Fault Refusal
    :=
  .next (s.stageDone l lost c0 c1 lat)

/-- HOP_CONFIRM: R173. -/
def execHopConfirm (ring hop : Nat) (far : Bool) (blk : Nat) (s : State) : Host.Outcome State Fault Refusal :=
  .next (s.hopConfirm ring hop far blk)

/-- HOP_TIMEOUT: R151. -/
def execHopTimeout (ring hop : Nat) (s : State) : Host.Outcome State Fault Refusal :=
  .next (s.hopTimeout ring hop)

/-- LOSS_OF_SIGNAL: R170. -/
def execLossOfSignal (l : LaneRef) (s : State) : Host.Outcome State Fault Refusal :=
  .next (s.onLane l Reg.LANE_STICKY (fun x => x.declare 0 0))

/-- LOSS_OF_CLOCK_LOCK: R170. -/
def execLossOfClockLock (l : LaneRef) (s : State) : Host.Outcome State Fault Refusal :=
  .next (s.onLane l Reg.LANE_STICKY (fun x => x.declare 1 1))

/-- LOSS_OF_BLOCK_LOCK: R170. -/
def execLossOfBlockLock (l : LaneRef) (hdrs : Nat) (s : State) : Host.Outcome State Fault Refusal :=
  .next (s.onLane l Reg.LANE_STICKY (fun x => x.lostBlock hdrs))

/-- LOSS_CLEARED: R170. -/
def execLossCleared (l : LaneRef) (rows : Nat) (lat : Word) (s : State) : Host.Outcome State Fault Refusal :=
  .next (s.onLaneLat l Reg.LANE_STICKY lat Lane.relocked (fun lat x => (x.cleared rows lat, [])))

/-- HIGH_BIT_ERROR_RATE: R170. -/
def execHighBitErrorRate (l : LaneRef) (n : Nat) (s : State) : Host.Outcome State Fault Refusal :=
  .next (s.onLane l Reg.LANE_STICKY (fun x => x.highBer n))

/-- HI_BER_CLEARED: R170. -/
def execHiBerCleared (l : LaneRef) (n : Nat) (s : State) : Host.Outcome State Fault Refusal :=
  .next (s.onLane l Reg.LANE_STICKY (fun x => (x.berClear n, [])))

/-- ADAPT_WINDOW: R166. -/
def execAdaptWindow (l : LaneRef) (dens : Nat) (dirs : List Int) (errs : Nat) (s : State) :
    Host.Outcome State Fault Refusal :=
  .next (s.onLane l Reg.LANE_STICKY (fun x => (x.window dens dirs errs, [])))

/-- EYE_MEASUREMENT: R168. -/
def execEyeMeasurement (l : LaneRef) (h v : Nat) (s : State) : Host.Outcome State Fault Refusal :=
  .next (s.onLane l Reg.LANE_STICKY (fun x => x.eyeMeas (s.eyeCfg l) h v))

/-- FAST_READAPT_END: R169. -/
def execFastReadaptEnd (l : LaneRef) (s : State) : Host.Outcome State Fault Refusal :=
  .next (s.onLane l Reg.LANE_STICKY (fun x => (x.fastEnd, [])))

/-- DEEP_ENTRY: R180. -/
def execDeepEntry (l : LaneRef) (s : State) : Host.Outcome State Fault Refusal :=
  .next (s.onLane l Reg.LANE_STICKY (fun x => (x.deep, [])))

/-- SIGNAL_RETURN: R179. -/
def execSignalReturn (l : LaneRef) (lat : Word) (s : State) : Host.Outcome State Fault Refusal :=
  .next (s.onLaneLat l Reg.LANE_STICKY lat Lane.woke (fun lat x => (x.sigReturn lat, [])))

/-- LANE_PWR_REQUEST: R181. -/
def execLanePwrRequest (m l : Nat) (w : Word) (s : State) : Host.Outcome State Fault Refusal :=
  .next (s.onVp (fun v => v.coreWrite m (Reg.LANE_PWR l) w))

/-- ELECTRICAL_IDLE_BURST: R178. -/
def execElectricalIdleBurst (l : Nat) (recv : Bool) (stage : Nat) (s : State) : Host.Outcome State Fault Refusal :=
  .next (s.onVp (fun v => v.idleBurst l recv stage))

/-- ELECTRICAL_IDLE_EXIT: R178. -/
def execElectricalIdleExit (l : Nat) (recv : Bool) (s : State) : Host.Outcome State Fault Refusal :=
  .next (s.onVp (fun v => v.idleExit l recv))

/-- EI_LOST: R178. -/
def execEiLost (l : Nat) (s : State) : Host.Outcome State Fault Refusal :=
  .next (s.onLane (.vp l) Reg.LANE_STICKY Lane.idleLost)

/-- DSK_MARKER_SEND: R183. -/
def execDskMarkerSend (s : State) : Host.Outcome State Fault Refusal :=
  .next (s.onVp (fun v => v.dskSend))

/-- DSK_MARKER_RECEIVED: R183. -/
def execDskMarkerReceived (ms : List (Nat × Nat × Nat)) (s : State) : Host.Outcome State Fault Refusal :=
  .next (s.onVp (fun v => v.dskIn ms))

end Sys2Proof.Machine
end

