-- ==== Sys2Proof/Machine/CmdPeer.lean ====
section
/-!
DEFINITION. Commands: The pair (R417 to R434).
-/

namespace Sys2Proof.Machine

/-- CFGD_RECEIVED: R417. -/
def execCfgdReceived (digest : Nat) (role gap : Bool) (s : State) : Host.Outcome State Fault Refusal :=
  .next (s.onVp (fun v => v.cfgdIn digest role gap))

/-- SOLO_START: R417. -/
def execSoloStart (s : State) : Host.Outcome State Fault Refusal :=
  .next (s.onVp (fun v => v.soloStart))

/-- RFH_RECEIVED: R420. -/
def execRfhReceived (ring : Nat) (f : Rfh) (frame arr : Nat) (gap : Bool) (s : State) : Host.Outcome State Fault
    Refusal :=
  .next (s.onVp (fun v => v.rfhIn ring f frame arr gap))

/-- RFH_DEADLINE: R420. -/
def execRfhDeadline (ring sent : Nat) (s : State) : Host.Outcome State Fault Refusal :=
  .next (s.onVp (fun v => v.rfhDeadline ring sent))

/-- FORWARDED_REPORT_RECEIVED: R420. -/
def execForwardedReportReceived (blk arr : Nat) (gap : Bool) (s : State) : Host.Outcome State Fault Refusal :=
  .next (s.onVp (fun v => v.fwdReport blk arr gap))

/-- RTV_RECEIVED: R422. -/
def execRtvReceived (frame : Nat) (xs : List (Nat × Nat × Int)) (gap : Bool) (s : State) : Host.Outcome State Fault
    Refusal :=
  .next (s.onVp (fun v => v.rtvIn frame xs gap))

/-- RTV_WAIT_EXPIRY: R422. -/
def execRtvWaitExpiry (s : State) : Host.Outcome State Fault Refusal :=
  .next (s.onVp (fun v => v.rtvExpiry))

/-- ACK_SET_CLOSE: R423. -/
def execAckSetClose (s : State) : Host.Outcome State Fault Refusal :=
  .next (s.onVp (fun v => v.ackSetClose))

/-- DIG_RECEIVED: R425. -/
def execDigReceived (frame : Nat) (ds : List (Nat × Nat)) (gap : Bool) (s : State) : Host.Outcome State Fault Refusal
    :=
  .next (s.onVp (fun v => v.digIn frame ds gap))

/-- DIGEST_COMPARE: R425. -/
def execDigestCompare (s : State) : Host.Outcome State Fault Refusal :=
  .next (s.onVp (fun v => v.digCompare))

/-- SNAP_APPLY: R427. -/
def execSnapApply (x : Snap) (gap : Bool) (s : State) : Host.Outcome State Fault Refusal :=
  .next (s.onVp (fun v => v.snapApply x gap))

/-- SNAP_TIMEOUT: R427. -/
def execSnapTimeout (k : Nat) (s : State) : Host.Outcome State Fault Refusal :=
  .next (s.onVp (fun v => v.snapTimeout k))

/-- PST_RECEIVED: R431. -/
def execPstReceived (x : Pst) (gap : Bool) (s : State) : Host.Outcome State Fault Refusal :=
  .next (s.onVp (fun v => v.pstIn x gap))

/-- PST_MISSING: R429. -/
def execPstMissing (s : State) : Host.Outcome State Fault Refusal :=
  .next (s.onVp (fun v => v.pstMissing))

/-- TAKEOVER: R430. -/
def execTakeover (s : State) : Host.Outcome State Fault Refusal :=
  .next (s.onVp (fun v => v.takeover (v.frameNo + 1)))

/-- JOIN: R432. -/
def execJoin (snaps : List Snap) (s : State) : Host.Outcome State Fault Refusal :=
  .next (s.onVp (fun v => v.joinPair snaps))

/-- TRIP_MESSAGE_RECEIVED: R142. -/
def execTripMessageReceived (src : Nat) (gap : Bool) (s : State) : Host.Outcome State Fault Refusal :=
  .next (s.onVp (fun v => v.tripIn' src gap))

end Sys2Proof.Machine
end

