-- ==== Sys2Proof/Machine/CmdReg.lean ====
section
/-!
DEFINITION. Commands: Fault acknowledgement, the dump, and registers without a row of their own (R7, R403, R404, R410).
-/

namespace Sys2Proof.Machine

/-- FLT_ACK: R403. -/
def execFltAck (m blk : Nat) (w : Word) (s : State) : Host.Outcome State Fault Refusal :=
  .next (s.onVp (fun v => v.coreWrite m (Reg.FLT_ACK blk) w))

/-- FAULT_AUTO_ACK: R404. -/
def execFaultAutoAck (blk inst : Nat) (s : State) : Host.Outcome State Fault Refusal :=
  .next (s.onVp (fun v => v.autoAck blk inst))

/-- DUMP_WRITTEN: R410. -/
def execDumpWritten (s : State) : Host.Outcome State Fault Refusal :=
  .next (s.onVp (fun v => v.dumpWritten))

/-- STICKY_CLR: R76: every `*_STICKY_CLR` register. -/
def execStickyClr (m a : Nat) (w : Word) (s : State) : Host.Outcome State Fault Refusal :=
  .next (s.onVp (fun v => v.coreWrite m a w))

/-- W1C_CLEAR: R7. -/
def execW1cClear (m a : Nat) (w : Word) (s : State) : Host.Outcome State Fault Refusal :=
  .next (s.onVp (fun v => v.coreWrite m a w))

/-- REGISTER_WRITE: R7, R113: `guard` says that the cycle guard closed a gate with it (R459) (log entry 19). -/
def execRegisterWrite (who : Writer) (a : Nat) (w : Word) (guard : Bool) (s : State) : Host.Outcome State Fault
    Refusal :=
  .next (match who with
    | .vp m => s.onVp (fun v => (v.coreWrite m a w).guarded guard)
    | .hk c => s.onCell c (fun x => x.hkWrite a w))

end Sys2Proof.Machine
end

