-- ==== Sys2Proof/Machine/CmdRing.lean ====
section
/-!
DEFINITION. Commands: Rings at the VP, and the trips (R118 to R156, R415, R416, R429).
-/

namespace Sys2Proof.Machine

/-- TRAIN_COPY_RETURN: R210. -/
def execTrainCopyReturn (ring : Nat) (up wrapped : Bool) (t hop : Nat) (sotOk crcOk : Bool) (errs sent : Nat) (s : State) :
    Host.Outcome State Fault Refusal :=
  .next (s.onVp (fun v => v.copyReturn ring up wrapped t hop sotOk crcOk errs sent))

/-- REPORT_RECEIVED: R134. -/
def execReportReceived (ring pos : Nat) (up wrapped : Bool) (arr slot : Nat) (s : State) : Host.Outcome State Fault
    Refusal :=
  .next (s.onVp (fun v => v.reportRecv ring pos up wrapped arr slot))

/-- MG_REQUEST_GO: R137. -/
def execMgRequestGo (m : Nat) (w : Word) (s : State) : Host.Outcome State Fault Refusal :=
  .next (s.onVp (fun v => v.coreWrite m Reg.RING_MG_GO w))

/-- MG_PACKET_RETURN: R140. -/
def execMgPacketReturn (ring tag status resp : Nat) (data : List Word) (good : Bool) (errs : Nat) (s : State) :
    Host.Outcome State Fault Refusal :=
  .next (s.onVp (fun v => v.mgReturn ring tag status resp data good errs))

/-- MG_RETRY_TIMEOUT: R140. -/
def execMgRetryTimeout (ring tag : Nat) (s : State) : Host.Outcome State Fault Refusal :=
  .next (s.onVp (fun v => v.mgTimeout ring tag))

/-- RETRAIN_ATTEMPT: R153. -/
def execRetrainAttempt (ring hop : Nat) (s : State) : Host.Outcome State Fault Refusal :=
  .next (s.onVp (fun v => v.retrain ring hop))

/-- RETRAIN_NOW: R153. -/
def execRetrainNow (m ring : Nat) (w : Word) (s : State) : Host.Outcome State Fault Refusal :=
  .next (s.onVp (fun v => v.coreWrite m (Reg.RING_CTL ring) w))

/-- CLOSE_NOW: R153. -/
def execCloseNow (m ring : Nat) (w : Word) (s : State) : Host.Outcome State Fault Refusal :=
  .next (s.onVp (fun v => v.coreWrite m (Reg.RING_CTL ring) w))

/-- CLOSE_CONFIRM_TIMEOUT: R153. -/
def execCloseConfirmTimeout (ring hop : Nat) (s : State) : Host.Outcome State Fault Refusal :=
  .next (s.onVp (fun v => v.closeCancel ring hop))

/-- RING_URG_CMD_SEND: R142. -/
def execRingUrgCmdSend (m : Nat) (w : Word) (s : State) : Host.Outcome State Fault Refusal :=
  .next (s.onVp (fun v => v.coreWrite m Reg.RING_URG_CMD w))

/-- TRIP_INPUT_ACTIVE: R415. -/
def execTripInputActive (input : Nat) (s : State) : Host.Outcome State Fault Refusal :=
  .next (s.onVp (fun v => v.tripIn input))

/-- TRIP_INPUT_RELEASE: R415. -/
def execTripInputRelease (input : Nat) (s : State) : Host.Outcome State Fault Refusal :=
  .next (s.onVp (fun v => v.tripInEnd input))

/-- TRIP_OUT_RELEASE: R416. -/
def execTripOutRelease (s : State) : Host.Outcome State Fault Refusal :=
  .next (s.onVp (fun v => v.tripOutEnd))

/-- PARTNER_FAIL_ASSERT: R429. -/
def execPartnerFailAssert (s : State) : Host.Outcome State Fault Refusal :=
  .next (s.onVp (fun v => v.partnerFail))

end Sys2Proof.Machine
end

