-- ==== Sys2Proof/Machine/CmdSched.lean ====
section
/-!
DEFINITION. Commands: The work scheduler (R260 to R287).
-/

namespace Sys2Proof.Machine

/-- SCHED_POST: R268. -/
def execSchedPost (m : Nat) (w : Word) (s : State) : Host.Outcome State Fault Refusal :=
  .next (s.onVp (fun v => v.coreWrite m Reg.SCHED_POST w))

/-- SELF_DONE: R275. -/
def execSelfDone (core : Nat) (s : State) : Host.Outcome State Fault Refusal :=
  .next (s.onVp (fun v => v.coreWrite core Reg.SCHED_SELF_DONE 0))

/-- CORE_EXCEPTION: R278. -/
def execCoreException (core : Nat) (cause pc val : Word) (s : State) : Host.Outcome State Fault Refusal :=
  .next (s.onVp (fun v => v.exception core cause pc val))

/-- ITEM_WATCHDOG_OVERRUN: R279. -/
def execItemWatchdogOverrun (item : Nat) (s : State) : Host.Outcome State Fault Refusal :=
  .next (s.onVp (fun v => v.watchdogOverrun item))

/-- SCHED_LOCK_READ: R262. -/
def execSchedLockRead (m j : Nat) (s : State) : Host.Outcome State Fault Refusal :=
  .next (s.onVp (fun v => if v.masterActs m then v.lockRead j else v))

/-- SCHED_LOCK_WRITE: R262. -/
def execSchedLockWrite (m j : Nat) (s : State) : Host.Outcome State Fault Refusal :=
  .next (s.onVp (fun v => if v.masterActs m then v.lockWrite j else v))

/-- WI_CFG_WRITE: R265. -/
def execWiCfgWrite (m item : Nat) (entry : Bool) (w : Word) (s : State) : Host.Outcome State Fault Refusal :=
  .next (s.onVp (fun v => v.coreWrite m (if entry then Reg.SCHED_WI_ENTRY item else Reg.SCHED_WI_CFG item) w))

/-- DEBUG_HALT: R261. -/
def execDebugHalt (core : Nat) (s : State) : Host.Outcome State Fault Refusal :=
  .next (s.onVp (fun v => v.debugHalt core))

/-- DEBUG_RESUME: R261. -/
def execDebugResume (core : Nat) (s : State) : Host.Outcome State Fault Refusal :=
  .next (s.onVp (fun v => v.debugResume core))

end Sys2Proof.Machine
end

