-- ==== Sys2Proof/Machine/CmdStart.lean ====
section
/-!
DEFINITION. Commands: Start-up (R437 to R450).
-/

namespace Sys2Proof.Machine

/-- FLASH_DISCOVERY_DONE: R437. -/
def execFlashDiscoveryDone (ok : Bool) (jedec log2 : Nat) (addr4 r144 : Bool) (mhz : Nat) (s : State) : Host.Outcome
    State Fault Refusal :=
  .next (s.onVp (fun v => v.flashDone ok jedec log2 addr4 r144 mhz))

/-- IMAGE_LOAD_DONE: R442. -/
def execImageLoadDone (readOk : Bool) (s : State) : Host.Outcome State Fault Refusal :=
  .next (s.onVp (fun v => v.imageDone readOk))

/-- FIRST_FRAME_LAUNCH: R17. -/
def execFirstFrameLaunch (s : State) : Host.Outcome State Fault Refusal :=
  .next (s.onVp (fun v => v.firstFrame))

/-- ENUMERATION_END: R152. -/
def execEnumerationEnd (ring : Nat) (s : State) : Host.Outcome State Fault Refusal :=
  .next (s.onVp (fun v => v.enumerationEnd ring))

/-- CELL_CONFIG_TIMEOUT: R448. -/
def execCellConfigTimeout (c : CellRef) (s : State) : Host.Outcome State Fault Refusal :=
  .next (s.onVp (fun v => v.cellCfgTimeout c.ring c.pos))

/-- ARMING_BOUND: R447. -/
def execArmingBound (s : State) : Host.Outcome State Fault Refusal :=
  .next (s.onVp (fun v => v.armingBound))

/-- BOOT_RETCLR: R445. -/
def execBootRetclr (m : Nat) (w : Word) (s : State) : Host.Outcome State Fault Refusal :=
  .next (s.onVp (fun v => v.coreWrite m Reg.BOOT_RETCLR w))

end Sys2Proof.Machine
end

