-- ==== Sys2Proof/Machine/CmdSystem.lean ====
section
/-!
DEFINITION. Commands: Resets, clocks, power and the test access ports (R455 to R493).
-/

namespace Sys2Proof.Machine

/-- POWER_ON_RESET: R471, R472. -/
def execPowerOnReset (role : Bool) (s : State) : Host.Outcome State Fault Refusal :=
  .next (s.vpAny (fun v => v.powerOn role))

/-- WARM_RESET: R471 to R473. -/
def execWarmReset (s : State) : Host.Outcome State Fault Refusal :=
  .next (s.vpAny Vp.warmReset)

/-- WARM_RESET_RELEASE: R471. -/
def execWarmResetRelease (s : State) : Host.Outcome State Fault Refusal :=
  .next (s.vpAny Vp.warmRelease)

/-- ROOT_PLL_LOCK: R457. -/
def execRootPllLock (s : State) : Host.Outcome State Fault Refusal :=
  .next (s.vpAny Vp.rootLock)

/-- PLL_LOSS_OF_LOCK: R460. -/
def execPllLossOfLock (pll : PllRef) (guard : Bool) (s : State) : Host.Outcome State Fault Refusal :=
  .next (match pll with
    | .root => s.vpAny (fun v => v.pllLost 10 guard)
    | .quad q => s.onVp (fun v => v.pllLost q guard)
    | .cell c => s.onCell c Cell.pllLost)

/-- PLL_RELOCK: R459, R460. -/
def execPllRelock (pll : PllRef) (guard within : Bool) (s : State) : Host.Outcome State Fault Refusal :=
  .next (match pll with
    | .root => s.vpAny (fun v => v.pllRelock 10 guard within)
    | .quad q => s.onVp (fun v => v.pllRelock q guard within)
    | .cell c => s.cellAny c Cell.pllBack)

/-- QUAD_PLL_RELOCK_TIMEOUT: R188. -/
def execQuadPllRelockTimeout (q : Nat) (s : State) : Host.Outcome State Fault Refusal :=
  .next (s.onVp (fun v => v.quadTimeout q))

/-- SYNC_IN_EDGE: R463. -/
def execSyncInEdge (rising guard : Bool) (s : State) : Host.Outcome State Fault Refusal :=
  .next (s.onVp (fun v => v.syncIn rising guard))

/-- SYS_PWR_CFG_WRITE: R467. -/
def execSysPwrCfgWrite (m : Nat) (w : Word) (s : State) : Host.Outcome State Fault Refusal :=
  .next (s.onVp (fun v => v.coreWrite m Reg.SYS_PWR_CFG w))

/-- DOMAIN_READY: R467. -/
def execDomainReady (d : Nat) (s : State) : Host.Outcome State Fault Refusal :=
  .next (s.onVp (fun v => v.domReady d))

/-- DEPTH_RAMP_DONE: R462. -/
def execDepthRampDone (s : State) : Host.Outcome State Fault Refusal :=
  .next (s.onVp (fun v => v.rampDone))

/-- CN_POWER_ON_RESET: R470. -/
def execCnPowerOnReset (c : CellRef) (coreInt : Bool) (s : State) : Host.Outcome State Fault Refusal :=
  .next (s.cellAny c (fun x => x.powerOn coreInt))

/-- LANE_WATCHDOG: R474. -/
def execLaneWatchdog (c : CellRef) (s : State) : Host.Outcome State Fault Refusal :=
  .next (s.cellAny c (fun x => x.reset 2))

/-- TAP_INSTRUCTION_LOAD: R493: the test access port needs no clock of the part. -/
def execTapInstructionLoad (part : Option CellRef) (t : Tap) (s : State) : Host.Outcome State Fault Refusal :=
  .next (match part with
    | none => s.vpAny (fun v => v.tapLoad t)
    | some c => s.cellAny c (fun x => x.tapLoad t))

end Sys2Proof.Machine
end

