-- ==== Sys2Proof/Machine/CmdTime.lean ====
section
/-!
DEFINITION. Commands: Time (R8, R190 to R208, R228).
-/

namespace Sys2Proof.Machine

/-- PTM_SEND: R203. -/
def execPtmSend (sdly : Nat) (s : State) : Host.Outcome State Fault Refusal :=
  .next (s.onVp (fun v => v.ptmSend sdly))

/-- PTM_RECEIVED: R204. -/
def execPtmReceived (content stamp : Nat) (s : State) : Host.Outcome State Fault Refusal :=
  .next (s.onVp (fun v => v.ptmIn content stamp))

/-- TIME_MEASUREMENT: R206. -/
def execTimeMeasurement (src : Nat) (th : Int) (s : State) : Host.Outcome State Fault Refusal :=
  .next (s.onVp (fun v => v.measure src th false))

/-- PTP_MEAS_SUBMIT: R200. -/
def execPtpMeasSubmit (m : Nat) (w : Word) (s : State) : Host.Outcome State Fault Refusal :=
  .next (s.onVp (fun v => v.coreWrite m Reg.TIME_PTP_MEAS1 w))

/-- PTP_EVENT_MESSAGE: R199. -/
def execPtpEventMessage (port : Nat) (tx : Bool) (mtype seq sec ns frac : Nat) (s : State) : Host.Outcome State Fault
    Refusal :=
  .next (s.onVp (fun v => v.ptpStamp port tx mtype seq sec ns frac))

/-- TIME_TSQ_POP: R199. -/
def execTimeTsqPop (m : Nat) (s : State) : Host.Outcome State Fault Refusal :=
  .next (s.onVp (fun v => v.coreRead m (Reg.TIME_TSQ 0)))

/-- PPS_EDGE: R201. -/
def execPpsEdge (stamp gapMs : Nat) (s : State) : Host.Outcome State Fault Refusal :=
  .next (s.onVp (fun v => v.ppsEdge stamp gapMs))

/-- PPS_MEASUREMENT_DELIVERED: R201. -/
def execPpsMeasurementDelivered (s : State) : Host.Outcome State Fault Refusal :=
  .next (s.onVp (fun v => v.ppsDeliver))

/-- PPS_OUT_PULSE: R202. -/
def execPpsOutPulse (high : Bool) (s : State) : Host.Outcome State Fault Refusal :=
  .next (s.onVp (fun v => v.ppsPulse high))

/-- SOURCE_TIMEOUT: R196. -/
def execSourceTimeout (src : Nat) (s : State) : Host.Outcome State Fault Refusal :=
  .next (s.onVp (fun v => v.sourceTimeout src))

/-- TIME_SET_GO: R208. -/
def execTimeSetGo (m : Nat) (w : Word) (s : State) : Host.Outcome State Fault Refusal :=
  .next (s.onVp (fun v => v.coreWrite m Reg.TIME_SET_CMD w))

/-- WIDE_VALUE_READ_LATCH: R8. -/
def execWideValueReadLatch (m a : Nat) (s : State) : Host.Outcome State Fault Refusal :=
  .next (s.onVp (fun v => v.coreRead m a))

end Sys2Proof.Machine
end

