-- ==== Sys2Proof/Machine/Dispatch.lean ====
section
/-!
DEFINITION. The one dispatch: an arm for each command.
-/

namespace Sys2Proof.Machine

def exec (i : Instr) (s : State) : Host.Outcome State Fault Refusal :=
  match i with
  | .powerOnReset role => Sys2Proof.Machine.execPowerOnReset role s
  | .warmReset => Sys2Proof.Machine.execWarmReset s
  | .rootPllLock => Sys2Proof.Machine.execRootPllLock s
  | .pllLossOfLock pll guard => Sys2Proof.Machine.execPllLossOfLock pll guard s
  | .pllRelock pll guard within => Sys2Proof.Machine.execPllRelock pll guard within s
  | .quadPllRelockTimeout q => Sys2Proof.Machine.execQuadPllRelockTimeout q s
  | .syncInEdge rising guard => Sys2Proof.Machine.execSyncInEdge rising guard s
  | .sysPwrCfgWrite m w => Sys2Proof.Machine.execSysPwrCfgWrite m w s
  | .domainReady d => Sys2Proof.Machine.execDomainReady d s
  | .cnPowerOnReset c coreInt => Sys2Proof.Machine.execCnPowerOnReset c coreInt s
  | .laneWatchdog c => Sys2Proof.Machine.execLaneWatchdog c s
  | .flashDiscoveryDone ok jedec log2 addr4 r144 mhz => Sys2Proof.Machine.execFlashDiscoveryDone ok jedec log2 addr4 r144 mhz s
  | .imageLoadDone readOk => Sys2Proof.Machine.execImageLoadDone readOk s
  | .firstFrameLaunch => Sys2Proof.Machine.execFirstFrameLaunch s
  | .enumerationEnd ring => Sys2Proof.Machine.execEnumerationEnd ring s
  | .cellConfigTimeout c => Sys2Proof.Machine.execCellConfigTimeout c s
  | .armingBound => Sys2Proof.Machine.execArmingBound s
  | .bootRetclr m w => Sys2Proof.Machine.execBootRetclr m w s
  | .frameBoundary frames errs => Sys2Proof.Machine.execFrameBoundary frames errs s
  | .trackerPublish => Sys2Proof.Machine.execTrackerPublish s
  | .adcResultUpdate => Sys2Proof.Machine.execAdcResultUpdate s
  | .loopLatch ain errs => Sys2Proof.Machine.execLoopLatch ain errs s
  | .loopSlotWaitResume e t => Sys2Proof.Machine.execLoopSlotWaitResume e t s
  | .loopDone t => Sys2Proof.Machine.execLoopDone t s
  | .loopOverrunDeadline t => Sys2Proof.Machine.execLoopOverrunDeadline t s
  | .tuneStart m e w => Sys2Proof.Machine.execTuneStart m e w s
  | .tuneStop m e w => Sys2Proof.Machine.execTuneStop m e w s
  | .loopESwap m e w => Sys2Proof.Machine.execLoopESwap m e w s
  | .loopSwap m w => Sys2Proof.Machine.execLoopSwap m w s
  | .loopSlotIntWrite m slot w => Sys2Proof.Machine.execLoopSlotIntWrite m slot w s
  | .decisionInstant errs => Sys2Proof.Machine.execDecisionInstant errs s
  | .armRecordWritten k t => Sys2Proof.Machine.execArmRecordWritten k t s
  | .decisionReserveExpiry => Sys2Proof.Machine.execDecisionReserveExpiry s
  | .armOvrWrite m e w => Sys2Proof.Machine.execArmOvrWrite m e w s
  | .overrideConfirmTimeout e => Sys2Proof.Machine.execOverrideConfirmTimeout e s
  | .timeChangeConfirmTimeout => Sys2Proof.Machine.execTimeChangeConfirmTimeout s
  | .armDecTimeClr m w => Sys2Proof.Machine.execArmDecTimeClr m w s
  | .trainCopyReturn ring up wrapped t hop sotOk crcOk errs sent => Sys2Proof.Machine.execTrainCopyReturn ring up wrapped t hop sotOk crcOk errs sent s
  | .reportReceived ring pos up wrapped arr slot => Sys2Proof.Machine.execReportReceived ring pos up wrapped arr slot s
  | .mgRequestGo m w => Sys2Proof.Machine.execMgRequestGo m w s
  | .mgPacketReturn ring tag status resp data good errs => Sys2Proof.Machine.execMgPacketReturn ring tag status resp data good errs s
  | .mgRetryTimeout ring tag => Sys2Proof.Machine.execMgRetryTimeout ring tag s
  | .retrainAttempt ring hop => Sys2Proof.Machine.execRetrainAttempt ring hop s
  | .retrainNow m ring w => Sys2Proof.Machine.execRetrainNow m ring w s
  | .closeNow m ring w => Sys2Proof.Machine.execCloseNow m ring w s
  | .closeConfirmTimeout ring hop => Sys2Proof.Machine.execCloseConfirmTimeout ring hop s
  | .ringUrgCmdSend m w => Sys2Proof.Machine.execRingUrgCmdSend m w s
  | .tripInputActive input => Sys2Proof.Machine.execTripInputActive input s
  | .tripInputRelease input => Sys2Proof.Machine.execTripInputRelease input s
  | .tripOutRelease => Sys2Proof.Machine.execTripOutRelease s
  | .partnerFailAssert => Sys2Proof.Machine.execPartnerFailAssert s
  | .sampleInstant c r0 r1 r2 => Sys2Proof.Machine.execSampleInstant c r0 r1 r2 s
  | .reportAssembled c => Sys2Proof.Machine.execReportAssembled c s
  | .applyInstant c => Sys2Proof.Machine.execApplyInstant c s
  | .gateEdgeDue c => Sys2Proof.Machine.execGateEdgeDue c s
  | .trimCarrierStart c => Sys2Proof.Machine.execTrimCarrierStart c s
  | .refreshLimitReached c => Sys2Proof.Machine.execRefreshLimitReached c s
  | .trainReceived c x => Sys2Proof.Machine.execTrainReceived c x s
  | .cnThetaUpdate c => Sys2Proof.Machine.execCnThetaUpdate c s
  | .urgentBlockReceived c rx content => Sys2Proof.Machine.execUrgentBlockReceived c rx content s
  | .mgRead c p => Sys2Proof.Machine.execMgRead c p s
  | .mgWrite c p => Sys2Proof.Machine.execMgWrite c p s
  | .mgConfig c p => Sys2Proof.Machine.execMgConfig c p s
  | .mgConfigEnd c p => Sys2Proof.Machine.execMgConfigEnd c p s
  | .mgReset c p => Sys2Proof.Machine.execMgReset c p s
  | .mgReservedOpcode c p => Sys2Proof.Machine.execMgReservedOpcode c p s
  | .cnCalibrationDone c => Sys2Proof.Machine.execCnCalibrationDone c s
  | .cnAdcCal c => Sys2Proof.Machine.execCnAdcCal c s
  | .cnRecalStageDone c => Sys2Proof.Machine.execCnRecalStageDone c s
  | .pwmCommit c => Sys2Proof.Machine.execPwmCommit c s
  | .cnRetireCommand c w => Sys2Proof.Machine.execCnRetireCommand c w s
  | .clearParityCause c => Sys2Proof.Machine.execClearParityCause c s
  | .cnFreeze c w => Sys2Proof.Machine.execCnFreeze c w s
  | .cnFreezeExit c => Sys2Proof.Machine.execCnFreezeExit c s
  | .desatTrip c b chat => Sys2Proof.Machine.execDesatTrip c b chat s
  | .overVoltageTrip c raws => Sys2Proof.Machine.execOverVoltageTrip c raws s
  | .auxResult c ch raws => Sys2Proof.Machine.execAuxResult c ch raws s
  | .gateSupplyLost c chat => Sys2Proof.Machine.execGateSupplyLost c chat s
  | .gateSupplyRestored c => Sys2Proof.Machine.execGateSupplyRestored c s
  | .cnChatterCleared c pin => Sys2Proof.Machine.execCnChatterCleared c pin s
  | .configParityError c => Sys2Proof.Machine.execConfigParityError c s
  | .bypFastAssert c => Sys2Proof.Machine.execBypFastAssert c s
  | .bypMechAssert c => Sys2Proof.Machine.execBypMechAssert c s
  | .delayLineCalibration c dl => Sys2Proof.Machine.execDelayLineCalibration c dl s
  | .overrideAtBoundary c => Sys2Proof.Machine.execOverrideAtBoundary c s
  | .closeAtBoundary c => Sys2Proof.Machine.execCloseAtBoundary c s
  | .timeChangeAtBoundary c => Sys2Proof.Machine.execTimeChangeAtBoundary c s
  | .cellLossOfSignal c side => Sys2Proof.Machine.execCellLossOfSignal c side s
  | .orphanTimeout c side => Sys2Proof.Machine.execOrphanTimeout c side s
  | .mboxInWrite c w => Sys2Proof.Machine.execMboxInWrite c w s
  | .mboxOutWrite c w => Sys2Proof.Machine.execMboxOutWrite c w s
  | .hkMemoryError c => Sys2Proof.Machine.execHkMemoryError c s
  | .hopTrainStart ring hop far => Sys2Proof.Machine.execHopTrainStart ring hop far s
  | .trainStageDone l lost c0 c1 lat => Sys2Proof.Machine.execTrainStageDone l lost c0 c1 lat s
  | .hopConfirm ring hop far blk => Sys2Proof.Machine.execHopConfirm ring hop far blk s
  | .hopTimeout ring hop => Sys2Proof.Machine.execHopTimeout ring hop s
  | .lossOfSignal l => Sys2Proof.Machine.execLossOfSignal l s
  | .lossOfClockLock l => Sys2Proof.Machine.execLossOfClockLock l s
  | .lossOfBlockLock l hdrs => Sys2Proof.Machine.execLossOfBlockLock l hdrs s
  | .lossCleared l rows lat => Sys2Proof.Machine.execLossCleared l rows lat s
  | .highBitErrorRate l n => Sys2Proof.Machine.execHighBitErrorRate l n s
  | .adaptWindow l dens dirs errs => Sys2Proof.Machine.execAdaptWindow l dens dirs errs s
  | .eyeMeasurement l h v => Sys2Proof.Machine.execEyeMeasurement l h v s
  | .fastReadaptEnd l => Sys2Proof.Machine.execFastReadaptEnd l s
  | .lanePwrRequest m l w => Sys2Proof.Machine.execLanePwrRequest m l w s
  | .electricalIdleBurst l recv stage => Sys2Proof.Machine.execElectricalIdleBurst l recv stage s
  | .electricalIdleExit l recv => Sys2Proof.Machine.execElectricalIdleExit l recv s
  | .eiLost l => Sys2Proof.Machine.execEiLost l s
  | .deepEntry l => Sys2Proof.Machine.execDeepEntry l s
  | .signalReturn l lat => Sys2Proof.Machine.execSignalReturn l lat s
  | .dskMarkerSend => Sys2Proof.Machine.execDskMarkerSend s
  | .dskMarkerReceived ms => Sys2Proof.Machine.execDskMarkerReceived ms s
  | .ptmSend sdly => Sys2Proof.Machine.execPtmSend sdly s
  | .ptmReceived content stamp => Sys2Proof.Machine.execPtmReceived content stamp s
  | .timeMeasurement src th => Sys2Proof.Machine.execTimeMeasurement src th s
  | .ptpMeasSubmit m w => Sys2Proof.Machine.execPtpMeasSubmit m w s
  | .ptpEventMessage port tx mtype seq sec ns frac => Sys2Proof.Machine.execPtpEventMessage port tx mtype seq sec ns frac s
  | .timeTsqPop m => Sys2Proof.Machine.execTimeTsqPop m s
  | .ppsEdge stamp gapMs => Sys2Proof.Machine.execPpsEdge stamp gapMs s
  | .ppsMeasurementDelivered => Sys2Proof.Machine.execPpsMeasurementDelivered s
  | .ppsOutPulse high => Sys2Proof.Machine.execPpsOutPulse high s
  | .sourceTimeout src => Sys2Proof.Machine.execSourceTimeout src s
  | .timeSetGo m w => Sys2Proof.Machine.execTimeSetGo m w s
  | .wideValueReadLatch m a => Sys2Proof.Machine.execWideValueReadLatch m a s
  | .schedPost m w => Sys2Proof.Machine.execSchedPost m w s
  | .selfDone core => Sys2Proof.Machine.execSelfDone core s
  | .coreException core cause pc val => Sys2Proof.Machine.execCoreException core cause pc val s
  | .itemWatchdogOverrun item => Sys2Proof.Machine.execItemWatchdogOverrun item s
  | .schedLockRead m j => Sys2Proof.Machine.execSchedLockRead m j s
  | .schedLockWrite m j => Sys2Proof.Machine.execSchedLockWrite m j s
  | .wiCfgWrite m item entry w => Sys2Proof.Machine.execWiCfgWrite m item entry w s
  | .debugHalt core => Sys2Proof.Machine.execDebugHalt core s
  | .debugResume core => Sys2Proof.Machine.execDebugResume core s
  | .adcInjReq m w => Sys2Proof.Machine.execAdcInjReq m w s
  | .injectedResult ch raw limit hard => Sys2Proof.Machine.execInjectedResult ch raw limit hard s
  | .adcCalAll m w => Sys2Proof.Machine.execAdcCalAll m w s
  | .adcCalOne m w => Sys2Proof.Machine.execAdcCalOne m w s
  | .sliceCalibrationDone ofs gain => Sys2Proof.Machine.execSliceCalibrationDone ofs gain s
  | .rotationStep => Sys2Proof.Machine.execRotationStep s
  | .handoverStageEnd moon pairs => Sys2Proof.Machine.execHandoverStageEnd moon pairs s
  | .lpBurstStart => Sys2Proof.Machine.execLpBurstStart s
  | .streamLineWrite ch lag sidx xs => Sys2Proof.Machine.execStreamLineWrite ch lag sidx xs s
  | .adcOverRange ch high hard => Sys2Proof.Machine.execAdcOverRange ch high hard s
  | .triggerCrossing pool lead taken raw => Sys2Proof.Machine.execTriggerCrossing pool lead taken raw s
  | .tailComplete pool lead raw facts => Sys2Proof.Machine.execTailComplete pool lead raw facts s
  | .measurementComplete => Sys2Proof.Machine.execMeasurementComplete s
  | .acqPFree m pool w => Sys2Proof.Machine.execAcqPFree m pool w s
  | .locatorSeDone => Sys2Proof.Machine.execLocatorSeDone s
  | .locRemoteSubmit m w => Sys2Proof.Machine.execLocRemoteSubmit m w s
  | .tliWordReceived j word => Sys2Proof.Machine.execTliWordReceived j word s
  | .tliCodeError j => Sys2Proof.Machine.execTliCodeError j s
  | .tliTimeout j => Sys2Proof.Machine.execTliTimeout j s
  | .phasorEntryWritten k sec n => Sys2Proof.Machine.execPhasorEntryWritten k sec n s
  | .gridPqPop m => Sys2Proof.Machine.execGridPqPop m s
  | .hostFrameDropped port => Sys2Proof.Machine.execHostFrameDropped port s
  | .badFrame h typ => Sys2Proof.Machine.execBadFrame h typ s
  | .read h items => Sys2Proof.Machine.execRead h items s
  | .readDeferredStart port => Sys2Proof.Machine.execReadDeferredStart port s
  | .write h target items => Sys2Proof.Machine.execWrite h target items s
  | .deblock h target arms rest => Sys2Proof.Machine.execDeblock h target arms rest s
  | .block h target arms rest => Sys2Proof.Machine.execBlock h target arms rest s
  | .setpoint h target j w rest => Sys2Proof.Machine.execSetpoint h target j w rest s
  | .retire h target cell w rest => Sys2Proof.Machine.execRetire h target cell w rest s
  | .tokenRequest h => Sys2Proof.Machine.execTokenRequest h s
  | .tokenRelease h => Sys2Proof.Machine.execTokenRelease h s
  | .tokenTimeout => Sys2Proof.Machine.execTokenTimeout s
  | .hostLinkLost port => Sys2Proof.Machine.execHostLinkLost port s
  | .cancel h tag => Sys2Proof.Machine.execCancel h tag s
  | .post h j => Sys2Proof.Machine.execPost h j s
  | .msg h len data => Sys2Proof.Machine.execMsg h len data s
  | .hostPMsgAck m port w => Sys2Proof.Machine.execHostPMsgAck m port w s
  | .hostPMsgSend m port w => Sys2Proof.Machine.execHostPMsgSend m port w s
  | .imageRead h slot ofs len => Sys2Proof.Machine.execImageRead h slot ofs len s
  | .imageErase h slot ofs => Sys2Proof.Machine.execImageErase h slot ofs s
  | .imageProgram h slot ofs data => Sys2Proof.Machine.execImageProgram h slot ofs data s
  | .imageCrc h slot ofs len => Sys2Proof.Machine.execImageCrc h slot ofs len s
  | .imageOpDone ok => Sys2Proof.Machine.execImageOpDone ok s
  | .trip h key => Sys2Proof.Machine.execTrip h key s
  | .tripClear h key => Sys2Proof.Machine.execTripClear h key s
  | .eventFrameSend port => Sys2Proof.Machine.execEventFrameSend port s
  | .partnerConfirm port tag => Sys2Proof.Machine.execPartnerConfirm port tag s
  | .partnerConfirmTimeout port tag => Sys2Proof.Machine.execPartnerConfirmTimeout port tag s
  | .hostxReceived x gap => Sys2Proof.Machine.execHostxReceived x gap s
  | .sealOpen => Sys2Proof.Machine.execSealOpen s
  | .sealClose => Sys2Proof.Machine.execSealClose s
  | .sealPinChange a b chatter => Sys2Proof.Machine.execSealPinChange a b chatter s
  | .fltAck m blk w => Sys2Proof.Machine.execFltAck m blk w s
  | .faultAutoAck blk inst => Sys2Proof.Machine.execFaultAutoAck blk inst s
  | .dumpWritten => Sys2Proof.Machine.execDumpWritten s
  | .cfgdReceived digest role gap => Sys2Proof.Machine.execCfgdReceived digest role gap s
  | .soloStart => Sys2Proof.Machine.execSoloStart s
  | .rfhReceived ring f frame arr gap => Sys2Proof.Machine.execRfhReceived ring f frame arr gap s
  | .rfhDeadline ring sent => Sys2Proof.Machine.execRfhDeadline ring sent s
  | .forwardedReportReceived blk arr gap => Sys2Proof.Machine.execForwardedReportReceived blk arr gap s
  | .rtvReceived frame xs gap => Sys2Proof.Machine.execRtvReceived frame xs gap s
  | .rtvWaitExpiry => Sys2Proof.Machine.execRtvWaitExpiry s
  | .ackSetClose => Sys2Proof.Machine.execAckSetClose s
  | .digReceived frame ds gap => Sys2Proof.Machine.execDigReceived frame ds gap s
  | .digestCompare => Sys2Proof.Machine.execDigestCompare s
  | .snapApply x gap => Sys2Proof.Machine.execSnapApply x gap s
  | .snapTimeout k => Sys2Proof.Machine.execSnapTimeout k s
  | .pstReceived x gap => Sys2Proof.Machine.execPstReceived x gap s
  | .pstMissing => Sys2Proof.Machine.execPstMissing s
  | .takeover => Sys2Proof.Machine.execTakeover s
  | .join snaps => Sys2Proof.Machine.execJoin snaps s
  | .tripMessageReceived src gap => Sys2Proof.Machine.execTripMessageReceived src gap s
  | .stickyClr m a w => Sys2Proof.Machine.execStickyClr m a w s
  | .w1cClear m a w => Sys2Proof.Machine.execW1cClear m a w s
  | .registerWrite who a w guard => Sys2Proof.Machine.execRegisterWrite who a w guard s
  | .warmResetRelease => Sys2Proof.Machine.execWarmResetRelease s
  | .hiBerCleared l n => Sys2Proof.Machine.execHiBerCleared l n s
  | .sealChatterCleared => Sys2Proof.Machine.execSealChatterCleared s
  | .depthRampDone => Sys2Proof.Machine.execDepthRampDone s
  | .capacitorHigh c raw => Sys2Proof.Machine.execCapacitorHigh c raw s
  | .tapInstructionLoad part t => Sys2Proof.Machine.execTapInstructionLoad part t s

end Sys2Proof.Machine
end

