-- ==== Sys2Proof/Safety.lean ====
section
/-!
DEFINITION. What a safe run is, in the terms that statements use: the gate outputs of a cell, the form of its data, and a
valve processor in which nothing waits.
-/

namespace Sys2Proof.Machine

/-! ### Cells -/

/-- The instant of a pending turn-on, and that of a pending turn-off. -/
def GateSt.onAt (x : GateSt) : Option Nat :=
  match x.pend with
  | some (t, true) => some t
  | _ => none
def GateSt.offAt (x : GateSt) : Option Nat :=
  match x.pend with
  | some (t, false) => some t
  | _ => none

/-- A turn-on that `p` waits for finds the other gate of its leg low by then (R86). -/
def GateSt.waits (p q : GateSt) : Bool :=
  match p.onAt with
  | none => true
  | some t =>
    q.onAt.isNone && (!q.hi || (match q.offAt with
      | some u => decide (u ≤ t)
      | none => false))

/-- The two gates of a leg are not high together, and no edge that waits would bring them to be (R85, R86). -/
def legSafe (p q : GateSt) : Bool := !(p.hi && q.hi) && p.waits q && q.waits p

/-- A gate is low, with no edge waiting. -/
def GateSt.idle (x : GateSt) : Bool := !x.hi && x.pend.isNone

/-- The switching stage is at rest: every gate output low, and nothing scheduled. -/
def Cell.stageOff (c : Cell) : Bool :=
  c.ah.idle && c.al.idle && c.bh.idle && c.bl.idle && c.todo.isEmpty && c.pwm.isNone

/-- A safe cell: its STATE is one of R78's; no leg has both gates high; in Unconfigured and Retired all gates are low
(R78, R85); only configuration of `CN_SW`, `CN_ADC` and `CN_PROT` waits for an apply instant (R115); and its registers stand in the
canonical form. -/
def Cell.safe (c : Cell) : Bool :=
  decide (c.st ≤ 4) && legSafe c.ah c.al && legSafe c.bh c.bl
    && (c.stageOff || !(c.st == stUnconf || c.st == stRetired))
    && c.pendCfg.all (fun p => decide (0x800 ≤ p.1) && decide (p.1 < 0x1400)) && swf cnReset c.regs

/-- Every cell is safe, and the list of cells stands in its canonical form. -/
def State.safe (s : State) : Bool := swf (fun _ => ({} : Cell)) s.cells && s.cells.all (fun p => p.2.safe)

/-! ### The valve processor -/

/-- Nothing waits within the VP: no input, no message that has left, and no frame that a port could serve. -/
def Vp.calm (v : Vp) : Bool :=
  v.inbox.isEmpty && portIds.all (fun p =>
    !(v.bit (Reg.HOST_P_MSG_STAT p) 12 && decide ((v.port p).msgEnd ≤ v.up))
      && ((v.port p).serving.isSome || (v.port p).queue.isEmpty) && (v.tokenAsked p).isNone)

/-- Does a write of `w` by core `m` (16 for the MC) to the register at `a` take effect as it is made: the master runs, the
address is that of a register that takes writes, its domain is ready, no rule refuses it, and it is not one that waits for
the boundary (R7, R38, R72, R468)? -/
def Vp.accepts (v : Vp) (m a : Nat) (w : Word) : Bool :=
  v.masterActs m && region m a == .reg && decide (a % 4 = 0) && v.domOn (accessDom m a)
    && (match regRow a with
      | some r => r.acc != .ro && r.acc != .ros && (r.acc != .rws || (v.sealOpen && !v.launched))
      | none => false)
    && !valueRefused a w && !v.stateRefused a w

/-- What the accepted write brings about. -/
def Vp.written (v : Vp) (m a : Nat) (w : Word) : Vp :=
  match regRow a with
  | some r => v.effect m a r w
  | none => v

/-- The bits of the register at `a` that a write can set. -/
def regMask (a : Nat) : Nat :=
  match regRow a with
  | some r => r.mask
  | none => 0


/-- `s` after the valve processor has become `v`, with what that brings about within it. -/
def State.after (s : State) (v : Vp) : State := { s with vp := v.settle }

/-! ### Lanes and ports -/

/-- A lane of either part (R158, R161). -/
def State.lane (s : State) : LaneRef → Lane
  | .vp l => s.vp.lane l
  | .cell c i => (s.cell c).lane (i % 2)

/-- The part of a lane runs, and a lane of the valve processor is in service with its quad's PLL in lock (R160, R188, R396). -/
def State.laneOn (s : State) : LaneRef → Bool
  | .vp l => s.vp.runs && s.vp.laneHere l && s.vp.quadOk l
  | .cell c _ => !(s.cell c).clamped

/-- `s` after a lane has become `x` with the conditions `cs` of R188 found on it; PQ takes its source anew after a peer lane
(R185), and a side of a cell whose receiver has lost signal or a lock bridges (R148). -/
def State.laneTo (s : State) (l : LaneRef) (x : Lane) (cs : List Nat) : State :=
  match l with
  | .vp l =>
    let v := (s.vp.setLane l x).laneFaults l cs (Reg.LANE_STICKY l)
    s.after (if 36 ≤ l ∧ l < 40 then v.pqSync else v)
  | .cell c i =>
    let d := (s.cell c).setLane (i % 2) x
    s.setCell c (if ((s.cell c).lane (i % 2)).good && !(d.lane (i % 2)).good then d.bridge (i % 2 == 1) else d.sync)

/-- The word of a lane's latency register for the latency found at a lock, of a cell's lane in ps (R163). -/
def laneLat (l : LaneRef) (lat : Word) : Word :=
  match l with
  | .vp n => vpLat n lat
  | .cell _ _ => cellLat lat.toNat

/-- `s` after a lane has become `x`; a lane of a cell that has taken a lock, as `took` says, brings the latency `ps` to the
cell's time (R163, R212). -/
def State.laneLock (s : State) (l : LaneRef) (x : Lane) (took : Bool) (ps : Nat) : State :=
  match l with
  | .vp n => s.laneTo (.vp n) x []
  | .cell c i =>
    let d := (s.cell c).setLane (i % 2) x
    let d := if ((s.cell c).lane (i % 2)).good && !(d.lane (i % 2)).good then d.bridge (i % 2 == 1) else d.sync
    s.setCell c (if took then (if i % 2 = 0 then { d with hop0 := ps } else { d with hop1 := ps }) else d)

/-- A port takes frames and serves none, and has not answered the request's TAG among its last 16 (R361, R365, R366). -/
def Vp.portFree (v : Vp) (p tag : Nat) : Bool :=
  v.portOn p && (v.port p).serving.isNone && (v.port p).queue.isEmpty && (v.port p).saved.all (fun r => r.tag != tag)

/-- A frame has arrived at a port, is counted and shown, and is the one that the port serves (R361). -/
def Vp.arrived (v : Vp) (p : Nat) (f : HFrame) : Vp :=
  let u := ((v.addFld (Reg.HOST_P_RX_CNT p) 0 16 1).setReg (Reg.HOST_P_LAST p)
    (w32 (f.tag % 65536 + f.body.typ % 256 * 65536))).setBit (Reg.HOST_P_STAT p) 2 true
  u.setPort p { v.port p with dst := f.src, dstVlan := f.vlan, serving := some f, queue := [] }

/-! ### What a command is for -/

/-- Where a command goes: to the valve processor or a cell whose clock runs, to either whether it runs or not, or to both ends of
a hop. -/
inductive Target where
  | vp
  | vpAny
  | cell (c : CellRef)
  | cellAny (c : CellRef)
  | hop
  deriving DecidableEq, Repr

/-- The class of a message in the stream to the partner (R421): 0 a TRIP, 1 a forwarded report or a message that has begun, 2
one that waits. -/
def PeerOut.rank (x : PeerOut) : Nat :=
  match x.msg with
  | .trip _ => 0
  | _ => if x.waits then 2 else 1

/-- The stream is in the order of R421. -/
def streamOrdered (q : List PeerOut) : Prop := q.Pairwise (fun x y => x.rank ≤ y.rank)

end Sys2Proof.Machine

namespace Sys2Proof

open Machine

/-- Where each command goes (R457, R460, R471, R493: resets, clocks and the test access port need no running clock). -/
def Instr.target : Instr → Target
  | .powerOnReset _ => .vpAny
  | .warmReset => .vpAny
  | .rootPllLock => .vpAny
  | .pllLossOfLock .root _ => .vpAny
  | .pllLossOfLock (.quad _) _ => .vp
  | .pllLossOfLock (.cell c) _ => .cell c
  | .pllRelock .root _ _ => .vpAny
  | .pllRelock (.quad _) _ _ => .vp
  | .pllRelock (.cell c) _ _ => .cellAny c
  | .quadPllRelockTimeout _ => .vp
  | .syncInEdge _ _ => .vp
  | .sysPwrCfgWrite _ _ => .vp
  | .domainReady _ => .vp
  | .cnPowerOnReset c _ => .cellAny c
  | .laneWatchdog c => .cellAny c
  | .flashDiscoveryDone _ _ _ _ _ _ => .vp
  | .imageLoadDone _ => .vp
  | .firstFrameLaunch => .vp
  | .enumerationEnd _ => .vp
  | .cellConfigTimeout _ => .vp
  | .armingBound => .vp
  | .bootRetclr _ _ => .vp
  | .frameBoundary _ _ => .vp
  | .trackerPublish => .vp
  | .adcResultUpdate => .vp
  | .loopLatch _ _ => .vp
  | .loopSlotWaitResume _ _ => .vp
  | .loopDone _ => .vp
  | .loopOverrunDeadline _ => .vp
  | .tuneStart _ _ _ => .vp
  | .tuneStop _ _ _ => .vp
  | .loopESwap _ _ _ => .vp
  | .loopSwap _ _ => .vp
  | .loopSlotIntWrite _ _ _ => .vp
  | .decisionInstant _ => .vp
  | .armRecordWritten _ _ => .vp
  | .decisionReserveExpiry => .vp
  | .armOvrWrite _ _ _ => .vp
  | .overrideConfirmTimeout _ => .vp
  | .timeChangeConfirmTimeout => .vp
  | .armDecTimeClr _ _ => .vp
  | .trainCopyReturn _ _ _ _ _ _ _ _ _ => .vp
  | .reportReceived _ _ _ _ _ _ => .vp
  | .mgRequestGo _ _ => .vp
  | .mgPacketReturn _ _ _ _ _ _ _ => .vp
  | .mgRetryTimeout _ _ => .vp
  | .retrainAttempt _ _ => .vp
  | .retrainNow _ _ _ => .vp
  | .closeNow _ _ _ => .vp
  | .closeConfirmTimeout _ _ => .vp
  | .ringUrgCmdSend _ _ => .vp
  | .tripInputActive _ => .vp
  | .tripInputRelease _ => .vp
  | .tripOutRelease => .vp
  | .partnerFailAssert => .vp
  | .sampleInstant c _ _ _ => .cell c
  | .reportAssembled c => .cell c
  | .applyInstant c => .cell c
  | .gateEdgeDue c => .cell c
  | .trimCarrierStart c => .cell c
  | .refreshLimitReached c => .cell c
  | .trainReceived c _ => .cell c
  | .cnThetaUpdate c => .cell c
  | .urgentBlockReceived c _ _ => .cell c
  | .mgRead c _ => .cell c
  | .mgWrite c _ => .cell c
  | .mgConfig c _ => .cell c
  | .mgConfigEnd c _ => .cell c
  | .mgReset c _ => .cell c
  | .mgReservedOpcode c _ => .cell c
  | .cnCalibrationDone c => .cell c
  | .cnAdcCal c => .cell c
  | .cnRecalStageDone c => .cell c
  | .pwmCommit c => .cell c
  | .cnRetireCommand c _ => .cell c
  | .clearParityCause c => .cell c
  | .cnFreeze c _ => .cell c
  | .cnFreezeExit c => .cell c
  | .desatTrip c _ _ => .cell c
  | .overVoltageTrip c _ => .cell c
  | .auxResult c _ _ => .cell c
  | .gateSupplyLost c _ => .cell c
  | .gateSupplyRestored c => .cell c
  | .cnChatterCleared c _ => .cell c
  | .configParityError c => .cell c
  | .bypFastAssert c => .cell c
  | .bypMechAssert c => .cell c
  | .delayLineCalibration c _ => .cell c
  | .overrideAtBoundary c => .cell c
  | .closeAtBoundary c => .cell c
  | .timeChangeAtBoundary c => .cell c
  | .cellLossOfSignal c _ => .cell c
  | .orphanTimeout c _ => .cell c
  | .mboxInWrite c _ => .cell c
  | .mboxOutWrite c _ => .cell c
  | .hkMemoryError c => .cell c
  | .hopTrainStart _ _ _ => .hop
  | .trainStageDone (.vp _) _ _ _ _ => .vp
  | .trainStageDone (.cell c _) _ _ _ _ => .cell c
  | .hopConfirm _ _ _ _ => .hop
  | .hopTimeout _ _ => .hop
  | .lossOfSignal (.vp _) => .vp
  | .lossOfSignal (.cell c _) => .cell c
  | .lossOfClockLock (.vp _) => .vp
  | .lossOfClockLock (.cell c _) => .cell c
  | .lossOfBlockLock (.vp _) _ => .vp
  | .lossOfBlockLock (.cell c _) _ => .cell c
  | .lossCleared (.vp _) _ _ => .vp
  | .lossCleared (.cell c _) _ _ => .cell c
  | .highBitErrorRate (.vp _) _ => .vp
  | .highBitErrorRate (.cell c _) _ => .cell c
  | .adaptWindow (.vp _) _ _ _ => .vp
  | .adaptWindow (.cell c _) _ _ _ => .cell c
  | .eyeMeasurement (.vp _) _ _ => .vp
  | .eyeMeasurement (.cell c _) _ _ => .cell c
  | .fastReadaptEnd (.vp _) => .vp
  | .fastReadaptEnd (.cell c _) => .cell c
  | .lanePwrRequest _ _ _ => .vp
  | .electricalIdleBurst _ _ _ => .vp
  | .electricalIdleExit _ _ => .vp
  | .eiLost _ => .vp
  | .deepEntry (.vp _) => .vp
  | .deepEntry (.cell c _) => .cell c
  | .signalReturn (.vp _) _ => .vp
  | .signalReturn (.cell c _) _ => .cell c
  | .dskMarkerSend => .vp
  | .dskMarkerReceived _ => .vp
  | .ptmSend _ => .vp
  | .ptmReceived _ _ => .vp
  | .timeMeasurement _ _ => .vp
  | .ptpMeasSubmit _ _ => .vp
  | .ptpEventMessage _ _ _ _ _ _ _ => .vp
  | .timeTsqPop _ => .vp
  | .ppsEdge _ _ => .vp
  | .ppsMeasurementDelivered => .vp
  | .ppsOutPulse _ => .vp
  | .sourceTimeout _ => .vp
  | .timeSetGo _ _ => .vp
  | .wideValueReadLatch _ _ => .vp
  | .schedPost _ _ => .vp
  | .selfDone _ => .vp
  | .coreException _ _ _ _ => .vp
  | .itemWatchdogOverrun _ => .vp
  | .schedLockRead _ _ => .vp
  | .schedLockWrite _ _ => .vp
  | .wiCfgWrite _ _ _ _ => .vp
  | .debugHalt _ => .vp
  | .debugResume _ => .vp
  | .adcInjReq _ _ => .vp
  | .injectedResult _ _ _ _ => .vp
  | .adcCalAll _ _ => .vp
  | .adcCalOne _ _ => .vp
  | .sliceCalibrationDone _ _ => .vp
  | .rotationStep => .vp
  | .handoverStageEnd _ _ => .vp
  | .lpBurstStart => .vp
  | .streamLineWrite _ _ _ _ => .vp
  | .adcOverRange _ _ _ => .vp
  | .triggerCrossing _ _ _ _ => .vp
  | .tailComplete _ _ _ _ => .vp
  | .measurementComplete => .vp
  | .acqPFree _ _ _ => .vp
  | .locatorSeDone => .vp
  | .locRemoteSubmit _ _ => .vp
  | .tliWordReceived _ _ => .vp
  | .tliCodeError _ => .vp
  | .tliTimeout _ => .vp
  | .phasorEntryWritten _ _ _ => .vp
  | .gridPqPop _ => .vp
  | .hostFrameDropped _ => .vp
  | .badFrame _ _ => .vp
  | .read _ _ => .vp
  | .readDeferredStart _ => .vp
  | .write _ _ _ => .vp
  | .deblock _ _ _ _ => .vp
  | .block _ _ _ _ => .vp
  | .setpoint _ _ _ _ _ => .vp
  | .retire _ _ _ _ _ => .vp
  | .tokenRequest _ => .vp
  | .tokenRelease _ => .vp
  | .tokenTimeout => .vp
  | .hostLinkLost _ => .vp
  | .cancel _ _ => .vp
  | .post _ _ => .vp
  | .msg _ _ _ => .vp
  | .hostPMsgAck _ _ _ => .vp
  | .hostPMsgSend _ _ _ => .vp
  | .imageRead _ _ _ _ => .vp
  | .imageErase _ _ _ => .vp
  | .imageProgram _ _ _ _ => .vp
  | .imageCrc _ _ _ _ => .vp
  | .imageOpDone _ => .vp
  | .trip _ _ => .vp
  | .tripClear _ _ => .vp
  | .eventFrameSend _ => .vp
  | .partnerConfirm _ _ => .vp
  | .partnerConfirmTimeout _ _ => .vp
  | .hostxReceived _ _ => .vp
  | .sealOpen => .vp
  | .sealClose => .vp
  | .sealPinChange _ _ _ => .vp
  | .fltAck _ _ _ => .vp
  | .faultAutoAck _ _ => .vp
  | .dumpWritten => .vp
  | .cfgdReceived _ _ _ => .vp
  | .soloStart => .vp
  | .rfhReceived _ _ _ _ _ => .vp
  | .rfhDeadline _ _ => .vp
  | .forwardedReportReceived _ _ _ => .vp
  | .rtvReceived _ _ _ => .vp
  | .rtvWaitExpiry => .vp
  | .ackSetClose => .vp
  | .digReceived _ _ _ => .vp
  | .digestCompare => .vp
  | .snapApply _ _ => .vp
  | .snapTimeout _ => .vp
  | .pstReceived _ _ => .vp
  | .pstMissing => .vp
  | .takeover => .vp
  | .join _ => .vp
  | .tripMessageReceived _ _ => .vp
  | .stickyClr _ _ _ => .vp
  | .w1cClear _ _ _ => .vp
  | .registerWrite (.vp _) _ _ _ => .vp
  | .registerWrite (.hk c) _ _ _ => .cell c
  | .warmResetRelease => .vpAny
  | .hiBerCleared (.vp _) _ => .vp
  | .hiBerCleared (.cell c _) _ => .cell c
  | .sealChatterCleared => .vp
  | .depthRampDone => .vp
  | .capacitorHigh c _ => .cell c
  | .tapInstructionLoad none _ => .vpAny
  | .tapInstructionLoad (some c) _ => .cellAny c

/-- Does the command reset cell `k` (R474): power-on, the watchdog of its lanes, a RESET packet, or its root PLL's relock? -/
def Instr.resets (i : Instr) (k : CellRef) : Bool :=
  match i with
  | .cnPowerOnReset c _ => c == k
  | .laneWatchdog c => c == k
  | .pllRelock (.cell c) _ _ => c == k
  | .mgReset c _ => c == k
  | _ => false

end Sys2Proof
end

