-- ==== Sys2Proof/Certificates/Slice0/Obligations.lean ====
section
/-!
DEFINITION. The statements for the provers. Each says in its docstring which rules it is about. Where a command has several
forms, each clause names the form by its hypotheses on the state and the operands; its conclusion is the whole next state, so
that it says as well what the command leaves.
-/

open Sys2Proof Sys2Proof.Machine

/-! ### Steps and parts -/

/-- A step runs the command at the front of the queue on the state with the queue's rest; with none waiting the 250 MHz clock
ticks (the model's choice, log entry 1). Every step answers a next state and takes exactly one command from the queue, and
after reset none waits. -/
def Obligations.StepRunsFront : Prop :=
  ((∀ (s : State) (c : Instr) (rest : List Instr),
    step { s with pending := c :: rest } = exec c { s with pending := rest })
  ∧ (∀ s : State, s.pending = [] → step s = .next (s.vpAny Vp.clockTick))
  ∧ State.reset.pending = [])
  ∧ (∀ s : State, ∃ t, step s = .next t ∧ t.pending = s.pending.tail)

/-- A command to a cell leaves the valve processor and every other cell as they are; a command to the valve processor leaves
every cell; neither touches the queue. -/
def Obligations.PartsApart : Prop :=
  ∀ (s t : State) (i : Instr), exec i s = .next t →
    (∀ k, i.target = .cell k ∨ i.target = .cellAny k →
      t.vp = s.vp ∧ t.pending = s.pending ∧ ∀ d, cellKey d ≠ cellKey k → t.cell d = s.cell d)
    ∧ (i.target = .vp ∨ i.target = .vpAny → t.cells = s.cells ∧ t.pending = s.pending)

/-- A valve processor whose clocks do not run, and a cell whose root PLL has lost lock, take up no command but those of
resets, clocks and the test access port (R457, R460, R470, R471). -/
def Obligations.StoppedPartsStand : Prop :=
  ∀ (s : State) (i : Instr),
    (i.target = .vp → s.vp.runs = false → exec i s = .next s)
    ∧ (∀ k, i.target = .cell k → (s.cell k).clamped = true → exec i s = .next s)

/-- From every safe state a step leads to a safe state: in no cell are the two gates of a leg high together, or brought to be
by an edge that waits, and an Unconfigured or Retired cell holds all gates low (R85, R86, R78). -/
def Obligations.StepKeepsSafe : Prop :=
  ∀ s t : State, s.safe = true → step s = .next t → t.safe = true

/-- The part stands safe after reset: nothing waits within the valve processor, and every cell is Unconfigured with its gates
off and its bypass pins undriven. -/
def Obligations.ResetSafe : Prop :=
  State.reset.safe = true ∧ State.reset.vp.calm = true
  ∧ ∀ k : CellRef, (State.reset.cell k).st = stUnconf ∧ (State.reset.cell k).stageOff = true
    ∧ (State.reset.cell k).bypPins = none

/-- From a safe state, a Retired cell stays Retired under every command but one that resets it (R78, R104). -/
def Obligations.RetiredUntilReset : Prop :=
  ∀ (s t : State) (i : Instr) (k : CellRef), s.safe = true → exec i s = .next t → (s.cell k).st = stRetired →
    (∀ d, i.resets d = true → cellKey d ≠ cellKey k) → (t.cell k).st = stRetired

/-- A word written at an address reads back, little-endian, byte by byte; every other byte stands; and a memory in its
canonical form keeps it. -/
def Obligations.MemoryWord : Prop :=
  ∀ (m : List Host.Cell) (a : Nat) (w : Word),
    mgetW (msetW m a w) a = w
    ∧ (∀ i, i < 4 → mget (msetW m a w) (a + i) = BitVec.ofNat 8 (w.toNat / 2 ^ (8 * i)))
    ∧ (∀ b, b < a ∨ a + 4 ≤ b → mget (msetW m a w) b = mget m b)
    ∧ (Memory.wf m = true → Memory.wf (msetW m a w) = true)

/-! ### Registers of the valve processor -/

/-- What a write of a core to a register of the valve processor does. By access code (R7): a read-only register does not
change, a W1C bit is cleared by 1, a word below the highest of a wide value waits and leaves every register as it is (R8),
and in a register of GRID, where no write has an effect of its own, the bits of the mask are set and all others keep their
values. An accepted write takes effect; one at a reserved or unaligned address is a bus error (R38), and an exception of a
control core that runs an item, as is a store of a control core below its stack limit (R277; the exception's cause number and
what its registers hold are the model's choice, log entry 152); one in a domain that is not ready is discarded and counted
(R468); a staged one waits for the boundary once frames run, with the seal open, and is ignored with the seal closed (R72).
-/
def Obligations.RegisterWrites : Prop :=
  (∀ (v : Vp) (m a : Nat) (w : Word) (r : RegRow),
    (r.acc = .ro ∨ r.acc = .ros → v.effect m a r w = v)
    ∧ (r.acc = .w1c → v.effect m a r w = v.setReg a (v.reg a &&& ~~~ (w &&& w32 r.mask)))
    ∧ (r.acc = .rw ∨ r.acc = .rws ∨ r.acc = .wo → wideBelow a = true →
        let u := v.effect m a r w
        let old := (v.wlatch.lookup a).getD (v.reg a)
        u.regs = v.regs ∧ u.mem = v.mem
        ∧ u.wlatch.lookup a = some ((old &&& ~~~ (w32 r.mask)) ||| (w &&& w32 r.mask))
        ∧ ∀ b, b ≠ a → u.wlatch.lookup b = v.wlatch.lookup b)
    ∧ (r.acc = .rw ∨ r.acc = .rws → a / 0x10000 % 16 = 10 → a % 0x10000 < 0xFF00 → stickyClr a = false →
        wideBelow a = false → wideLower a = [] →
        let u := v.effect m a r w
        (∀ i, i < 32 → bit (u.reg a) i = if (w32 r.mask).toNat.testBit i then bit w i else bit (v.reg a) i)
        ∧ ∀ b, b ≠ a → u.reg b = v.reg b))
  ∧ (∀ (s : State) (m a : Nat) (w : Word), s.vp.runs = true → s.vp.masterActs m = true →
    let v := s.vp
    let f := v.raiseAll 0 m [{ cause := 2, cls := unc, addr := a, access := 1, master := m }]
    (v.accepts m a w = true →
      exec (.registerWrite (.vp m) a w false) s = .next (s.after (v.written m a w)))
    ∧ (busError m a true = true → 16 ≤ m →
      exec (.registerWrite (.vp m) a w false) s = .next (s.after f))
    ∧ (busError m a true = true → m < 16 →
      exec (.registerWrite (.vp m) a w false) s = .next (s.after (({ f with free := f.free + 2 }).coreException m (w32 7)
        (Config.coreWord f.free) (w32 (Config.openNat 20 (f.free + 1))))))
    ∧ (busError m a true = false → m < 16 → 0x06010000 ≤ a → a ≤ 0x0601FFFF → a < (v.reg (Reg.SCHED_CORE_SPLIM m)).toNat →
      exec (.registerWrite (.vp m) a w false) s = .next (s.after (({ v with free := v.free + 2 }).coreException m (w32 7)
        (Config.coreWord v.free) (w32 (Config.openNat 20 (v.free + 1))))))
    ∧ (busError m a true = false → region m a = .reg → v.domOn (accessDom m a) = false →
        (v.launched = false ∨ staged a = false) →
      exec (.registerWrite (.vp m) a w false) s = .next (s.after v.pwrAccess))
    ∧ (busError m a true = false → region m a = .reg → v.launched = true → staged a = true →
      exec (.registerWrite (.vp m) a w false) s = .next (s.after (if v.sealOpen then { v with coreWrites := v.coreWrites ++ [(a, w)] } else v))))

/-- A 1 written to a W1C register clears its bit; a *_STICKY_CLR register clears the bits of the register before it;
<BLK>_FLT_ACK acknowledges the classes whose bits are 1 (R403); a corrected fault of a block that SYS_FLT_AUTO names is
acknowledged in its scope alone (R404). -/
def Obligations.ClearingWrites : Prop :=
  (∀ (s : State) (m a : Nat) (w : Word), s.vp.runs = true → s.vp.accepts m a w = true →
    ((regRow a).map (·.acc) = some .w1c →
      exec (.w1cClear m a w) s = .next (s.after (s.vp.setReg a (s.vp.reg a &&& ~~~ (w &&& w32 (regMask a))))))
    ∧ ((regRow a).map (·.acc) = some .wo → a % 0x10000 < 0xFF00 → stickyClr a = true → bit w 31 = false →
      exec (.stickyClr m a w) s = .next (s.after (s.vp.setReg (a - 4) (s.vp.reg (a - 4) &&& ~~~ w))))
    ∧ (∀ blk, blk < 16 → a = Reg.FLT_ACK blk →
      exec (.fltAck m blk w) s = .next (s.after ([1, 2, 3].foldl (fun v k => if bit w (k - 1) then v.ackClass blk k (fun _ => true) else v) s.vp))))
  ∧ (∀ (s : State) (blk inst : Nat), s.vp.runs = true → blk < 16 → s.vp.bit Reg.SYS_FLT_AUTO blk = true →
    s.vp.pending blk inst cor = true →
    exec (.faultAutoAck blk inst) s = .next (s.after (s.vp.ackClass blk cor (fun i => i == inst))))

/-- A read of the lowest word of TAI time answers that word and latches the others (R8); the queues of PTP stamps and of
phasors are popped by a read of their first word, whose other words then stand to be read (R199, R358); what an empty queue
answers is a free value (the spec states none, log entry 9); a read in a domain that is not ready gives 0 and is counted
(R468). -/
def Obligations.WideReads : Prop :=
  (∀ (s : State) (m : Nat), s.vp.runs = true → s.vp.masterActs m = true →
    busError m (Reg.TIME_NOW 0) false = false → s.vp.domOn (accessDom m (Reg.TIME_NOW 0)) = true →
    ∃ u, exec (.wideValueReadLatch m (Reg.TIME_NOW 0)) s = .next (s.after u)
      ∧ u.lastRead = (ts128 s.vp.tai).getD 0 0
      ∧ u.latch.lookup (Reg.TIME_NOW 1) = some ((ts128 s.vp.tai).getD 1 0)
      ∧ u.latch.lookup (Reg.TIME_NOW 2) = some ((ts128 s.vp.tai).getD 2 0)
      ∧ u.latch.lookup (Reg.TIME_NOW 3) = some ((ts128 s.vp.tai).getD 3 0)
      ∧ u.regs = s.vp.regs)
  ∧ (∀ (s : State) (m : Nat), s.vp.runs = true → s.vp.masterActs m = true →
    busError m (Reg.TIME_TSQ 0) false = false → s.vp.domOn (accessDom m (Reg.TIME_TSQ 0)) = true →
    (∀ e r, s.vp.time.tsq = e :: r →
      ∃ u, exec (.timeTsqPop m) s = .next (s.after u) ∧ u.time.tsq = r ∧ u.lastRead = e.getD 0 0
        ∧ u.fld Reg.TIME_TSQ_STAT 0 7 = r.length % 128 ∧ ∀ i, i < 4 → u.reg (Reg.TIME_TSQ i) = e.getD i 0)
    ∧ (s.vp.time.tsq = [] → exec (.timeTsqPop m) s = .next (s.after { s.vp with
        lastRead := w32 (Config.openNat 2 s.vp.free), free := s.vp.free + 1 })))
  ∧ (∀ (s : State) (m : Nat), s.vp.runs = true → s.vp.masterActs m = true →
    busError m (Reg.GRID_PQ 0) false = false → s.vp.domOn (accessDom m (Reg.GRID_PQ 0)) = true →
    (∀ e r, s.vp.grid.pq = e :: r →
      ∃ u, exec (.gridPqPop m) s = .next (s.after u) ∧ u.grid.pq = r ∧ u.lastRead = e.getD 0 0
        ∧ u.fld Reg.GRID_PQ_STAT 0 6 = r.length % 64 ∧ ∀ i, i < 16 → u.reg (Reg.GRID_PQ i) = e.getD i 0)
    ∧ (s.vp.grid.pq = [] → exec (.gridPqPop m) s = .next (s.after { s.vp with
        lastRead := w32 (Config.openNat 7 s.vp.free), free := s.vp.free + 1 })))
  ∧ (∀ (s : State) (m : Nat), s.vp.runs = true → s.vp.masterActs m = true →
    (busError m (Reg.TIME_TSQ 0) false = false → s.vp.domOn (accessDom m (Reg.TIME_TSQ 0)) = false →
      exec (.timeTsqPop m) s = .next (s.after { s.vp.pwrAccess with lastRead := 0 }))
    ∧ (busError m (Reg.GRID_PQ 0) false = false → s.vp.domOn (accessDom m (Reg.GRID_PQ 0)) = false →
      exec (.gridPqPop m) s = .next (s.after { s.vp.pwrAccess with lastRead := 0 })))

/-! ### Faults -/

/-- A fault of class k raised in a scope that is not removed becomes pending one class higher for each class in turn that is
pending there already, up to fatal; no other pending mark changes, and the status shows whether it rose. -/
def Obligations.Escalation : Prop :=
  ∀ (v : Vp) (blk inst cause k addr : Nat), 1 ≤ k → k ≤ 3 → blk < 16 → inst < 256 → v.isRemoved blk inst = false →
    let e := v.escalate blk inst k
    let u := v.raise blk inst cause k addr
    k ≤ e ∧ e ≤ 3 ∧ (∀ j, k ≤ j → j < e → v.pending blk inst j = true) ∧ (e = 3 ∨ v.pending blk inst e = false)
      ∧ u.pending blk inst e = true
      ∧ (∀ b i j, i < 256 → (b, i, j) ≠ (blk, inst, e) → u.pending b i j = v.pending b i j)
      ∧ u.bit (Reg.FLT_STAT blk) 3 = decide (k < e)

/-- A block's capture is filled by the first fault raised while CAP_V is 0; later faults leave it as it is, but that a fatal
fault replaces a capture of a lower class and sets REPL; it is cleared when the class that it holds is acknowledged, and by
either reset. A device-level fatal fault is acknowledged only by reset (R403), and a removed instance raises no fault (R407).
Conditions of one scope found together are one fault, of the highest class that they have after escalation, which is counted
and shown (R397 to R399). -/
def Obligations.FirstErrorCapture : Prop :=
  ((∀ (v : Vp) (blk inst cause k addr : Nat), 1 ≤ k → k ≤ 3 → blk < 16 → inst < 256 → cause < 256 →
    v.isRemoved blk inst = false →
    let e := v.escalate blk inst k
    let u := v.raise blk inst cause k addr
    let full := v.bit (Reg.FLT_STAT blk) 5
    let held := sget (fun _ => 0) v.flt.cap blk
    (full = false ∨ (e = 3 ∧ held < 3) →
      u.bit (Reg.FLT_STAT blk) 5 = true ∧ sget (fun _ => 0) u.flt.cap blk = e
      ∧ u.reg (Reg.FLT_FIRST blk 0) = w32 addr
      ∧ u.fld (Reg.FLT_FIRST blk 1) 0 8 = 0x30 + blk ∧ u.fld (Reg.FLT_FIRST blk 1) 8 3 = 5
      ∧ u.fld (Reg.FLT_FIRST blk 1) 11 2 = e ∧ u.bit (Reg.FLT_FIRST blk 1) 13 = decide (k < e)
      ∧ u.bit (Reg.FLT_FIRST blk 1) 14 = full ∧ u.fld (Reg.FLT_FIRST blk 1) 16 8 = inst
      ∧ u.fld (Reg.FLT_FIRST blk 1) 24 8 = cause
      ∧ u.reg (Reg.FLT_FIRST blk 2) = w32 v.sec ∧ u.reg (Reg.FLT_FIRST blk 3) = w32 v.ns)
    ∧ (full = true → ¬ (e = 3 ∧ held < 3) →
      u.bit (Reg.FLT_STAT blk) 5 = true ∧ sget (fun _ => 0) u.flt.cap blk = held
      ∧ ∀ i, i < 4 → u.reg (Reg.FLT_FIRST blk i) = v.reg (Reg.FLT_FIRST blk i)))
  ∧ (∀ (v : Vp) (blk k : Nat), 1 ≤ k → k ≤ 3 → blk < 16 → sget (fun _ => 0) v.flt.cap blk = k →
    (k = 3 → deviceLevel blk (v.fld (Reg.FLT_FIRST blk 1) 16 8) = false) →
    let u := v.ackClass blk k (fun _ => true)
    u.bit (Reg.FLT_STAT blk) 5 = false ∧ sget (fun _ => 0) u.flt.cap blk = 0
    ∧ ∀ i, i < 4 → u.reg (Reg.FLT_FIRST blk i) = 0)
  ∧ (∀ (v : Vp) (blk : Nat) (role : Bool), blk < 16 →
    (v.powerOn role).bit (Reg.FLT_STAT blk) 5 = false ∧ (v.powerOn role).flt.cap = []
    ∧ v.warmed.bit (Reg.FLT_STAT blk) 5 = false ∧ v.warmed.flt.cap = []))
  ∧ (∀ (v : Vp) (blk inst : Nat) (c : Cond) (cs : List Cond),
    (v.isRemoved blk inst = true → v.raiseAll blk inst (c :: cs) = v)
    ∧ (v.isRemoved blk inst = false → blk < 16 → inst < 256 → (∀ d ∈ c :: cs, 1 ≤ d.cls ∧ d.cls ≤ 3) →
      let k := (c :: cs).foldl (fun k d => max k (v.escalate blk inst d.cls)) 0
      let u := v.raiseAll blk inst (c :: cs)
      1 ≤ k ∧ k ≤ 3 ∧ u.pending blk inst k = true ∧ u.bit (Reg.FLT_STAT blk) (k - 1) = true
      ∧ u.fld (Reg.FLT_STAT blk) (8 * k) 8 = min (v.fld (Reg.FLT_STAT blk) (8 * k) 8 + 1) 255
      ∧ u.bit (Reg.FLT_STAT blk) 3 = (c :: cs).any (fun d => v.escalate blk inst d.cls == k && decide (d.cls < k))
      ∧ Input.event (32 + blk) ∈ u.inbox))

/-! ### The frame -/

/-- What a boundary does, in its order: the results of the conversions and what was measured on the rings are published, the
epoch closes under the number of the frame that ends and the banks of the cell state table exchange, staged writes and
bundles take effect, banks swap, and the next frame begins (R18, R36, R370). The first frame begins at the first whole TAI
second at least 1 ms after time is ready, under the number that the epoch gives it (R17). -/
def Obligations.FrameBoundary : Prop :=
  ((∀ (s : State) (frames : List AdcFrame) (errs : List MemErr), s.vp.runs = true →
    let v := s.vp.memErrors errs
    v.launched = true → v.fatal = false →
    let a := v.nextFrame.frameCodes frames
    let b := ringIds.foldl (fun v m => (v.publish m).configService m) a
    let c := (b.closeEpoch v.frameNo).applyCoreWrites.applyBundles.loopBoundary
    let d := [0, 1, 2, 3].foldl Vp.trackerBoundary (c.peerBoundary c.frameNo).schedBoundary
    exec (.frameBoundary frames errs) s = .next (s.after d.beginFrame))
  ∧ (∀ (v : Vp) (n : Nat), (v.closeEpoch n).cstClosed = v.cst ∧ (v.closeEpoch n).cst = v.clearCst.cst)
  ∧ (∀ v : Vp, v.time.seqErr = 0 → v.time.slew = 0 → v.nextFrame.frameNo = v.frameNo + 1))
  ∧ ((∀ s : State, s.vp.runs = true → s.vp.launched = false → s.vp.fatal = false → s.vp.ready = true → s.vp.phase = 4 →
    s.vp.peer.joining = false → (s.vp.paired = true → s.vp.bit Reg.PEER_STAT 2 = true ∨ s.vp.bit Reg.PEER_STAT 4 = true) →
    exec .firstFrameLaunch s = .next (s.after (s.vp.launchAt ((s.vp.firstSecond - s.vp.epochE) * 1000000000 / s.vp.fp))))
  ∧ (∀ v : Vp, v.time.readyAt + 1000000 * nsUnit ≤ v.firstSecond * secUnit ∧ v.epochE ≤ v.firstSecond
    ∧ (v.epochE < v.firstSecond → (v.firstSecond - 1) * secUnit < max (v.time.readyAt + 1000000 * nsUnit) v.tai)))

/-! ### Loop engines -/

/-- The loop engines latch their inputs at I_n and run, a waiting slot resumes, LOOP_DONE follows when every engine has
completed, and the overrun deadline ends the frame's run (R232, R238, R249, R251). Accepted writes of a core start and stop a
tune, ask for bank swaps, and set an integrator (R242, R246, R255). That the clock stands at the instant named is the model's
choice (log entry 20). -/
def Obligations.LoopEvents : Prop :=
  ((∀ (s : State) (ain : List (List RawConv)) (errs : List MemErr), s.vp.runs = true →
    let v := s.vp.memErrors errs
    v.loop.latched = false →
    let u := v.frameAt (v.dOfs - v.fld Reg.LOOP_CFG 0 16)
    exec (.loopLatch ain errs) s = .next (s.after ((u.loopLatch (u.ainSeen ain)).ainKeep (u.ainSeen ain))))
  ∧ (∀ (s : State) (e t : Nat), s.vp.runs = true → s.vp.loop.latched = true → s.vp.loop.done = false → s.vp.engAt e < 16 →
    s.vp.isRemoved 4 e = false →
    let v := s.vp.frameAt (s.vp.iOfs + t)
    let at_ := max t (v.engClock e)
    let u := Vp.engGo e 17 { v with loop := { v.loop with time := sset (fun _ => 0) v.loop.time e at_ } }
    exec (.loopSlotWaitResume e t) s = .next (s.after (if u.engAt e = 16 then u.engTime e (u.engClock e) else u)))
  ∧ (∀ (s : State) (t : Nat), s.vp.runs = true → s.vp.loop.latched = true → s.vp.loop.done = false →
    s.vp.bit Reg.LOOP_CFG 16 = true → s.vp.enginesDone = true →
    exec (.loopDone t) s = .next (s.after (((s.vp.frameAt (s.vp.iOfs + t)).loopDone t).rtvSend)))
  ∧ (∀ (s : State) (t : Nat), s.vp.runs = true → s.vp.loop.latched = true → s.vp.loop.done = false →
    s.vp.bit Reg.LOOP_CFG 16 = true →
    let u := engIds.foldl (fun v e =>
      if v.isRemoved 4 e then v
      else if v.engAt e < 16 then v.engOverrun e
      else (v.setBit (Reg.LOOP_E_STAT e) 1 false).setFld (Reg.LOOP_E_STAT e) 2 2 0) (s.vp.frameAt (s.vp.iOfs + t))
    let x := if u.loop.done then u else u.loopDone t
    exec (.loopOverrunDeadline t) s = .next (s.after (if x.loop.done then x.rtvSend else x))))
  ∧ (∀ (s : State) (m e : Nat) (w : Word), s.vp.runs = true → e < 32 →
    (s.vp.accepts m (Reg.LOOP_E_TUNE_CTL e) w = true →
      let u := s.vp.setFld (Reg.LOOP_E_TUNE_CTL e) 0 4 (fld w 0 4)
      let u := if bit w 9 then u.tuneEnd e 6 else u
      let t := s.after (if bit w 8 then u.tuneStart e (fld w 0 4) else u)
      exec (.tuneStart m e w) s = .next t ∧ exec (.tuneStop m e w) s = .next t)
    ∧ (s.vp.accepts m (Reg.LOOP_E_SWAP e) w = true →
      exec (.loopESwap m e w) s = .next (s.after (((List.range 16).filter (fun i => bit w i)).foldl (fun v i => v.swapReq (16 * e + i)) s.vp)))
    ∧ (s.vp.accepts m Reg.LOOP_SWAP w = true →
      exec (.loopSwap m w) s = .next (s.after ((engIds.filter (fun e => bit w e)).foldl (fun v e => (v.slotsOf e).foldl Vp.swapReq v) s.vp)))
    ∧ (∀ slot, slot < 512 → s.vp.accepts m (Reg.LOOP_SLOT_INT slot) w = true →
      exec (.loopSlotIntWrite m slot w) s = .next (s.after (s.vp.store (Reg.LOOP_SLOT_INT slot) (regMask (Reg.LOOP_SLOT_INT slot)) w))))

/-- After a run of a slot its output lies within OUT_LO and OUT_HI, by the PI law and by the biquad law, and the integrator
of a PI slot that lay within its limits still does (R239, R240). -/
def Obligations.LoopLimits : Prop :=
  ∀ (v : Vp) (i : Nat) (l : SlotLatch), i < 512 → v.outLo i ≤ v.outHi i →
    (let u := v.runPi i l
     v.outLo i ≤ u.int (Reg.LOOP_SLOT_OUT i) ∧ u.int (Reg.LOOP_SLOT_OUT i) ≤ v.outHi i
     ∧ (v.ilimLo i ≤ v.int (Reg.LOOP_SLOT_INT i) → v.int (Reg.LOOP_SLOT_INT i) ≤ v.ilimHi i →
        v.ilimLo i ≤ u.int (Reg.LOOP_SLOT_INT i) ∧ u.int (Reg.LOOP_SLOT_INT i) ≤ v.ilimHi i))
    ∧ (let u := v.runBiquad i l
       v.outLo i ≤ u.int (Reg.LOOP_SLOT_OUT i) ∧ u.int (Reg.LOOP_SLOT_OUT i) ≤ v.outHi i)

/-! ### Arms and the decision -/

/-- The decision instant; the record of an engine; the end of the reserve; an override and a change of the sampling times
that the cells do not confirm in time; and the writes of ARM_OVR and ARM_DEC_TIME_CLR (R31, R42, R69, R70, R73, R76). That
the clock stands at the instant named is the model's choice (log entry 20). -/
def Obligations.ArmEvents : Prop :=
  (∀ (s : State) (errs : List MemErr), s.vp.runs = true →
    let v0 := s.vp.memErrors errs
    v0.launched = true → v0.decided = false → v0.fatal = false →
    let v := v0.frameAt v0.dOfs
    let ev := if v.pairMode then v else ringIds.foldl Vp.ringEval v
    let ck := ringIds.foldl (fun v m =>
      if (v.ring m).recheck && v.ringSt m == 3 then (v.check28 m).1.raiseAll 6 m (v.check28 m).2 else v) ev
    let u := { ck with decided := true, armDone := 0 }
    let u := if (armIds.filter u.armOn).isEmpty then u.post (.event 5) else u
    let u := armIds.foldl (fun v k => if v.armOn k then v.latchArm k else v) u
    let x := armIds.foldl (fun v k => if v.armOn k then v.decideArm k else v) (u.ackCells u.heldInTime)
    exec (.decisionInstant errs) s = .next (s.after (if u.pairMode then u.rtvLatch
      else (ringIds.foldl Vp.closeCheck x).armedCheck.rtvLatch)))
  ∧ (∀ (s : State) (k t : Nat), s.vp.runs = true → k < 12 → (s.vp.arm k).busy = true → (s.vp.arm k).badHist = false →
    let v := s.vp.frameAt (s.vp.dOfs + t)
    let a := s.vp.arm k
    let v := v.setArm k { a with busy := false, written := true }
    let v := ((v.setReg (Reg.ARM_DEC0 k) (w32 a.w0)).setReg (Reg.ARM_DEC1 k) (w32 a.w1)).setReg (Reg.ARM_DEC2 k) (w32 a.w2)
    let v := if (v.reg Reg.ARM_DEC_TIME).toNat < min t 0xFFFF then v.setReg Reg.ARM_DEC_TIME (w32 (min t 0xFFFF)) else v
    let v := (v.recEntries k).decisionFault k []
    let v := { v with armDone := putBit v.armDone k true }
    let v := if (armIds.filter v.armOn).all (fun j => v.armDone.testBit j) then v.post (.event 5) else v
    exec (.armRecordWritten k t) s = .next (s.after v.digSend))
  ∧ (∀ s : State, s.vp.runs = true → (armIds.any (fun k => (s.vp.arm k).busy)) = true →
    exec .decisionReserveExpiry s = .next (s.after (armIds.foldl (fun v k =>
      if (v.arm k).busy then
        let v := v.setArm k { v.arm k with busy := false, written := false }
        let v := (v.inc (Reg.ARM_HOLD_CNT k)).setBit (Reg.ARM_STICKY k) 2 true
        let v := v.decisionFault k [Cond.own 5 4 unc (Reg.ARM_HOLD_CNT k)]
        let v := { v with armDone := putBit v.armDone k true }
        if (armIds.filter v.armOn).all (fun j => v.armDone.testBit j) then v.post (.event 5) else v
      else v) s.vp)))
  ∧ (∀ (s : State) (e : Nat), s.vp.runs = true → sget (fun _ => 0) s.vp.ovrAt e ≠ 0 → s.vp.ovrGot.contains e = false →
    let was := sget (fun _ => 0) s.vp.ovrWas e
    let cell := was % 4096
    let v := s.vp.mgSend (cell / 256) (mgWrite (was % 256) Reg.CN_SW_OVR_AT [0] (.ovrCancel e))
    let b := nameBoundary (v.frameNo + 3)
    let v := { v with ovrAt := sset (fun _ => 0) v.ovrAt e b, ovrWas := sset (fun _ => 0) v.ovrWas e (cell + 4096 * (was / 4096))
                      ovrGot := v.ovrGot.filter (· != e) }
    exec (.overrideConfirmTimeout e) s = .next (s.after ((v.mgStale (cell / 256) (.ovr e) (.ovrCancel e)).mgSend (cell / 256)
      (mgWrite (cell % 256) Reg.CN_SW_OVR [w32 (was / 4096), w32 b] (.ovr e)))))
  ∧ (∀ s : State, s.vp.runs = true → s.vp.timeAt ≠ 0 → s.vp.timeGot ≠ s.vp.timeNeed →
    exec .timeChangeConfirmTimeout s = .next (s.after ((ringIds.filter (fun m => s.vp.ringSt m == 3)).foldl (fun v m =>
        (v.mgStale m .timeChange .timeCancel).mgSend m
          { mgWrite 0 Reg.CN_TIME_CHG_AT [0] .timeCancel with bcast := true })
        { s.vp with timeAt := 0, timeNeed := 0, timeGot := 0 })))
  ∧ (∀ (s : State) (m e : Nat) (w : Word), s.vp.runs = true → e < 64 → s.vp.accepts m (Reg.ARM_OVR e) w = true →
    let old := s.vp.reg (Reg.ARM_OVR e)
    let v := s.vp.setReg (Reg.ARM_OVR e) (w32 (fld w 0 14))
    (fld w 12 2 = 0 → fld old 12 2 = 0 → exec (.armOvrWrite m e w) s = .next (s.after v))
    ∧ (fld w 12 2 = 0 → fld old 12 2 ≠ 0 → exec (.armOvrWrite m e w) s = .next (s.after (v.ovrSend e (fld old 0 12) 0)))
    ∧ (fld w 12 2 ≠ 0 → fld old 12 2 = 0 ∨ fld old 0 12 = fld w 0 12 →
      exec (.armOvrWrite m e w) s = .next (s.after (v.ovrSend e (fld w 0 12) (fld w 12 2))))
    ∧ (fld w 12 2 ≠ 0 → fld old 12 2 ≠ 0 → fld old 0 12 ≠ fld w 0 12 →
      exec (.armOvrWrite m e w) s = .next (s.after ((v.ovrSend (64 + e) (fld old 0 12) 0).ovrSend e (fld w 0 12) (fld w 12 2)))))
  ∧ (∀ (v : Vp) (e cell action : Nat),
    let b := nameBoundary (v.frameNo + 3)
    let u := v.ovrSend e cell action
    sget (fun _ => 0) u.ovrAt e = b ∧ (b = v.frameNo + 3 ∨ b = v.frameNo + 4) ∧ b % 2 ^ 32 ≠ 0)
  ∧ (∀ (s : State) (m : Nat) (w : Word), s.vp.runs = true → s.vp.accepts m Reg.ARM_DEC_TIME_CLR w = true →
    exec (.armDecTimeClr m w) s = .next (s.after (s.vp.setReg Reg.ARM_DEC_TIME 0)))

/-- The hash of a cell is computed bit for bit as R53 lays down, and the hashes of all cells that share a chip index are
distinct in every frame. -/
def Obligations.CellHashes : Prop :=
  (∀ node frame : Nat, node < 2 ^ 18 →
    let s := BitVec.ofNat 18 frame ^^^ BitVec.ofNat 18 (frame / 2 ^ 18)
    let x := BitVec.ofNat 16 ((BitVec.ofNat 18 node ^^^ s).toNat * 40503)
    hash node frame = (x ^^^ (x >>> 7)).toNat)
  ∧ (∀ (chip frame m p n q : Nat), m < 16 → n < 16 → p < 256 → q < 256 → (m, p) ≠ (n, q) →
    hash (nodeId chip m p) frame ≠ hash (nodeId chip n q) frame)

/-- Whatever the codes and hashes of the candidates, exactly K candidates insert under the record that the engine encodes,
and they come before every other candidate in the insertion order (R51, R52, R59). -/
def Obligations.ExactCount : Prop :=
  ∀ (dir : Bool) (cs : List Cand) (k h seq ksel : Nat), k ≤ cs.length → (cs.map (·.h)).Nodup →
    (∀ c ∈ cs, c.code < 1024 ∧ c.h < 65536) →
    let w := encodeRecord dir cs k 0 h seq ksel false none
    let ins := fun c => recCmd w.1 w.2.2 c == 2
    (cs.filter ins).length = k ∧ ∀ a ∈ cs, ∀ b ∈ cs, ins a = true → ins b = false → before dir a b = true

/-- With TRIM_EN, the held cells, K and the trim duty make up the level exactly, unless the level is short; K never exceeds
the candidates; and the level is not short when the candidates suffice (R50). -/
def Obligations.LevelSplit : Prop :=
  ∀ (l cells h dHeld ncand : Nat) (fixed : Bool),
    let v := levelOf l cells h dHeld ncand true fixed
    (v.short = false → h * 65536 + dHeld + v.k * 65536 + v.d = l) ∧ v.k ≤ ncand ∧ v.d < 65536
    ∧ (l ≤ cells * 65536 → h * 65536 + dHeld ≤ l → (l - (h * 65536 + dHeld)) / 65536 < ncand → v.short = false)

/-! ### The scheduler -/

/-- The commands of the work scheduler on a master that acts: posts, completion, exceptions, the watchdog, locks, the
configuration of items, and halting and resuming of cores (R261, R262, R265, R268, R275, R278, R279, R281). -/
def Obligations.SchedulerEvents : Prop :=
  (∀ (s : State) (m : Nat) (w : Word), s.vp.runs = true → s.vp.accepts m Reg.SCHED_POST w = true →
    exec (.schedPost m w) s = .next (s.after (s.vp.post (.post m (fld w 0 12)))))
  ∧ (∀ (s : State) (k : Nat), s.vp.runs = true → k < 16 → s.vp.accepts k Reg.SCHED_SELF_DONE 0 = true →
    exec (.selfDone k) s = .next (s.after (s.vp.post (.complete k))))
  ∧ (∀ (s : State) (k w : Nat) (r : List Nat) (cause pc val : Word), s.vp.runs = true → k < 16 →
    s.vp.masterActs k = true → s.vp.stack k = w :: r →
    let v := ((s.vp.setReg (Reg.SCHED_CORE_EXC_CAUSE k) cause).setReg (Reg.SCHED_CORE_EXC_PC k) pc).setReg
      (Reg.SCHED_CORE_EXC_VAL k) val
    let v := (v.setFld (Reg.SCHED_CORE_EXC_WI k) 0 12 w).addFld (Reg.SCHED_CORE_EXC_WI k) 16 16 1
    let v := (v.setBit Reg.SCHED_STICKY 2 true).wakeItem 7 k w
    let v := v.setStack k ((v.stack k).drop 1)
    let v := (v.setBit (Reg.SCHED_WI_CFG w) 0 false).setWiState w 4
    let v := ((v.setBit (Reg.SCHED_WI_STAT w) 3 false).setFld (Reg.SCHED_WI_STAT w) 9 2 0).setBit (Reg.SCHED_WI_STAT w) 11 true
    let v := { v with sched := { v.sched with merged := sset (fun _ => 0) v.sched.merged w 0 } }
    exec (.coreException k cause pc val) s = .next (s.after ((v.raiseAll 3 k [{ Cond.own 3 4 unc pc.toNat with master := k }]).takeNext k)))
  ∧ (∀ (s : State) (w : Nat), s.vp.runs = true → s.vp.sched.wdogDue.contains w = true →
    let u := { s.vp with sched := { s.vp.sched with wdogDue := s.vp.sched.wdogDue.filter (· != w) } }
    let k := u.lastCore w
    let was := u.fld (Reg.SCHED_WI_STAT w) 9 2
    let o := (((u.inc Reg.SCHED_OVR_CNT).setBit Reg.SCHED_STICKY 1 true).setFld (Reg.SCHED_WI_STAT w) 9 2 (min (was + 1) 3)).wakeItem 6 k w
    let c := { Cond.own 3 5 unc (Reg.SCHED_WI_STAT w) with master := k }
    let runs := cores.any (fun k => (s.vp.stack k).contains w) = true ∧ s.vp.bit (Reg.SCHED_WI_CFG w) 5 = true
    (¬ runs → exec (.itemWatchdogOverrun w) s = .next (s.after u))
    ∧ (runs → exec (.itemWatchdogOverrun w) s = .next (s.after (if was = 0 then o.raiseAll 3 k [c]
        else if was = 2 then o.raiseAll 3 k [{ c with cause := 6, cls := fat }] else o))))
  ∧ (∀ (s : State) (m j : Nat), s.vp.runs = true → s.vp.masterActs m = true →
    exec (.schedLockRead m j) s = .next (s.after { s.vp with
      sched := { s.vp.sched with locks := putBit s.vp.sched.locks j true }
      lastRead := w32 (b2n (s.vp.sched.locks.testBit j)) })
    ∧ exec (.schedLockWrite m j) s = .next (s.after { s.vp with
      sched := { s.vp.sched with locks := putBit s.vp.sched.locks j false } }))
  ∧ (∀ (s : State) (m w : Nat) (x : Word), s.vp.runs = true → w < 4096 →
    (s.vp.accepts m (Reg.SCHED_WI_CFG w) x = true →
      let c := x &&& w32 0xFFFFFF7F
      let v := (s.vp.setReg (Reg.SCHED_WI_CFG w) c)
      let v := v.setReg Reg.SCHED_AFF_CNT (w32 (v.affOthers w + b2n (bit c 4)))
      let refused := s.vp.wiRefused w c (s.vp.reg (Reg.SCHED_WI_ENTRY w))
      (refused = false → bit c 0 = true → s.vp.wiState w = 4 → exec (.wiCfgWrite m w false x) s = .next (s.after
          (((v.setBit (Reg.SCHED_WI_STAT w) 11 false).setBit (Reg.SCHED_WI_STAT w) 12 false).setWiState w 0)))
      ∧ (refused = false → bit c 0 = true → s.vp.wiState w = 0 ∨ s.vp.wiState w = 2 ∨ s.vp.wiState w = 3 →
        exec (.wiCfgWrite m w false x) s = .next (s.after
          ((v.setBit (Reg.SCHED_WI_STAT w) 11 false).setBit (Reg.SCHED_WI_STAT w) 12 false)))
      ∧ (refused = false → bit c 0 = true → s.vp.wiState w = 1 →
        let u := (v.setBit (Reg.SCHED_WI_STAT w) 11 false).setBit (Reg.SCHED_WI_STAT w) 12 false
        exec (.wiCfgWrite m w false x) s = .next (s.after ((if fld (s.vp.reg (Reg.SCHED_WI_CFG w)) 1 3 ≠ fld c 1 3 then
          { u with sched := { u.sched with ready := u.sched.ready.filter (· != w) ++ [w] } } else u).checkNoCore w)))
      ∧ (refused = false → bit c 0 = false → s.vp.wiState w = 0 →
        exec (.wiCfgWrite m w false x) s = .next (s.after (v.setWiState w 4)))
      ∧ (refused = false → bit c 0 = false → s.vp.wiState w = 1 → exec (.wiCfgWrite m w false x) s = .next (s.after
          { v.setWiState w 4 with sched := { v.sched with
              ready := v.sched.ready.filter (· != w), merged := sset (fun _ => 0) v.sched.merged w 0 } }))
      ∧ (refused = false → bit c 0 = false → 2 ≤ s.vp.wiState w → exec (.wiCfgWrite m w false x) s = .next (s.after
          { v.setBit (Reg.SCHED_WI_STAT w) 3 false with sched := { v.sched with
              merged := sset (fun _ => 0) v.sched.merged w 0 } })))
    ∧ (s.vp.accepts m (Reg.SCHED_WI_ENTRY w) x = true →
      let e := x &&& w32 (regMask (Reg.SCHED_WI_ENTRY w))
      exec (.wiCfgWrite m w true x) s = .next (s.after (
        if s.vp.wiRefused w (s.vp.reg (Reg.SCHED_WI_CFG w)) e then s.vp.setBit Reg.SCHED_STICKY 5 true
        else s.vp.setReg (Reg.SCHED_WI_ENTRY w) e)))
    ∧ (∀ entry, let a := if entry then Reg.SCHED_WI_ENTRY w else Reg.SCHED_WI_CFG w
      s.vp.masterActs m = true → s.vp.sealOpen = true → s.vp.launched = false → s.vp.domOn (accessDom m a) = true →
      (if entry then s.vp.wiRefused w (s.vp.reg (Reg.SCHED_WI_CFG w)) x
        else s.vp.wiRefused w x (s.vp.reg (Reg.SCHED_WI_ENTRY w))) = true →
      exec (.wiCfgWrite m w entry x) s = .next (s.after (s.vp.setBit Reg.SCHED_STICKY 5 true))))
  ∧ (∀ (s : State) (k : Nat), s.vp.runs = true → s.vp.debugOn = true → k < 16 → s.vp.sched.removed.testBit k = false →
    exec (.debugHalt k) s = .next (s.after (s.vp.sched.ready.foldl Vp.checkNoCore { s.vp with
      sched := { s.vp.sched with halted := putBit s.vp.sched.halted k true } })))
  ∧ (∀ (s : State) (k : Nat), s.vp.runs = true → s.vp.debugOn = true → s.vp.sched.halted.testBit k = true →
    let v := { s.vp with sched := { s.vp.sched with halted := putBit s.vp.sched.halted k false } }
    let u := v.sched.ready.foldl Vp.checkNoCore v
    exec (.debugResume k) s = .next (s.after ((cores.filter (fun k => u.present k && (u.stack k).isEmpty)).foldl
      (fun v k => v.post (.take k)) u)))

/-- Inputs that arrive together are taken in the order of their ranks, those of one rank in the order in which they came, and
none is lost or added (R270); what a post does in each state of its item (R269). -/
def Obligations.SchedulerInputs : Prop :=
  (∀ l : List Input,
    (orderInputs l).Perm l ∧ (orderInputs l).Pairwise (fun a b => a.rank ≤ b.rank)
    ∧ ∀ r, (orderInputs l).filter (fun a => a.rank == r) = l.filter (fun a => a.rank == r))
  ∧ (∀ (v : Vp) (w ev src : Nat),
    let u := v.inc Reg.SCHED_POST_CNT
    let on := u.bit (Reg.SCHED_WI_CFG w) 0
    (on = true → u.wiState w = 0 → v.postItem w ev src = (u.makeReady w ev src).place w)
    ∧ (on = true → u.wiState w = 1 → v.postItem w ev src = u.coalesce w ev src)
    ∧ (on = true → u.wiState w = 2 ∨ u.wiState w = 3 → (u.coalesce w ev src).bit (Reg.SCHED_WI_STAT w) 3 = true →
        (u.coalesce w ev src).bit (Reg.SCHED_WI_CFG w) 5 = false → v.postItem w ev src = u.coalesce w ev src)
    ∧ (on = false → v.postItem w ev src
        = ((u.wake 9 (u.prio w) 31 w ev src).inc Reg.SCHED_DROP_CNT).setBit Reg.SCHED_STICKY 6 true)
    ∧ (u.coalesce w ev src).sched.ready = v.sched.ready
    ∧ (u.makeReady w ev src).sched.ready = v.sched.ready ++ [w])

/-- An item that becomes ready is dispatched on the lowest idle core for which it is eligible; with none idle it pre-empts on
the eligible core whose top item has the lowest priority, below its own, the lowest such core (R272). -/
def Obligations.Placement : Prop :=
  ∀ (v : Vp) (w : Nat),
    (∀ k, cores.find? (fun k => v.eligible w k && (v.stack k).isEmpty) = some k → v.place w = v.dispatch k w
      ∧ k < 16 ∧ v.eligible w k = true ∧ v.stack k = []
      ∧ ∀ j, j < k → v.eligible w j = true → v.stack j ≠ [])
    ∧ (∀ k, cores.find? (fun k => v.eligible w k && (v.stack k).isEmpty) = none → v.victim w = some k →
      v.place w = v.preempt k w
      ∧ ∃ t r, v.stack k = t :: r ∧ k < 16 ∧ v.eligible w k = true ∧ v.prio w < v.prio t
        ∧ ∀ j u q, j < 16 → v.stack j = u :: q → v.eligible w j = true → v.prio u ≤ v.prio t
          ∧ (v.prio u = v.prio t → v.prio w < v.prio u → k ≤ j))

/-! ### Rings at the valve processor -/

/-- What reaches the valve processor on a ring, and what it sends: copies of its trains, reports, management packets, their
requests and their retries (R134, R137 to R140, R145, R210); and the retraining and closing of hops by its own timer, by
command, and when a close is not confirmed (R153). -/
def Obligations.RingEvents : Prop :=
  ((∀ (s : State) (m : Nat) (up wr crcOk : Bool) (t hop errs sent : Nat), s.vp.runs = true → s.vp.ringUp m = true →
    (exec (.trainCopyReturn m up wr t hop false crcOk errs sent) s = .next (s.after (s.vp.blockErrs m (errs + 1))))
    ∧ (let key := 2 * b2n up + b2n wr
      let v := s.vp.blockErrs m errs
      let v := if crcOk then v
        else (v.addFld (Reg.RING_CRC_CNT m) 0 16 1).raiseAll 6 m [ringCond 2 cor (Reg.RING_CRC_CNT m)]
      let u := v.updRing m (fun r => { r with copies := sput key { t := t, hop := hop } r.copies })
      let f : Rfh := { up := up, wrapped := wr, t := t, first := (u.ring m).rfhOwn.isEmpty, sent := sent,
                       held := sget (fun _ => 0) (u.ring m).copyHeld key }
      (s.vp.decided = true → exec (.trainCopyReturn m up wr t hop true crcOk errs sent) s = .next (s.after v))
      ∧ (s.vp.decided = false → exec (.trainCopyReturn m up wr t hop true crcOk errs sent) s = .next (s.after (
        if !u.ringUp m || !u.pairMode || u.txOff then u
        else (u.updRing m (fun r => { r with rfhOwn := r.rfhOwn ++ [f] })).peerSend (.rfh m f))))))
  ∧ (∀ (s : State) (m p arr slot : Nat) (up wr : Bool), s.vp.runs = true → s.vp.ringUp m = true → p < s.vp.ncell m →
    let cell := 256 * m + p
    let v := s.vp.updRing m (fun r => { r with seen := putBit r.seen p true })
    let good := crc16Ok slot (nodeId v.chip m p) v.frameNo
    let key := 2 * b2n up + b2n wr
    let u := (v.updRing m (fun r => { r with
      copyHeld := sset (fun _ => 0) r.copyHeld key (putBit (sget (fun _ => 0) r.copyHeld key) p true) })).setCf cell 8 (b2n up) 1 1
    (good = false → exec (.reportReceived m p up wr arr slot) s = .next (s.after ((((((v.addFld (Reg.RING_CRC_CNT m) 16 16 1).incCw
        cell 10).setCf cell 8 4 1 1).updRing m (fun r => { r with crcBad := putBit r.crcBad p true })).forward m p))))
    ∧ (good = true → u.holds cell = true → (sget (fun _ => {}) u.held cell).val = slot →
      exec (.reportReceived m p up wr arr slot) s = .next (s.after (u.forward m p)))
    ∧ (good = true → u.holds cell = true → (sget (fun _ => {}) u.held cell).val ≠ slot →
      exec (.reportReceived m p up wr arr slot) s = .next (s.after ((u.copyDiffers m cell).forward m p)))
    ∧ (good = true → u.holds cell = false →
      let x := u.firstCopy m p arr slot
      let x := if !x.pairMode && (sget (fun _ => {}) x.held cell).inTime && repState slot == 4 then x.retAdd cell else x
      exec (.reportReceived m p up wr arr slot) s = .next (s.after (x.forward m p))))
  ∧ (∀ (v : Vp) (m p : Nat), v.pairMode = false → v.forward m p = v)
  ∧ (∀ (s : State) (k : Nat) (w : Word), s.vp.runs = true → s.vp.accepts k Reg.RING_MG_GO w = true →
    let v := s.vp
    let q := (v.reg Reg.RING_MG_REQ0).toNat
    let m := q % 16
    let len := v.fld Reg.RING_MG_REQ1 0 7
    let odd := v.bit Reg.RING_MG_REQ1 7
    let p : MgPkt := { dest := q / 2 ^ 4 % 256, bcast := q.testBit 12, opc := q / 2 ^ 13 % 8, addr := q / 2 ^ 16 % 65536,
                       words := (List.range (2 * len - b2n odd)).map (fun i => v.reg (Reg.RING_MG_BUF i)), odd := odd,
                       first := v.bit Reg.RING_MG_REQ1 8, use := .user }
    let ok := 1 ≤ len ∧ len ≤ 64 ∧ p.opc < 5 ∧ (p.opc = 0 → p.bcast = false) ∧ (p.bcast = false → p.dest < v.ncell m)
      ∧ v.ringUp m = true ∧ v.mgForward m p = true
    (v.bit Reg.RING_MG_STAT 0 = true → exec (.mgRequestGo k w) s = .next (s.after v))
    ∧ (v.bit Reg.RING_MG_STAT 0 = false → ok →
      exec (.mgRequestGo k w) s = .next (s.after ((v.setReg Reg.RING_MG_STAT 1).mgSend m p)))
    ∧ (v.bit Reg.RING_MG_STAT 0 = false → ¬ ok →
      exec (.mgRequestGo k w) s = .next (s.after (v.setReg Reg.RING_MG_STAT (w32 0x300)))))
  ∧ (∀ (v : Vp) (m : Nat) (p : MgPkt),
    let r := v.ring m
    ((r.mg.lookup r.mgTag).isSome = true → v.mgSend m p = v.setRing m { r with mgWait := r.mgWait ++ [p] })
    ∧ ((r.mg.lookup r.mgTag).isSome = false →
      let k := v.mgForm m r.mgTag p
      let u := v.setRing m { r with mg := sput r.mgTag k r.mg, mgTag := (r.mgTag + 1) % 256 }
      k.out = packetBlocks (mgsContent p.dest p.bcast p.opc p.first p.odd v.isB p.addr ((p.blockWords.length + 1) / 2) r.mgTag)
          p.blockWords
      ∧ v.mgSend m p = if k.byPeer then u.peerSend (.packet m k.out) else u))
  ∧ (∀ (s : State) (m tag st resp errs : Nat) (data : List Word), s.vp.runs = true →
    (exec (.mgPacketReturn m tag st resp data false errs) s = .next (s.after (s.vp.blockErrs m (errs + 1))))
    ∧ ((s.vp.ring m).mg.lookup tag = none →
      exec (.mgPacketReturn m tag st resp data true errs) s = .next (s.after (s.vp.blockErrs m errs)))
    ∧ (∀ p, (s.vp.ring m).mg.lookup tag = some p →
      let v := s.vp.blockErrs m errs
      let r := if p.status = 0 ∧ p.resp = 0 then resp else joinResp (v.fld (Reg.RING_STATE m) 2 3) p.resp resp
      let q := { p with status := max p.status st, resp := r, await := p.await - 1 }
      let x := (v.updRing m (fun r => { r with mg := sdel tag r.mg })).mgRecord m tag q q.status false
      let y := x.mgFinish m q q.status data
      (1 < p.await → exec (.mgPacketReturn m tag st resp data true errs) s
        = .next (s.after (v.updRing m (fun r => { r with mg := sput tag q r.mg }))))
      ∧ (p.await ≤ 1 → q.status ≠ 0 → q.status ≠ 4 → exec (.mgPacketReturn m tag st resp data true errs) s
        = .next (s.after (match (y.ring m).mgWait with
          | [] => y
          | w :: ws => (y.updRing m (fun r => { r with mgWait := ws })).mgSend m w)))
      ∧ (p.await ≤ 1 → q.status = 0 ∨ q.status = 4 → p.tries < v.fld Reg.RING_MG_CFG 0 3 →
        exec (.mgPacketReturn m tag st resp data true errs) s = .next (s.after (v.updRing m (fun r => { r with
          mg := sput tag { q with tries := p.tries + 1, await := v.mgCopies m q, status := 0, resp := 0 } r.mg }))))
      ∧ (p.await ≤ 1 → q.status = 0 ∨ q.status = 4 → v.fld Reg.RING_MG_CFG 0 3 ≤ p.tries →
        exec (.mgPacketReturn m tag st resp data true errs) s = .next (s.after (v.mgEnd m tag q q.status true [])))))
  ∧ (∀ (s : State) (m tag : Nat) (p : MgPkt), s.vp.runs = true → (s.vp.ring m).mg.lookup tag = some p →
    (p.tries < s.vp.fld Reg.RING_MG_CFG 0 3 →
      exec (.mgRetryTimeout m tag) s = .next (s.after (s.vp.updRing m (fun r => { r with
        mg := sput tag { p with tries := p.tries + 1, await := s.vp.mgCopies m p, status := 0, resp := 0 } r.mg }))))
    ∧ (s.vp.fld Reg.RING_MG_CFG 0 3 ≤ p.tries →
      exec (.mgRetryTimeout m tag) s = .next (s.after (s.vp.mgEnd m tag p p.status true [])))))
  ∧ ((∀ (s : State) (m h : Nat), s.vp.runs = true →
    let x := s.vp.hop m h
    x.broken = true → x.started = false → x.closeAt = 0 → x.check = 0 → s.vp.mayTrain m = true → h ≤ s.vp.ncell m →
    exec (.retrainAttempt m h) s = .next (s.after ((((s.vp.updHop m h (fun s => { s with near := false, far := false })).addFld (Reg.RING_RETRY m) 0 16 1).hopStart
        m h false).hopStart m h true)))
  ∧ (∀ (s : State) (m r : Nat) (w : Word), s.vp.runs = true → r < 16 → s.vp.accepts m (Reg.RING_CTL r) w = true →
    let u := if bit w 0 then ((s.vp.ring r).hops.filter (fun p => p.2.broken && !p.2.trained)).foldl (fun v p => v.retrain r p.1) s.vp
      else s.vp
    let x := if bit w 1 then ((u.ring r).hops.filter (fun p => p.2.broken && p.2.trained)).foldl (fun v p => v.closeRequest r p.1) u
      else u
    exec (.retrainNow m r w) s = .next (s.after x) ∧ exec (.closeNow m r w) s = .next (s.after x))
  ∧ (∀ (s : State) (m h : Nat), s.vp.runs = true → (s.vp.hop m h).closeAt ≠ 0 →
    (s.vp.hop m h).got < (s.vp.hop m h).need →
    let u := s.vp.setBit (Reg.RING_STICKY m) 9 true
    exec (.closeConfirmTimeout m h) s = .next (s.after (((u.hopEnds m h).foldl (fun v e => v.mgSend m (mgWrite e.1 Reg.CN_LANE_CLOSE_CTL [0] (.closeCancel h))) u).closeHop
        m h))))

/-! ### Trips -/

/-- The sources of a trip and what they bring about (R142, R415, R416); a recognised trip leaves every arm engine blocked and
no staged bundle that holds a DEBLOCK (R41, R380). -/
def Obligations.TripEvents : Prop :=
  ((∀ (s : State) (i : Nat), s.vp.runs = true → i < 4 → s.vp.trip.pins.testBit i = false →
    s.vp.bit Reg.RING_TRIP_EN i = true →
    exec (.tripInputActive i) s = .next (s.after (({ s.vp with trip := { s.vp.trip with pins := putBit s.vp.trip.pins i true } }).tripOwn 0)))
  ∧ (∀ (s : State) (i : Nat), s.vp.runs = true → i < 4 →
    exec (.tripInputRelease i) s = .next (s.after (({ s.vp with trip := { s.vp.trip with pins := putBit s.vp.trip.pins i false } }).tripSync)))
  ∧ (∀ s : State, s.vp.runs = true → s.vp.tripSrc = 0 → s.vp.fatal = false →
    exec .tripOutRelease s = .next (s.after { s.vp with trip := { s.vp.trip with out := false } }))
  ∧ (∀ (s : State) (m : Nat) (w : Word), s.vp.runs = true → s.vp.accepts m Reg.RING_URG_CMD w = true → bit w 0 = true →
    fld w 16 16 = 0xA5 →
    exec (.ringUrgCmdSend m w) s = .next (s.after (({ s.vp with trip := { s.vp.trip with out := true } }).tripOwn 32)))
  ∧ (∀ (s : State) (src : Nat), s.vp.runs = true → s.vp.paired = false →
    exec (.tripMessageReceived src false) s = .next (s.after s.vp)))
  ∧ (∀ (v : Vp) (extra : Nat),
    let u := v.tripNow extra
    (∀ k, k < 12 → (u.arm k).running = false) ∧ (∀ b ∈ u.host.staged, b.deblocks = false))

/-! ### Lanes -/

/-- A loss declared on an Active receiver is shown, counted, raises its fault, and takes a receiver at a training stage back
to the signal stage; a bit error ratio that is too high is shown and raises its own; both clear with their conditions (R170).
A window counts the errors of the pattern checker and adapts each coefficient that is due; one whose data density is too low
adapts nothing and sets its flag (that it sets none with adaptation switched off is the model's choice, log entry 121); a
measurement of the eye is shown and counted; the second low one in a row raises EYE and starts fast re-adaptation, which ends
after its time (R166, R168, R169, R187). -/
def Obligations.LaneLosses : Prop :=
  (∀ (s : State) (l : LaneRef), s.laneOn l = true → (s.lane l).rx = 0 →
    let x := s.lane l
    let lost := fun (x : Lane) (b sticky : Nat) =>
      let y := (x.setStat b false).stick sticky
      let z := { y with los := setFld y.los 0 16 (fld y.los 0 16 + 1) }
      if 2 ≤ z.trn ∧ z.trn ≤ 5 then { z.setTrn 1 with st := { z.st with back5 := z.trn == 5 } } else z
    (x.on 0 = true → exec (.lossOfSignal l) s = .next (s.laneTo l (lost x 0 0) [3]))
    ∧ (x.on 1 = true → exec (.lossOfClockLock l) s = .next (s.laneTo l (lost x 1 1) [3]))
    ∧ (∀ n, x.on 2 = true →
      exec (.lossOfBlockLock l n) s = .next (s.laneTo l (lost { x with hdr := x.hdr + w32 n } 2 1) [3]))
    ∧ (∀ rows lat, x.good = false → x.training = false ∨ x.st.back5 = true →
      let a := if rows.testBit 0 then (x.setStat 0 true).setStat 1 true else x
      let b := if rows.testBit 1 && a.on 0 then a.setStat 1 true else a
      let y := if rows.testBit 2 && (b.on 0 && b.on 1) then b.setStat 2 true else b
      let took := (!(x.on 0 && x.on 1) && (y.on 0 && y.on 1)) || (!x.on 2 && y.on 2)
      let z := if took then { y with lat := laneLat l lat } else y
      let u := if z.on 11 then { z with coef0 := z.store0, coef1 := z.store1 } else z
      exec (.lossCleared l rows lat) s = .next (s.laneLock l (if z.good = false then z
        else if u.st.back5 then { u.setTrn 5 with st := { u.st with back5 := false } } else u) took lat.toNat))
    ∧ (∀ n, 16 ≤ n → x.on 3 = false → exec (.highBitErrorRate l n) s = .next (s.laneTo l
        (({ x with hdr := x.hdr + w32 n }.setStat 3 true).stick 2) [2]))
    ∧ (∀ n, 16 ≤ n → x.on 3 = true → exec (.highBitErrorRate l n) s = .next (s.laneTo l { x with hdr := x.hdr + w32 n } []))
    ∧ (∀ n, n < 16 → x.on 3 = true → exec (.hiBerCleared l n) s = .next (s.laneTo l
        ({ x with hdr := x.hdr + w32 n }.setStat 3 false) [])))
  ∧ (∀ (s : State) (l : LaneRef), s.laneOn l = true → (s.lane l).rx = 0 →
    let x := s.lane l
    (∀ dens dirs errs, x.trn = 0 ∨ x.trn = 5 →
      let p := if bit x.cfg 7 = true ∧ errs ≠ 0 then { x.stick 11 with prbs := w32 (min (x.prbs.toNat + errs) 0xFFFFFFFF) } else x
      let y := { p with st := { p.st with gaps := p.st.gaps.map (fun q : Nat × Nat => (q.1, q.2 + 1)) } }
      let ok := decide (16 * fld x.rxcfg 8 8 ≤ dens)
      let u := (y.setStat 4 ok).setStat 5 (ok && bit x.rxcfg 0)
      exec (.adaptWindow l dens dirs errs) s = .next (s.laneTo l (if bit x.rxcfg 0 = false then u
        else if ok = false then u.stick 4
        else [0, 1, 2, 3, 4, 5].foldl (fun z k => z.step k (dirs.getD k 0)) u) []))
    ∧ (∀ h v, h < 256 → v < 256 → x.on 7 = false →
      let y := { x with eye := w32 (h + v * 2 ^ 8 + (fld x.eye 16 16 + 1) % 65536 * 2 ^ 16) }
      (fld (s.eyeCfg l) 0 8 < h → fld (s.eyeCfg l) 8 8 < v → exec (.eyeMeasurement l h v) s = .next (s.laneTo l
        { y with st := { y.st with low := 0, high := y.st.high + 1 } } []))
      ∧ (h < fld (s.eyeCfg l) 0 8 → 1 ≤ x.st.low → exec (.eyeMeasurement l h v) s = .next (s.laneTo l
        (((({ y with st := { y.st with low := y.st.low + 1, high := 0 } }).setStat 7 true).stick 3).setStat 6 true) [1])))
    ∧ exec (.fastReadaptEnd l) s = .next (s.laneTo l (x.setStat 6 false) []))

/-- Electrical idle and the deep state are entered with the coefficients stored and left with them restored, with the
sequences by which idle is entered, kept and left; a request of LANE_PWR is refused where R181 says so (R163, R167, R177 to
R181). -/
def Obligations.LanePower : Prop :=
  (∀ (s : State) (l : LaneRef), s.laneOn l = true →
    let x := s.lane l
    let woken := ((({ x.setRx 0 with coef0 := x.store0, coef1 := x.store1 }).setStat 0 true).setStat 1 true).setStat 2 true
    (x.rx = 0 → x.on 0 = false → exec (.deepEntry l) s = .next (s.laneTo l
      ((({ x with store0 := x.coef0, store1 := x.coef1 }).setStat 11 x.st.trained).setRx 2) []))
    ∧ (x.rx = 1 → x.on 0 = false → exec (.deepEntry l) s = .next (s.laneTo l (x.setRx 2) []))
    ∧ (∀ lat, x.rx = 2 → x.rxReq ≠ 2 →
      exec (.signalReturn l lat) s = .next (s.laneLock l { woken with lat := laneLat l lat } true lat.toNat))
    ∧ (∀ n, l = .vp n →
      (x.rx = 0 → x.trn = 0 ∨ x.trn = 5 → exec (.electricalIdleBurst n true 1) s = .next (s.laneTo l
        ((({ x with store0 := x.coef0, store1 := x.coef1 }).setStat 11 x.st.trained).setRx 1) []))
      ∧ (∀ stage, x.tx = 1 → exec (.electricalIdleBurst n false stage) s = .next (s.laneTo l
        (x.send 128 (s.vp.idleTrain n 2)) []))
      ∧ (x.rx = 1 → x.rxReq ≠ 1 → exec (.electricalIdleExit n true) s = .next (s.laneTo l woken []))
      ∧ (x.tx = 1 → x.txReq ≠ 1 → exec (.electricalIdleExit n false) s = .next (s.laneTo l
        ((x.setTx 0).send 60 (s.vp.idleTrain n 3)) []))
      ∧ (x.rx = 1 →
        let y := ((x.setStat 0 false).stick 0).stick 7
        exec (.eiLost n) s = .next (s.laneTo l { y with los := setFld y.los 0 16 (fld y.los 0 16 + 1) } [3, 5]))))
  ∧ (∀ (s : State) (m l : Nat) (w : Word), s.vp.runs = true → l < 40 →
    (s.vp.accepts m (Reg.LANE_PWR l) w = true → exec (.lanePwrRequest m l w) s = .next (s.after
      ((s.vp.setFld (Reg.LANE_PWR l) 0 4 (fld w 0 4)).laneSync l)))
    ∧ (∀ x : Lane, x.rxReq = 3 → x.rx ≠ 3 → (s.vp.rxSync l x).rx = 3 ∧ (s.vp.rxSync l x).stat = x.stat &&& w32 0x800)
    ∧ (∀ x : Lane, x.rxReq = 2 → x.rx ≠ 2 → (s.vp.rxSync l x).rx = 2)
    ∧ (∀ x : Lane, x.txReq = 1 → x.tx ≠ 1 → s.vp.quadOk l = true →
      s.vp.txSync l x = (x.send 8 (s.vp.idleTrain l 1)).setTx 1)
    ∧ (s.vp.masterActs m = true → s.vp.sealOpen = true → s.vp.launched = false →
      s.vp.domOn (accessDom m (Reg.LANE_PWR l)) = true → s.vp.lanePwrRefused l w = true →
      exec (.lanePwrRequest m l w) s = .next (s.after (s.vp.setBit (Reg.LANE_STICKY l) 8 true))))

/-- The stages of a lane's training: signal, lock, adaptation; a lock that is lost takes it back to the signal stage, and the
TRAIN blocks sent back follow the receiver (R163, R171 to R173, R175). The alignment markers of the peer bundle: their number
counts on; a lane of ACTIVE that is no longer clear leaves it with its fault, and one clear at two markers joins; what the
partner reports is shown (R183, R184). -/
def Obligations.LaneStages : Prop :=
  ((∀ (s : State) (l : Nat) (c0 c1 lat : Word), s.laneOn (.vp l) = true → (s.vp.lane l).rx ≠ 3 →
    let x := s.vp.lane l
    let c0' := c0 &&& w32 0x3F3F3F1F
    let done := fun (lost : Bool) (y : Lane) =>
      let v := s.vp.setLane l y
      let v := if 36 ≤ l ∧ l < 40 then v.pqSync else v
      exec (.trainStageDone (.vp l) lost c0 c1 lat) s = .next (s.after
        (if l < 32 ∧ (v.lane l).training = true then v.hopTrain (l / 2) (l % 2 == 0) 1 (v.rxReady (l / 2) (l % 2 == 0)) false
         else v))
    (x.trn = 1 → done false { (((x.setStat 0 true).setStat 1 true).setTrn 2).setRx 0 with st := { x.st with back5 := false } })
    ∧ (x.trn = 2 → done false { (x.setStat 2 true).setTrn 3 with lat := vpLat l lat })
    ∧ (x.trn = 3 → done false { x.setTrn (if l < 32 then 4 else 5) with
        coef0 := if bit x.rxcfg 1 then setFld c0' 0 5 (fld x.rxcfg 2 5) else c0', coef1 := c1 &&& w32 0x3F3F
        st := { x.st with trained := decide (32 ≤ l) } })
    ∧ (2 ≤ x.trn → x.trn ≤ 5 → done true (({ x.setTrn 1 with st := { x.st with back5 := x.trn == 5 } }.setStat 1 false).setStat 2 false)))
  ∧ (∀ (s : State) (k : CellRef) (i : Nat) (c0 c1 lat : Word), (s.cell k).clamped = false → i < 2 →
    ((s.cell k).lane i).rx ≠ 3 → ((s.cell k).lane i).trn = 1 →
    let x := (s.cell k).lane i
    let c := ((s.cell k).setLane i { (((x.setStat 0 true).setStat 1 true).setTrn 2).setRx 0 with st := { x.st with back5 := false } }).sync
    (c.lane i).training = true →
    exec (.trainStageDone (.cell k i) false c0 c1 lat) s = .next (s.setCell k (c.sendTrain (i == 1) 1 false).sync)))
  ∧ ((∀ s : State, s.vp.runs = true → s.vp.quadOk 36 = true →
    let v := s.vp
    let part := v.fld Reg.LANE_PEER_STAT 4 4
    let act := v.fld Reg.LANE_PEER_STAT 0 4
    let ok := fun i => v.bundleUp i && part.testBit i && (v.lane (36 + i)).good
    let count := fun i => if ok i then sget (fun _ => 0) v.lanes.clear i + 1 else 0
    let new := [0, 1, 2, 3].foldl (fun b i => putBit b i (ok i && (act.testBit i || decide (2 ≤ count i)))) 0
    let u := { v with lanes := { v.lanes with
      mseq := (v.lanes.mseq + 1) % 65536
      clear := [0, 1, 2, 3].foldl (fun l i => sset (fun _ => 0) l i (min 2 (count i))) v.lanes.clear
      dsk := ([0, 1, 2, 3].filter v.bundleUp).map (fun i => (i, dskContent i new v.rxOk v.lanes.mseq)) } }
    exec .dskMarkerSend s = .next (s.after ([0, 1, 2, 3].foldl (fun v i =>
      if act.testBit i && !new.testBit i then
        (v.setBit (Reg.LANE_STICKY (36 + i)) 10 true).laneFaults (36 + i) [fPeer] Reg.LANE_PEER_STAT
      else v) (u.setFld Reg.LANE_PEER_STAT 0 4 new))))
  ∧ (∀ s : State, s.vp.runs = true → s.vp.quadOk 36 = false → exec .dskMarkerSend s = .next (s.after s.vp))
  ∧ (∀ (s : State) (i c sk : Nat), s.vp.runs = true → i < 4 → s.vp.bundleUp i = true → crc8Ok c = true → c % 4 = i → sk ≤ 32 →
    let v := { s.vp with lanes := { s.vp.lanes with aligned := putBit 0 i true } }
    let v := ((v.setFld Reg.LANE_PEER_STAT 4 4 (c / 2 ^ 6 % 16)).setFld Reg.LANE_PEER_STAT 8 8 sk).setBit Reg.LANE_PEER_STAT 16
      (c / 2 ^ 2 % 16 &&& putBit 0 i true == c / 2 ^ 2 % 16)
    exec (.dskMarkerReceived [(i, c, sk)]) s = .next (s.after v)))

/-- The start of training of an end of a hop, the confirmation of an end, and a hop that is not trained in time, for a hop
between two cells and at the valve processor's end of hop 0 (R151, R153, R173, R176). -/
def Obligations.Hops : Prop :=
  (∀ (s : State) (m h : Nat), s.vp.runs = true → s.vp.calm = true → s.vp.mayTrain m = true → 0 < h → h < s.vp.ncell m → m < 16 →
    let v := s.vp
    let near : CellRef := ⟨m, h - 1⟩
    let far : CellRef := ⟨m, h⟩
    (s.cell near).clamped = false → (s.cell far).clamped = false →
    (v.ringSt m ≠ 0 →
      exec (.hopTrainStart m h false) s = .next ((({ s with vp := v.updHop m h (fun x => { x with started := true }) }).setCell
        near ((s.cell near).hopStart true)))
      ∧ exec (.hopTrainStart m h true) s = .next ((({ s with vp := v.updHop m h (fun x => { x with started := true }) }).setCell
        far ((s.cell far).hopStart false))))
    ∧ (∀ blk, (s.cell near).takesTrain true blk = true → (s.cell near).trainGood true blk = true →
      (v.hop m h).broken = false →
      exec (.hopConfirm m h false blk) s = .next ({ s with vp := v.updHop m h (fun x => { x with near := true }) }.setCell
        near ((s.cell near).hopConfirm true blk)))
    ∧ ((v.hop m h).started = true → (v.hop m h).trained = false →
      let wait := v.nextWait (v.hop m h)
      let u := v.updHop m h (fun x => { x with started := false, near := false, far := false, broken := true, wait := wait })
      exec (.hopTimeout m h) s = .next
        (({ s with vp := (u.setFld (Reg.RING_RETRY m) 16 16 wait).setBit (Reg.RING_STICKY m) 0 true }.setCell near
          ((s.cell near).hopBroken true)).setCell far ((s.cell far).hopBroken false))))
  ∧ (∀ (s : State) (m : Nat), s.vp.runs = true → s.vp.mayTrain m = true → s.vp.ringSt m ≠ 0 →
    s.vp.laneEn (2 * m + 1) = true → s.vp.quadOk (2 * m + 1) = true →
    let v := s.vp
    let r := 2 * m + 1
    let u := v.updHop m 0 (fun x => { x with started := true })
    let u := u.setLane r (u.lane r).trainStart
    exec (.hopTrainStart m 0 false) s = .next (s.after (u.hopTrain m false 1 (u.rxReady m false) false))
    ∧ (∀ blk, (v.lane r).trn = 4 → blk.testBit 2 = true → crc8Ok blk = true → trainOk blk true true (some (m, v.chip)) = true →
      (v.hop m 0).broken = false →
      exec (.hopConfirm m 0 false blk) s = .next (s.after
        (((v.setLane r (v.lane r).confirmed).hopTrain m false 16 true true).updHop m 0 (fun x => { x with near := true }))))
    ∧ (∀ blk, crc8Ok blk = false →
      exec (.hopConfirm m 0 false blk) s = .next (s.after (v.addFld (Reg.RING_CRC_CNT m) 0 16 1)))
    ∧ (∀ blk, (v.lane r).trn = 4 → blk.testBit 2 = true → crc8Ok blk = true → trainOk blk true true (some (m, v.chip)) = false →
      exec (.hopConfirm m 0 false blk) s = .next (s.after
        ((v.setLane r ((v.lane r).stick 6)).raiseAll 7 r [{ cause := 7, cls := unc, addr := Reg.LANE_STICKY r, access := 4,
                                                            master := 0x40 + r }]))))

/-! ### Time -/

/-- Measurements of the sources of time: one within its window is used, one beyond it starts a step while acquiring and is an
anomaly otherwise; edges of the pulse per second, and the pulse of PPS_OUT, to whose edge the model brings its clock (log
entry 20); and a source that stops (R195, R196, R201, R202, R206). -/
def Obligations.TimeSources : Prop :=
  (∀ (s : State) (src : Nat) (th : Int), s.vp.runs = true → s.vp.timeSrc = src → src < 3 → s.vp.timeState ≠ 0 →
    let v := s.vp
    let run := if th.natAbs ≤ v.win src then sget (fun _ => 0) v.time.run src + 1 else 0
    let u := v.setReg (ofsReg src) (satW th)
    let u := { u with time := { u.time with alive := sset (fun _ => false) u.time.alive src true
                                            run := sset (fun _ => 0) u.time.run src run } }
    (th.natAbs ≤ v.win src → exec (.timeMeasurement src th) s = .next (s.after (u.useMeas src th)))
    ∧ (v.win src < th.natAbs → v.timeState = 1 → exec (.timeMeasurement src th) s = .next (s.after (u.acquireStep th)))
    ∧ (v.win src < th.natAbs → v.timeState ≠ 1 → exec (.timeMeasurement src th) s = .next (s.after (u.anomaly src th))))
  ∧ (∀ (s : State) (stamp gap : Nat), s.vp.runs = true → s.vp.bit Reg.TIME_PPS_CFG 0 = true → 1000 ≤ gap →
    let x := ((stamp : Int) - sgn 32 (s.vp.reg Reg.TIME_PPS_IN_DLY).toNat) % 16000000000
    exec (.ppsEdge stamp gap) s = .next (s.after { s.vp with time := { s.vp.time with
      ppsHeld := some (if 8000000000 < x then (x - 16000000000) * 16 else x * 16), ppsAbsent := false } }))
  ∧ (∀ (s : State) (th : Int), s.vp.runs = true → s.vp.time.ppsHeld = some th →
    exec .ppsMeasurementDelivered s = .next (s.after
      ({ s.vp with time := { s.vp.time with ppsHeld := none } }.measure 1 th false)))
  ∧ (∀ s : State, s.vp.runs = true →
    let v := s.vp
    let ofs := sgn 32 (v.reg Reg.TIME_PPS_OUT_OFS).toNat * (nsUnit / 16 : Nat)
    let t := (max 0 (((v.tai : Int) + ofs + (secUnit - 1 : Nat)) / secUnit * secUnit - ofs)).toNat
    let t := if v.time.ppsRise = some t then t + secUnit else t
    let put := fun (v : Vp) (b : Bool) (r : Option Nat) => { v with time := { v.time with ppsOut := b, ppsRise := r } }
    (v.bit Reg.TIME_PPS_CFG 2 = true → v.timeState ≠ 0 →
      exec (.ppsOutPulse true) s = .next (s.after (put (v.advanceTo t) true (some t)))
      ∧ (∀ r, v.time.ppsOut = true → v.time.ppsRise = some r → exec (.ppsOutPulse false) s = .next (s.after
          (put (v.advanceTo (r + v.fld Reg.TIME_PPS_CFG 8 12 * 1000 * nsUnit)) false (some r)))))
    ∧ (v.bit Reg.TIME_PPS_CFG 2 = false ∨ v.timeState = 0 →
      ∀ high, exec (.ppsOutPulse high) s = .next (s.after (put v false v.time.ppsRise))))
  ∧ (∀ (s : State) (src : Nat), s.vp.runs = true → src < 3 →
    let u := { s.vp with time := { s.vp.time with alive := sset (fun _ => false) s.vp.time.alive src false
                                                  run := sset (fun _ => 0) s.vp.time.run src 0 } }
    (s.vp.timeSrc ≠ src → exec (.sourceTimeout src) s = .next (s.after u))
    ∧ (s.vp.timeSrc = src → (u.selectSrc u.bestSrc).timeSrc = 3 → (u.selectSrc u.bestSrc).timeState = 2 →
      exec (.sourceTimeout src) s = .next (s.after ((u.selectSrc u.bestSrc).enterState 3).holdInc)))

/-- Markers between partners, stamps and one-step insertions of PTP messages, and the setting of time: a marker sent at
millisecond ms of second t and stamped within 15 s of it is read as one of that second (R199, R200, R203, R204, R208). -/
def Obligations.TimeMarkers : Prop :=
  (∀ (s : State) (d : Nat), s.vp.runs = true → s.vp.bit Reg.TIME_PEER_CFG 0 = true → s.vp.txOff = false →
    s.vp.paired = false ∨ s.vp.bit Reg.TIME_PEER_CFG 1 = true ∨ s.vp.ready = true →
    let t := (s.vp.tai + 1000000 * nsUnit - 1) / (1000000 * nsUnit) * (1000000 * nsUnit)
    let t := if s.vp.time.ptmDue = some t then t + 1000000 * nsUnit else t
    let v := s.vp.advanceTo t
    (∀ i, i < 4 → (s.vp.fld Reg.LANE_PEER_STAT 0 4).testBit i = true →
        (∀ j, j < i → (s.vp.fld Reg.LANE_PEER_STAT 0 4).testBit j = false) →
      exec (.ptmSend d) s = .next (s.after { v with time := { v.time with
        ptm := v.ptmContent (min d 102), ptmDue := some t, ptmLane := i } }))
    ∧ (s.vp.fld Reg.LANE_PEER_STAT 0 4 = 0 → exec (.ptmSend d) s = .next (s.after s.vp)))
  ∧ (∀ (s : State) (c stamp t ms : Nat), s.vp.runs = true → s.vp.bit Reg.TIME_PEER_CFG 0 = true → crc8Ok c = true →
    c % 1024 = ms → ms < 1000 → c / 2 ^ 10 % 32 = t % 32 → c.testBit 15 = false →
    t * 16000000000 + ms * 16000000 ≤ stamp + 15 * 16000000000 →
    stamp ≤ t * 16000000000 + ms * 16000000 + 15 * 16000000000 →
    exec (.ptmReceived c stamp) s = .next (s.after { s.vp with time := { s.vp.time with
      res := some ((stamp : Int) - (t * 16000000000 + ms * 16000000 : Nat) - (c / 2 ^ 16 % 128 : Nat)) } }))
  ∧ (∀ (s : State) (m : Nat) (w : Word), s.vp.runs = true → s.vp.accepts m Reg.TIME_PTP_MEAS1 w = true →
    let v := s.vp.wideTake Reg.TIME_PTP_MEAS1
    let lo := (s.vp.wlatch.lookup Reg.TIME_PTP_MEAS0).getD (s.vp.reg Reg.TIME_PTP_MEAS0)
    v.reg Reg.TIME_PTP_MEAS0 = lo
    ∧ exec (.ptpMeasSubmit m w) s = .next (s.after (((v.setReg Reg.TIME_PTP_MEAS0 lo).setReg Reg.TIME_PTP_MEAS1 w).measure 0
      (sgn 64 (lo.toNat + w.toNat * 2 ^ 32)) false)))
  ∧ (∀ (s : State) (port mtype seq sec ns frac : Nat) (tx : Bool), s.vp.runs = true → s.vp.bit Reg.TIME_PTP_CFG 2 = true →
    s.vp.fld Reg.TIME_PTP_CFG 0 2 = port →
    let t := sec * secUnit + ns * nsUnit + frac
    let q := s.vp.time.tsq ++ [[w32 (port % 4 + b2n tx * 4 + mtype % 16 * 16 + seq % 65536 * 65536), w32 frac, w32 ns, w32 sec]]
    let p := if !tx && mtype % 16 == 2 then sput (seq % 65536) t s.vp.time.pdelay else s.vp.time.pdelay
    (tx = false ∨ s.vp.bit Reg.TIME_PTP_CFG 3 = false → s.vp.time.tsq.length < 64 →
      exec (.ptpEventMessage port tx mtype seq sec ns frac) s = .next (s.after
        ({ s.vp with time := { s.vp.time with pdelay := p, tsq := q } }.setFld Reg.TIME_TSQ_STAT 0 7 q.length)))
    ∧ (tx = false ∨ s.vp.bit Reg.TIME_PTP_CFG 3 = false → 64 ≤ s.vp.time.tsq.length →
      exec (.ptpEventMessage port tx mtype seq sec ns frac) s = .next (s.after
        (({ s.vp with time := { s.vp.time with pdelay := p } }.setBit Reg.TIME_STICKY 10 true).raise 2 0xFF 5 cor Reg.TIME_TSQ_STAT)))
    ∧ (tx = true → s.vp.bit Reg.TIME_PTP_CFG 3 = true →
      (mtype % 16 = 0 → exec (.ptpEventMessage port tx mtype seq sec ns frac) s = .next (s.after { s.vp with time := { s.vp.time with
        oneStep := some { mtype := 0, seq := seq % 65536, sec := secOf t, ns := nsOf t, turn := 0 } } }))
      ∧ (∀ r, mtype % 16 = 3 → s.vp.time.pdelay.lookup (seq % 65536) = some r →
        exec (.ptpEventMessage port tx mtype seq sec ns frac) s = .next (s.after { s.vp with time := { s.vp.time with
          oneStep := some { mtype := 3, seq := seq % 65536, sec := 0, ns := 0, turn := ((t : Int) - r) / 65536 } } }))
      ∧ (mtype % 16 ≠ 0 → mtype % 16 ≠ 3 → exec (.ptpEventMessage port tx mtype seq sec ns frac) s = .next (s.after s.vp))))
  ∧ (∀ (s : State) (m : Nat) (w : Word), s.vp.runs = true → s.vp.accepts m Reg.TIME_SET_CMD w = true → bit w 0 = true →
    fld w 16 16 = 0xA5 →
    let q := fun i => (s.vp.reg (Reg.TIME_SET i)).toNat
    (q 1 ≤ 999999999 → exec (.timeSetGo m w) s = .next (s.after
      (s.vp.timeStep (((q 2 + q 3 * 2 ^ 32) * secUnit + q 1 * nsUnit + q 0 : Nat) - (s.vp.tai : Int)))))
    ∧ (999999999 < q 1 → exec (.timeSetGo m w) s = .next (s.after
      ((s.vp.setBit Reg.TIME_STICKY 7 true).raise 2 0xFF 6 cor (Reg.TIME_SET 1)))))

/-! ### Resets, clocks and power -/

/-- What a power-on reset and a warm reset leave: every register at its reset value but those that the spec keeps; the
journal and the flash stand; the release of a warm reset and the lock of the root PLL start the management core (R456, R471,
R472). -/
def Obligations.Resets : Prop :=
  (∀ (s : State) (role : Bool), let u := s.vp.powerOn role
    exec (.powerOnReset role) s = .next (s.after u) ∧ u.runs = false ∧ u.boot.role = role ∧ u.jrnl = s.vp.jrnl
      ∧ u.flash = s.vp.flash ∧ u.mem = [] ∧ u.ret = [] ∧ u.launched = false
      ∧ ∀ a, a ≠ Reg.SYS_JRNL → a ≠ Reg.SYS_JRNL_SEQ → u.reg a = regReset a)
  ∧ (∀ s : State, s.vp.boot.run ≠ .warmHeld →
    let v := if s.vp.pairMode || s.vp.clk.lost then s.vp else s.vp.tripOwn 32
    let u := v.warmed
    exec .warmReset s = .next (s.after
      (if bit (v.reg Reg.BOOT_TRY) 0 then u.setReg Reg.BOOT_TRY (w32 (fld (v.reg Reg.BOOT_TRY) 0 2)) else u))
    ∧ u.runs = false ∧ u.jrnl = v.jrnl ∧ u.flash = v.flash ∧ u.ret = v.ret ∧ u.mem = [] ∧ u.tai = v.tai ∧ u.launched = false
    ∧ ∀ a, warmKept a = false → a ≠ Reg.SYS_JRNL → a ≠ Reg.TIME_STATE → a ≠ Reg.SYS_RST_CAUSE → u.reg a = regReset a)
  ∧ (∀ s : State, s.vp.boot.run = .warmHeld → s.vp.clk.locked = true → s.vp.clk.lost = false →
    exec .warmResetRelease s = .next (s.after
      ({ s.vp with boot := { s.vp.boot with run := .waitRoot, rel := s.vp.up } }.mcStart)))
  ∧ (∀ s : State, s.vp.clk.locked = false → s.vp.boot.run = .waitRoot →
    exec .rootPllLock s = .next (s.after ({ s.vp with clk := { s.vp.clk with
      locked := true, lost := false, origin := s.vp.up, outOrigin := s.vp.up } }.mcStart)))

/-- The PLLs of the valve processor and SYNC_IN: loss of the root PLL stops the transmitters and time, asserts FAIL_N and
TRIP_OUT_N and is fatal; a quad's loss and return reach its lanes; an armed edge of SYNC_IN counts and aligns (R188, R456,
R459, R460, R463). -/
def Obligations.Clocks : Prop :=
  (∀ s : State, s.vp.clk.locked = true → s.vp.clk.lost = false →
    let v := { s.vp with clk := { s.vp.clk with lost := true } }
    let v := (v.satFld Reg.CLK_LOSS_CNT 0 8).setFld Reg.TIME_STATE 0 3 0
    let v := { v with time := { v.time with ppsOut := false } }
    let v := { v with txOff := true, boot := { v.boot with failN := true }, trip := { v.trip with out := true } }
    exec (.pllLossOfLock .root false) s = .next (s.after (v.raise 1 0xFF 2 fat Reg.CLK_LOSS_CNT)))
  ∧ (∀ (s : State) (within : Bool), s.vp.clk.lost = true → s.vp.boot.run = .on →
    let v := { s.vp with clk := { s.vp.clk with lost := false } }
    exec (.pllRelock .root false within) s = .next (s.after (if within then v else v.setBit Reg.SYS_FATAL 15 true)))
  ∧ (∀ (s : State) (q : Nat), s.vp.runs = true → q < 10 →
    (exec (.pllLossOfLock (.quad q) false) s = .next (s.after
      ((laneIds.filter (fun l => quadOf l == q)).foldl (fun v l => v.setBit (Reg.LANE_STICKY l) 9 true)
        (s.vp.setBit Reg.LANE_QPLL_STAT q false))))
    ∧ (s.vp.bit Reg.LANE_QPLL_STAT q = false → s.vp.lanes.quadsGone.testBit q = false →
      (exec (.quadPllRelockTimeout q) s = .next (s.after (s.vp.raise 7 (0x40 + q) fQuad fat Reg.LANE_QPLL_STAT)))
      ∧ let u := s.vp.setBit Reg.LANE_QPLL_STAT q true
        exec (.pllRelock (.quad q) false true) s = .next (s.after
          ((laneIds.filter (fun l => quadOf l == q && u.laneEn l)).foldl (fun v l => v.setLane l (v.lane l).trainStart) u))))
  ∧ (∀ (s : State) (rising : Bool), s.vp.runs = true → s.vp.bit Reg.CLK_SYNC_CFG 1 = !rising →
    (s.vp.bit Reg.CLK_SYNC_CFG 0 = true → (∀ t, s.vp.clk.syncAt = some t → t + 250 ≤ s.vp.up) →
      let v := ((s.vp.setBit Reg.CLK_SYNC_CFG 0 false).addFld Reg.CLK_SYNC_STAT 0 16 1).clkSticky 3
      exec (.syncInEdge rising false) s = .next (s.after { v with clk := { v.clk with
        syncAt := some v.up, outOrigin := v.up, origin := if v.launched then v.clk.origin else v.up } }))
    ∧ (s.vp.bit Reg.CLK_SYNC_CFG 0 = false → exec (.syncInEdge rising false) s = .next (s.after
      ((s.vp.addFld Reg.CLK_SYNC_STAT 16 16 1).clkSticky 2))))

/-- Power domains are switched off at the write and become ready later; the ramp of the spreading depth ends; with the seal
closed the gated instructions of the test access port fall to BYPASS (R462, R467, R493). -/
def Obligations.PowerAndTest : Prop :=
  (∀ (s : State) (m : Nat) (w : Word), s.vp.runs = true → s.vp.accepts m Reg.SYS_PWR_CFG w = true →
    exec (.sysPwrCfgWrite m w) s = .next (s.after
      ((((s.vp.domsOff w).foldl (fun v d => (v.clearDom d).setBit Reg.SYS_PWR_STAT d false) s.vp).setFld Reg.SYS_PWR_CFG 0 16
        (fld w 0 16)).lanesSync.coresChanged)))
  ∧ (∀ (s : State) (d : Nat), s.vp.runs = true → d < 16 → s.vp.bit Reg.SYS_PWR_CFG d = true → s.vp.domOn d = false →
    exec (.domainReady d) s = .next (s.after (s.vp.setBit Reg.SYS_PWR_STAT d true).lanesSync.coresChanged))
  ∧ (∀ s : State, s.vp.runs = true → exec .depthRampDone s = .next (s.after
      { s.vp with clk := { s.vp.clk with from_ := s.vp.clk.target, since := s.vp.up } }))
  ∧ (∀ (s : State) (t : Tap),
    (s.vp.sealOpen = true → t ≠ .debug → exec (.tapInstructionLoad none t) s = .next (s.after
      { s.vp with clk := { s.vp.clk with tap := t } }))
    ∧ (s.vp.sealOpen = false → exec (.tapInstructionLoad none t) s = .next (s.after { s.vp with clk := { s.vp.clk with
      tap := match t with
        | .extest | .extestPulse | .extestTrain | .debug => .bypass
        | t => t } })))

/-! ### Start-up -/

/-- The steps of the start-up: flash discovery, the load of an image or its failure, the end of enumeration, a cell that is
not configured in time, the arming bound, the clearing of a retirement, and the fault dump (R152, R409, R437, R442, R445,
R447, R448). -/
def Obligations.StartEvents : Prop :=
  (∀ (s : State) (log2 jedec mhz : Nat) (addr4 quad : Bool), s.vp.runs = true → s.vp.phase = 1 → 25 ≤ log2 → log2 ≤ 27 →
    s.vp.bit Reg.BOOT_TRY 0 = false →
    let v := (s.vp.setBit Reg.BOOT_STAT 3 false).setBit Reg.BOOT_TRY 0 false
    let v := { v with boot := { v.boot with slot := 0, found := true } }
    let v := v.setReg Reg.BOOT_FLASH (w32 (jedec % 256 + log2 % 256 * 2 ^ 8 + b2n addr4 * 2 ^ 16 + b2n quad * 2 ^ 17
      + min mhz 100 * 2 ^ 24))
    exec (.flashDiscoveryDone true jedec log2 addr4 quad mhz) s = .next (s.after ((v.retLoad.trySlot 0).fallBack 0)))
  ∧ (∀ s : State, s.vp.runs = true → s.vp.phase = 2 →
    let slot := s.vp.boot.slot
    let xs := s.vp.sections slot
    (s.vp.imageCause slot = 0 →
      let v := ((useSections slot (xs.filter (·.type == 2)) s.vp).1.setPhase 3).headerCfg slot
      let u := (useSections slot (xs.filter (·.type != 2)) v).1
      (useSections slot (xs.filter (·.type != 2)) v).2 = true →
      u.timesOk (u.fld Reg.TIME_SLEAD 0 12) (fun k => u.fld (Reg.TIME_APPLY k) 0 16) = true →
      exec (.imageLoadDone true) s = .next (s.after (u.started slot)))
    ∧ exec (.imageLoadDone false) s = .next (s.after ((s.vp.slotFails slot 8).fallBack slot)))
  ∧ (∀ (s : State) (m : Nat), s.vp.runs = true → (s.vp.ring m).enumOn = true → 4 ≤ (s.vp.ring m).enumFrames →
    let v := s.vp.enumEnd m
    exec (.enumerationEnd m) s = .next (s.after
      (if v.phase = 5 ∧ !ringIds.any (fun m => (v.ring m).enumOn) then v.setPhase 6 else v)))
  ∧ (∀ (s : State) (k : CellRef), s.vp.runs = true → s.vp.present' (256 * k.ring + k.pos) = true →
    (s.vp.ring k.ring).cfgDone.contains k.pos = false →
    let v := s.vp.setCf (256 * k.ring + k.pos) 2 24 1 0
    exec (.cellConfigTimeout k) s = .next (s.after (v.setFld (Reg.RING_STATE k.ring) 8 9 (v.cellsOfRing k.ring).length)))
  ∧ (∀ s : State, s.vp.runs = true → s.vp.launched = true → s.vp.ready = true → s.vp.phase = 5 ∨ s.vp.phase = 6 →
    s.vp.bit Reg.BOOT_ARMED 16 = false →
    exec .armingBound s = .next (s.after (((s.vp.setBit Reg.BOOT_ARMED 16 true).setFld Reg.BOOT_STAT 4 4 7).setReg
      Reg.BOOT_T_ARMED (w32 s.vp.msUp))))
  ∧ (∀ (s : State) (m : Nat) (w : Word), s.vp.runs = true → s.vp.accepts m Reg.BOOT_RETCLR w = true → s.vp.sealOpen = true →
    fld w 16 16 = 0xA5 → s.vp.isRetired (fld w 0 12) = true →
    exec (.bootRetclr m w) s = .next (s.after
      ({ s.vp with retired := putBit s.vp.retired (fld w 0 12) false }.retWrite)))
  ∧ (∀ s : State, s.vp.runs = true → s.vp.fatal = true → s.vp.bit Reg.SYS_FATAL 13 = false → s.vp.bit Reg.SYS_FATAL 14 = false →
    s.vp.bit Reg.SYS_FATAL 15 = false → s.vp.fld Reg.SYS_FATAL 1 4 ≠ 0 → s.vp.dumpHeld = false →
    let blk := s.vp.fld Reg.SYS_FATAL 1 4
    let inst := s.vp.fld Reg.SYS_FATAL 5 8
    let u := (s.vp.setBit Reg.SYS_FATAL 13 true).dump blk inst
    exec .dumpWritten s = .next (s.after (u.journal 2 blk inst 3 (u.reg (Reg.FLT_FIRST blk 0)).toNat
      (u.reg (Reg.FLT_FIRST blk 1)).toNat 1)))

/-! ### The pair -/

/-- Forming a pair: a message of which a block stood in a missing place is discarded whole, whatever its kind; equal digests
and unlike roles form the pair, with VP-A active in generation 1; other digests fail; a VP that starts alone is active in
generation 1; a VP that runs alone answers a join with a snapshot of every arm (which boundary within 16 frames they name is
free, log entry 9), and a joining VP takes the snapshots and launches (R417, R418, R428, R432). -/
def Obligations.PairForms : Prop :=
  (∀ s : State, s.vp.runs = true → s.vp.paired = true →
    let t := Host.Outcome.next (s.after (s.vp.setBit Reg.PEER_STICKY 7 true))
    (∀ d r, exec (.cfgdReceived d r true) s = t) ∧ (∀ m f n a, exec (.rfhReceived m f n a true) s = t)
    ∧ (∀ b a, exec (.forwardedReportReceived b a true) s = t) ∧ (∀ f xs, exec (.rtvReceived f xs true) s = t)
    ∧ (∀ f ds, exec (.digReceived f ds true) s = t) ∧ (∀ x, exec (.snapApply x true) s = t)
    ∧ (∀ x, exec (.pstReceived x true) s = t) ∧ (∀ src, exec (.tripMessageReceived src true) s = t)
    ∧ (s.vp.pairMode = true → ∀ x, exec (.hostxReceived x true) s = t))
  ∧ (∀ (s : State) (digest : Nat) (role : Bool), s.vp.runs = true → s.vp.paired = true → s.vp.peer.failed = false →
    s.vp.peer.cfgdIn = false → s.vp.peer.pstIn = none →
    let own := s.vp.pairDigest
    let v := (s.vp.setReg Reg.PEER_DIG_P (w32 digest)).setReg Reg.PEER_DIG (w32 own)
    v.bit Reg.PEER_STAT 4 = false →
    let u := { v with peer := { v.peer with cfgdIn := true } }
    (own = digest % 2 ^ 32 → role ≠ v.isB → exec (.cfgdReceived digest role false) s = .next (s.after
      (((u.setBit Reg.PEER_STAT 2 true).setBit Reg.PEER_STAT 1 (!u.isB)).setFld Reg.PEER_STAT 8 8 1)))
    ∧ (own ≠ digest % 2 ^ 32 → exec (.cfgdReceived digest role false) s = .next (s.after
      (u.pairFail own digest (role == v.isB)))))
  ∧ (∀ s : State, s.vp.runs = true → s.vp.paired = true → s.vp.ready = true → s.vp.peer.cfgdIn = false →
    s.vp.peer.failed = false → s.vp.bit Reg.PEER_STAT 2 = false → s.vp.bit Reg.PEER_STAT 4 = false →
    let v := ((s.vp.setBit Reg.PEER_STAT 1 true).setBit Reg.PEER_STAT 4 true).setFld Reg.PEER_STAT 8 8 1
    exec .soloStart s = .next (s.after { v with boot := { v.boot with soloAt := some v.up } }))
  ∧ (∀ (s : State) (snaps : List Snap), s.vp.runs = true → s.vp.paired = true → s.vp.peer.failed = false →
    s.vp.peer.joining = true →
    (s.vp.bit Reg.PEER_STAT 4 = true → s.vp.launched = true → s.vp.peer.joinAt = none →
      let b := s.vp.frameNo + 1 + Config.openNat 9 s.vp.frameNo % 16
      let xs := (armIds.filter s.vp.armOn).map (fun k => { s.vp.snapOf k with at_ := b })
      exec (.join snaps) s = .next (s.after (xs.foldl (fun v x => v.peerSend (.snap x))
        { s.vp with peer := { s.vp.peer with joinAt := some b, snapOut := xs } })))
    ∧ (∀ x r, snaps = x :: r → s.vp.bit Reg.PEER_STAT 4 = false → s.vp.launched = false →
      (armIds.filter s.vp.armOn).all (fun k => snaps.any (·.arm == k)) = true →
      let u := snaps.foldl Vp.snapTake s.vp
      let w := ({ u with peer := { u.peer with joining := false } }).setBit Reg.PEER_STAT 1 false
      w.ready = true → w.fatal = false → exec (.join snaps) s = .next (s.after (w.launchAt x.at_))))

/-- The exchange of a frame between the VPs of a pair: ring and report forwarding, route values, the set of acknowledged
cells and trip messages (R142, R420, R422, R423). -/
def Obligations.PairFrame : Prop :=
  ∀ s : State, s.vp.runs = true → s.vp.pairMode = true →
    let v := s.vp
    (∀ m (f : Rfh) frame arr, m < 16 → frame % 256 = v.frameNo % 256 → f.sent ≤ arr →
      let u := (v.updRing m (fun r => { r with rfhPeer := r.rfhPeer ++ [f] })).setReg Reg.RING_PEER_DLY
        (w32 (min (arr - f.sent) 0xFFFF))
      exec (.rfhReceived m f frame arr false) s = .next (s.after (u.ackShort.forwardRing m)))
    ∧ (∀ m sent, v.txOff = false → v.ringUp m = true → (v.ring m).copies = [] → (v.ring m).rfhOwn = [] →
      let f : Rfh := { up := v.isB, wrapped := false, t := noT, first := true, sent := sent, held := 0 }
      exec (.rfhDeadline m sent) s = .next (s.after
        ((v.updRing m (fun r => { r with rfhOwn := [f] })).peerSend (.rfh m f))))
    ∧ (∀ blk arr, blk / 2 ^ 60 % 16 = v.frameNo % 16 →
      let m := blk / 2 ^ 56 % 16
      let p := blk / 2 ^ 48 % 256
      let cell := 256 * m + p
      let slot := withCrc16 (blk % 2 ^ 48) (nodeId v.chip m p) v.frameNo
      let u : Vp := { v.setCf cell 8 2 1 1 with peer := { v.peer with fwdIn := v.peer.fwdIn + 1 } }
      (v.ringUp m = true → p < v.ncell m → u.holds cell = false →
        exec (.forwardedReportReceived blk arr false) s = .next (s.after (u.firstCopy m p arr slot)))
      ∧ (v.ringUp m = true → p < v.ncell m → u.holds cell = true → (sget (fun _ => {}) u.held cell).val = slot →
        exec (.forwardedReportReceived blk arr false) s = .next (s.after u))
      ∧ (v.ringUp m = true → p < v.ncell m → u.holds cell = true → (sget (fun _ => {}) u.held cell).val ≠ slot →
        exec (.forwardedReportReceived blk arr false) s = .next (s.after (u.copyDiffers m cell)))
      ∧ (v.ringUp m = false ∨ v.ncell m ≤ p →
        exec (.forwardedReportReceived blk arr false) s = .next (s.after v)))
    ∧ (∀ frame xs, v.active = false → frame % 256 = v.frameNo % 256 →
      exec (.rtvReceived frame xs false) s = .next (s.after
        ({ v with peer := { v.peer with rtvIn := xs, rtvGot := true } }.rtvLatch)))
    ∧ (v.active = false → v.decided = true → v.peer.rtvGot = false →
      exec .rtvWaitExpiry s = .next (s.after
        (((v.inc Reg.PEER_LATE_CNT).setBit Reg.PEER_STICKY 5 true).peerFaults [(3, cor, Reg.PEER_LATE_CNT)])))
    ∧ (v.decided = true → v.fatal = false → v.armDone = 0 → armIds.any (fun k => (v.arm k).busy) = false →
      let u := ringIds.foldl Vp.ringEval (v.held.foldl (fun v h => v.fwdHeld h.1) v)
      let ack := (ringIds.flatMap u.cellsOfRing).filter (fun c => u.pairAck (c / 256) (c % 256))
      let has := fun c => u.holds c && !(u.ring (c / 256)).bufBad
      let w := if ack.any (fun c => !has c) then u.setBit Reg.PEER_STICKY 9 true else u
      let w := ack.foldl (fun x c => if has c then x.noteRetired c (x.rep c) else x) w
      let w := w.decideAll (fun c => ack.contains c && has c)
      exec .ackSetClose s = .next (s.after (ringIds.foldl Vp.closeCheck w).armedCheck))
    ∧ (∀ src, exec (.tripMessageReceived src false) s = .next (s.after
      ((if src.testBit 4 then v.setBit Reg.HOST_TRIP 3 true else v).tripNow (src % 64))))

/-- The stream to the partner keeps its order: TRIP messages, then forwarded reports and a message begun, then the messages
that wait. A message joins behind those of its class and of the classes before it, and none is lost or changed; the blocks
leave in the order of the stream (R421). -/
def Obligations.PeerStream : Prop :=
  ∀ q : List PeerOut, streamOrdered q →
    (∀ o : PeerOut, o.begun = false → streamOrdered (peerJoin o q)
      ∧ ∃ a b, q = a ++ b ∧ peerJoin o q = a ++ o :: b ∧ (∀ x ∈ a, x.rank ≤ o.rank) ∧ ∀ x ∈ b, o.rank < x.rank)
    ∧ (∀ n, streamOrdered (peerDrain q n) ∧ (peerDrain q n).flatMap (·.left) = (q.flatMap (·.left)).drop n)

/-- With every digest equal no arm shows a mismatch and none goes void, and a snapshot taken at the boundary that it names
ends the resynchronisation of its arm (R425 to R427). The partner's status, its loss, and the takeover: at its boundary the
standby holds the active role alone, in the next generation (R416, R429 to R431). -/
def Obligations.Takeover : Prop :=
  (∀ s : State, s.vp.runs = true → s.vp.pairMode = true →
    let v := s.vp
    (∀ frame ds, frame % 256 = v.frameNo % 256 → exec (.digReceived frame ds false) s = .next (s.after
      { v with peer := { v.peer with digIn := ds } }))
    ∧ (((armIds.filter v.armOn).all (fun k => v.peer.digIn.lookup k == v.peer.digOut.lookup k)) = true →
      let u := v.setFld Reg.PEER_MIS_ARM 0 12 0
      exec .digestCompare s = .next (s.after { u with peer := { u.peer with
        mis := armIds.foldl (fun l k => sset (fun _ => 0) l k 0) u.peer.mis, void := [], digIn := [], digOut := [] } }))
    ∧ (∀ x : Snap, v.active = false → (v.resyncOf x.arm).isSome = true → x.at_ % 2 ^ 32 = v.frameNo % 2 ^ 32 →
      exec (.snapApply x false) s = .next (s.after ((v.snapTake x).setResync x.arm none)))
    ∧ (∀ k r, v.resyncOf k = some r → 64 ≤ r.frames → exec (.snapTimeout k) s = .next (s.after
      ((v.resyncStart k).peerFaults [(6, unc, Reg.PEER_MIS_ARM)]))))
  ∧ ((∀ (s : State) (x : Pst), s.vp.runs = true → s.vp.paired = true → x.active = false → x.formed = false →
    x.frame ≠ s.vp.frameNo % 256 →
    let v := { s.vp with peer := { s.vp.peer with pstIn := some x, pstGot := true, pstMiss := 0 } }
    exec (.pstReceived x false) s = .next (s.after ((v.setBit Reg.PEER_STAT 3 true).setBit Reg.HOST_SEAL 5 x.sealOpen)))
  ∧ (∀ s : State, s.vp.runs = true → s.vp.pairMode = true → s.vp.peer.pstGot = false →
    let v := ({ s.vp with peer := { s.vp.peer with pstMiss := s.vp.peer.pstMiss + 1 } }.setBit Reg.PEER_STAT 3 false).setBit
      Reg.HOST_SEAL 5 false
    exec .pstMissing s = .next (s.after (if 1 ≤ s.vp.peer.pstMiss then v.partnerLost 2 else v)))
  ∧ (∀ (s : State) (b : Nat), s.vp.runs = true → s.vp.peer.takeAt = some b → b ≤ s.vp.frameNo + 1 →
    let v := { s.vp with peer := { s.vp.peer with takeAt := none, void := [], resync := [], mis := [] } }
    let v := ((v.setBit Reg.PEER_STAT 1 true).setBit Reg.PEER_STAT 4 true).setFld Reg.PEER_STAT 8 8 (nextGen v.gen)
    exec .takeover s = .next (s.after (((v.addFld Reg.PEER_TAKE_CNT 0 16 1).setBit Reg.PEER_STICKY 4 true).resyncShow)))
  ∧ (∀ s : State, s.vp.runs = true → let v := { s.vp with boot := { s.vp.boot with partnerFail := true } }
    exec .partnerFailAssert s = .next (s.after (if s.vp.paired then v.partnerLost 1 else v))))

/-! ### Host ports -/

/-- Requests that arrive at a free port with the roles that they need are counted and answered: frames not understood, reads,
the token, cancellation (which gives up a change of the sampling times, R31), posts and messages (R361 to R366, R368, R370,
R376, R383, R384). -/
def Obligations.HostRequests : Prop :=
  ∀ (s : State) (h : HostHdr), s.vp.runs = true → s.vp.paired = false → s.vp.portFree h.port h.tag = true →
    let p := h.port
    let u := fun b => s.vp.arrived p (hostFrame h b)
    (∀ typ, exec (.badFrame h typ) s = .next (s.after ((u (.bad typ)).reply p (hostFrame h (.bad typ)) stBad)))
    ∧ (∀ xs, 32 + 8 * xs.length + 4 * readWords xs ≤ 1500 → s.vp.readCrosses xs = false →
      exec (.read h xs) s = .next (s.after ((u (.read xs)).readNow p (hostFrame h (.read xs)) xs)))
    ∧ (∀ xs, 32 + 8 * xs.length + 4 * readWords xs ≤ 1500 → s.vp.readCrosses xs = true →
      exec (.read h xs) s = .next (s.after (u (.read xs))))
    ∧ (s.vp.hasCmd p = true → s.vp.host.token = none → exec (.tokenRequest h) s = .next (s.after
      (((u (.token 1)).setToken (some (p, false))).reply p (hostFrame h (.token 1)) stOk)))
    ∧ (s.vp.hasCmd p = true → s.vp.host.token = some (p, false) → exec (.tokenRelease h) s = .next (s.after
      (((u (.token 2)).setToken none).reply p (hostFrame h (.token 2)) stOk)))
    ∧ (∀ tag b, s.vp.hasCmd p = true → s.vp.host.token = some (p, false) →
      s.vp.host.staged.find? (fun b => b.own && b.port == p && b.tag == tag) = some b → s.vp.frameNo + 2 ≤ b.target →
      exec (.cancel h tag) s = .next (s.after ((((u (.cancel tag)).unstage b false).timeDrop b).reply p (hostFrame h (.cancel tag)) stOk)))
    ∧ (∀ j, s.vp.hasCmd p = true → s.vp.host.token = some (p, false) → j ≤ 127 →
      exec (.post h j) s = .next (s.after (((u (.post j)).post (.event (128 + j))).reply p (hostFrame h (.post j)) stOk)))
    ∧ (∀ len data, s.vp.bit (Reg.HOST_P_CFG p) 3 = true → len ≤ 1024 → s.vp.bit (Reg.HOST_P_MSG_STAT p) 11 = false →
      let v := (List.range ((len + 3) / 4)).foldl (fun v i => v.setReg (Reg.HOST_P_MSG_RX (256 * p + i)) (data.getD i 0))
        (u (.msg len data))
      let v := (v.setFld (Reg.HOST_P_MSG_STAT p) 0 11 len).setBit (Reg.HOST_P_MSG_STAT p) 11 true
      exec (.msg h len data) s = .next (s.after ((v.post (.event (48 + p))).reply p (hostFrame h (.msg len data)) stOk)))

/-- A WRITE bundle, and a COMMAND bundle whose first command is DEBLOCK, BLOCK, SETPOINT or RETIRE, that passes the tests of
R373 is staged for its target and answered OK (R373, R375, R378). -/
def Obligations.HostBundles : Prop :=
  ∀ (s : State) (h : HostHdr) (i : Instr) (body : HBody), s.vp.runs = true → s.vp.paired = false →
    s.vp.portFree h.port h.tag = true →
    (∃ target xs, i = .write h target xs ∧ body = .write target xs)
      ∨ (∃ target arms rest, i = .deblock h target arms rest ∧ body = .command target (⟨1, arms, 0⟩ :: rest))
      ∨ (∃ target arms rest, i = .block h target arms rest ∧ body = .command target (⟨2, arms, 0⟩ :: rest))
      ∨ (∃ target j w rest, i = .setpoint h target j w rest ∧ body = .command target (⟨3, j, w⟩ :: rest))
      ∨ (∃ target c w rest, i = .retire h target c w rest ∧ body = .command target (⟨4, c, w⟩ :: rest)) →
    let f := hostFrame h body
    let u := s.vp.arrived h.port f
    let b := mkBundle h.port f body
    u.bundleRole h.port b = true → u.bundleTest b 2 = stOk →
    exec i s = .next (s.after ((u.stage b).bundleAnswer h.port f b stOk))

/-- Trips and image operations that the port's roles, the key, the token and the seal allow, and how an image operation ends
(R381, R392). -/
def Obligations.HostTripImage : Prop :=
  (∀ (s : State) (h : HostHdr), s.vp.runs = true → s.vp.paired = false → s.vp.portFree h.port h.tag = true →
    let p := h.port
    let f := hostFrame h
    let u := fun b => s.vp.arrived p (f b)
    (s.vp.hasProt p = true ∨ s.vp.hasCmd p = true → exec (.trip h 0xA5) s = .next (s.after
      (((u (.trip 1 0xA5)).hostTrip p).reply p (f (.trip 1 0xA5)) stOk)))
    ∧ (s.vp.hasProt p = true → exec (.tripClear h 0xA5) s = .next (s.after
      (((u (.trip 2 0xA5)).hostTripClear).reply p (f (.trip 2 0xA5)) stOk))))
  ∧ (∀ (s : State) (h : HostHdr) (slot ofs len : Nat) (data : List Nat), s.vp.runs = true → s.vp.paired = false →
    s.vp.portFree h.port h.tag = true → s.vp.hasCmd h.port = true → s.vp.host.token = some (h.port, false) →
    s.vp.sealOpen = true → s.vp.host.image = none → s.vp.flashOn = true → slot ≤ 1 → slot ≠ s.vp.runSlot' →
    let start := fun (op n : Nat) (data : List Nat) =>
      let f := hostFrame h (.image op slot ofs n data)
      let v := s.vp.arrived h.port f
      s.after ({ v with host := { v.host with image := some { port := h.port, op := op, slot := slot, ofs := ofs, len := n, data := data } } }.setFld
        Reg.BOOT_OP_STAT 0 8 (1 + 2 * slot + 16 * op))
    (ofs + len ≤ 8388608 → len ≤ 1024 → exec (.imageRead h slot ofs len) s = .next (start 1 len []))
    ∧ (ofs ≤ 8388608 → exec (.imageErase h slot ofs) s = .next (start 2 0 []))
    ∧ (ofs + data.length ≤ 8388608 → data.length ≤ 1024 →
      exec (.imageProgram h slot ofs data) s = .next (start 3 data.length data))
    ∧ (ofs + len ≤ 8388608 → exec (.imageCrc h slot ofs len) s = .next (start 4 len [])))
  ∧ (∀ (s : State) (o : ImageOp), s.vp.runs = true → s.vp.host.image = some o →
    exec (.imageOpDone false) s = .next (s.after ((s.vp.raise 13 0xFF 4 unc Reg.BOOT_OP_STAT).imageEnd o stState []))
    ∧ (o.op = 1 → exec (.imageOpDone true) s = .next (s.after
      (s.vp.imageEnd o stOk (s.vp.flashBytes (slotBase o.slot + o.ofs) o.len))))
    ∧ (o.op = 2 ∨ o.op = 3 → exec (.imageOpDone true) s = .next (s.after ((s.vp.imageWrite o o.len).imageEnd o stOk []))))

/-- What happens at the ports beside requests: dropped frames, deferred reads, the loss of the token, firmware messages,
event frames, and the partner's confirmation (R361, R368, R370, R377, R382, R383, R386). -/
def Obligations.HostEvents : Prop :=
  (∀ (s : State) (p : Nat), s.vp.runs = true →
    exec (.hostFrameDropped p) s = .next (s.after (s.vp.addFld (Reg.HOST_P_RX_CNT p) 16 16 1)))
  ∧ (∀ (s : State) (p : Nat) (f : HFrame) (xs : List (Nat × Nat)), s.vp.runs = true → p < 4 → (s.vp.port p).serving = some f →
    f.body = .read xs → (s.vp.port p).queue = [] → s.vp.readCrosses xs = false →
    exec (.readDeferredStart p) s = .next (s.after ((xs.filterMap s.vp.readBus).foldl (fun u a => u.busFault (0x20 + p) a 0)
      (s.vp.answer p f stOk s.vp.epochNo (xs.map s.vp.readItem) []))))
  ∧ (∀ (s : State) (p : Nat), s.vp.runs = true → s.vp.paired = false → s.vp.host.token = some (p, false) →
    exec .tokenTimeout s = .next (s.after (s.vp.setToken none))
    ∧ (p < 4 → s.vp.bit (Reg.HOST_P_CFG p) 4 = false →
      exec (.hostLinkLost p) s = .next (s.after (s.vp.setToken none))))
  ∧ (∀ (s : State) (m p : Nat) (w : Word), s.vp.runs = true → p < 4 →
    (s.vp.accepts m (Reg.HOST_P_MSG_ACK p) w = true →
      exec (.hostPMsgAck m p w) s = .next (s.after (s.vp.setBit (Reg.HOST_P_MSG_STAT p) 11 false)))
    ∧ (s.vp.accepts m (Reg.HOST_P_MSG_SEND p) w = true → s.vp.bit (Reg.HOST_P_STAT p) 2 = true →
      let n := fld w 0 11
      let ws := (List.range ((n + 3) / 4)).map (fun i => s.vp.reg (Reg.HOST_P_MSG_TX (256 * p + i)))
      exec (.hostPMsgSend m p w) s = .next (s.after
        ((({ s.vp with free := s.vp.free + 1 }).setPort p { s.vp.port p with
          msgSent := some (n, ws), msgHead := some (s.vp.ownHead p 0xC7 (Config.openNat 21 s.vp.free % 2 ^ 16))
          msgEnd := s.vp.up + (32 + n + 4) / 5 }).setBit (Reg.HOST_P_MSG_STAT p) 12 true))))
  ∧ (∀ (s : State) (p : Nat), s.vp.runs = true → s.vp.portOn p = true → (sget (fun _ => []) s.vp.evq p).isEmpty = false →
    sget (fun _ => 0) s.vp.evLost p = 0 →
    let q := sget (fun _ => []) s.vp.evq p
    let v := { s.vp with evq := sset (fun _ => []) s.vp.evq p (q.drop 16), evLost := sset (fun _ => 0) s.vp.evLost p 0 }
    exec (.eventFrameSend p) s = .next (s.after
      ((v.setPort p { v.port p with evSent := q.take 16, evHead := some (v.ownHead p 0xC0 (v.fld (Reg.HOST_P_EV_CNT p) 0 16)) }).addFld
        (Reg.HOST_P_EV_CNT p) 0 16 1)))
  ∧ (∀ (s : State) (p tag : Nat) (b : Bundle) (f : HFrame), s.vp.runs = true → s.vp.waitingBundle p tag = some b →
    (s.vp.port p).serving = some f → f.tag = tag →
    exec (.partnerConfirm p tag) s = .next (s.after (({ s.vp with host := { s.vp.host with
      staged := s.vp.host.staged.map (fun x => if x = b then { x with waiting := false } else x) } } : Vp).bundleAnswer p f b
        stOk))
    ∧ let v := { s.vp with host := { s.vp.host with
        staged := s.vp.host.staged.filter (· != b) } }
      let v := ((v.hostxSend (.withdraw p tag)).timeDrop b).setBit Reg.HOST_STICKY 2 true
      let v := (v.hostInt 6).raise 11 p 3 cor (Reg.HOST_P_STAT p)
      (v.port p).serving = some f →
      exec (.partnerConfirmTimeout p tag) s = .next (s.after (v.bundleAnswer p f b stPartner)))
  ∧ (∀ (s : State) (p tag : Nat), s.vp.runs = true → s.vp.pairMode = true →
    let theirs := fun (b : Bundle) => !b.own && b.port == p && b.tag == tag
    exec (.hostxReceived (.withdraw p tag) false) s = .next (s.after ((s.vp.host.staged.filter theirs).foldl Vp.timeDrop
      { s.vp with host := { s.vp.host with staged := s.vp.host.staged.filter (fun b => !theirs b) } })))

/-- The seal opens when its pins say so, the chatter detector has not fired and the seal logic has met no uncorrectable
error, and closes otherwise, which releases frozen cells and stops an image operation (R387 to R390, R394). -/
def Obligations.SealEvents : Prop :=
  ∀ s : State, s.vp.runs = true →
    let v := s.vp
    (v.sealOpen = false → v.bit Reg.HOST_SEAL 1 = true → v.bit Reg.HOST_SEAL 2 = false → v.bit Reg.HOST_SEAL 4 = false →
      v.host.sealBad = false → exec .sealOpen s = .next (s.after ((v.setBit Reg.HOST_SEAL 0 true).sealChanged 4)))
    ∧ (v.sealOpen = false → v.bit Reg.HOST_SEAL 1 = false ∨ v.bit Reg.HOST_SEAL 2 = true ∨ v.bit Reg.HOST_SEAL 4 = true
        ∨ v.host.sealBad = true → exec .sealOpen s = .next (s.after v))
    ∧ (v.sealOpen = true → v.bit Reg.HOST_SEAL 1 = true → v.bit Reg.HOST_SEAL 2 = false → v.bit Reg.HOST_SEAL 4 = false →
      exec .sealClose s = .next (s.after v))
    ∧ (v.sealOpen = true → v.sealPins = false ∨ v.bit Reg.HOST_SEAL 4 = true →
      let u := ((v.setBit Reg.HOST_SEAL 0 false).sealChanged 5).releaseFreeze
      let u := { u with clk := { u.clk with tap := u.clk.tap.sealed } }
      u.sealOpen = false → exec .sealClose s = .next (s.after u.imageStop))
    ∧ (exec (.sealPinChange true false false) s = .next (s.after
      { (((v.setBit Reg.HOST_SEAL 1 true).setBit Reg.HOST_SEAL 2 false).setBit Reg.HOST_SEAL 3 false) with
        host := { v.host with openSince := if v.host.openSince.isSome then v.host.openSince else some v.up } }))
    ∧ (exec .sealChatterCleared s = .next (s.after (v.setBit Reg.HOST_SEAL 4 false)))

/-! ### Analogue inputs, records, the grid -/

/-- The analogue inputs: results, injected conversions, calibration of all slices and of one, rotation and handover, bursts
and over-range (R293, R296, R298 to R307); a request that finds a calibration under way is refused, a step of the rotation is
made ready while the moon takes the channel over, and a burst stands at its instant (the model's choices, log entries 93, 154
and 20); a stream line is written at the write pointer, which goes on by 64 bytes and wraps; with STOP set a line for which
there is no room is lost, counted, and the gap is shown (R309, R310). -/
def Obligations.AdcEvents : Prop :=
  ((∀ s : State, s.vp.runs = true →
    exec .adcResultUpdate s = .next (s.after ((List.range 16).foldl Vp.resultOf s.vp)))
  ∧ (∀ (v : Vp) (c : Nat), v.chOn c = true → v.bit Reg.ADC_RES_NEW c = false →
    let r := Reg.ADC_CH_RES c
    (v.frameOf c = none → v.resultOf c = ((((v.setBit r 14 false).setBit r 15 false).setFld r 16 8 v.time.prevNo).setBit
      Reg.ADC_RES_NEW c true))
    ∧ (∀ f, v.frameOf c = some f → v.frameOver f = false →
      let n := f.codes.length
      let last := f.codes.getLastD (0, false)
      let code := if v.bit (Reg.ADC_CH_CFG c) 0 then last.1 else meanAway f.sum n
      let u := ((v.setFld r 0 14 (code14 code)).setBit r 14 false).setBit r 15 ((List.range n).any (v.setlBack c f.at_))
      let u := u.setReg (Reg.ADC_CH_LAST c) (w32 (code14 last.1 + b2n last.2 * 2 ^ 14 + b2n (u.setl c f.at_) * 2 ^ 15
        + u.sliceOf c * 2 ^ 16))
      v.resultOf c = ((u.setFld r 16 8 v.time.prevNo).setBit Reg.ADC_RES_NEW c true)))
  ∧ (∀ (s : State) (m : Nat) (w : Word), s.vp.runs = true →
    (s.vp.accepts m Reg.ADC_INJ_REQ w = true →
      exec (.adcInjReq m w) s = .next (s.after (((List.range 16).filter (bit w)).foldl (fun v c =>
        if v.chServed c = false then v.setBit Reg.ADC_STICKY 0 true
        else if v.bit Reg.ADC_INJ_PEND c then v
        else if v.lp && decide (v.up < v.adc.burstEnd) then
          ((v.addFld Reg.ADC_INJ_CNT 16 16 1).setBit Reg.ADC_STICKY 4 true).adcInt 3
        else ({ v with adc := { v.adc with injSlice := sput c (v.sliceOf c) v.adc.injSlice } }).setBit Reg.ADC_INJ_PEND c true)
        s.vp)))
    ∧ (s.vp.accepts m Reg.ADC_CAL_CMD w = true → s.vp.sealOpen = true → bit w 0 = true → armIds.any s.vp.armRuns = false →
      let keep := (List.range 16).foldl (fun b c =>
        if s.vp.adc.onMoon.testBit c && s.vp.sliceGone c then putBit b c true else b) 0
      let v := { s.vp with adc := { s.vp.adc with ho := [], onMoon := keep, waitAt := none, next := none } }.setBit
        Reg.ADC_CAL_STAT 1 false
      let v := { v with adc := { v.adc with runs := v.adc.runs.map (fun r => { r with n := r.upTo v.up }) } }
      (∀ x, v.nextAll 0 = some x → exec (.adcCalAll m w) s = .next (s.after (v.calStart .all x).adcSync))
      ∧ (v.nextAll 0 = none → exec (.adcCalAll m w) s = .next (s.after v)))
    ∧ (s.vp.accepts m Reg.ADC_CAL_CMD w = true → s.vp.sealOpen = true → bit w 0 = false → bit w 1 = true →
      let x := fld w 8 5
      let moon := moonOf x
      (s.vp.bit Reg.ADC_MODE 1 = true ∨ s.vp.adc.kind ≠ .none ∨ 18 ≤ x ∨ s.vp.sliceGone x = true →
        exec (.adcCalOne m w) s = .next (s.after (s.vp.setBit Reg.ADC_STICKY 0 true)))
      ∧ (s.vp.bit Reg.ADC_MODE 1 = false → s.vp.adc.kind = .none → x < 18 → s.vp.sliceGone x = false →
        (16 ≤ x → s.vp.moonCh (x - 16) = 31) →
        (s.vp.lp = true → exec (.adcCalOne m w) s = .next (s.after (s.vp.calStart .one x).adcSync))
        ∧ (s.vp.lp = false → s.vp.canReady x = true → s.vp.viaMoon x = false ∨ s.vp.adc.onMoon.testBit x = true →
          exec (.adcCalOne m w) s = .next (s.after (s.vp.calStart .one x).adcSync))
        ∧ (s.vp.lp = false → s.vp.canReady x = true → s.vp.viaMoon x = true → s.vp.adc.onMoon.testBit x = false →
          let v := { s.vp with adc := { s.vp.adc with
            kind := .one, slice := x, busy := false, ho := sput moon ⟨x, 1, false⟩ s.vp.adc.ho } }
          exec (.adcCalOne m w) s = .next (s.after v.adcSync)))))
  ∧ (∀ (s : State) (c : Nat) (raw : Int) (limit hard : Bool), s.vp.runs = true → c < 16 → s.vp.bit Reg.ADC_INJ_PEND c = true →
    let v := s.vp
    let x := v.injFrom c
    let r := adcCode (sgn 16 (v.reg (Reg.ADC_SL_OFS x)).toNat) (v.reg (Reg.ADC_SL_GAIN x)).toNat (v.bit (Reg.ADC_CH_CFG c) 2)
      raw limit
    let u := v.setReg (Reg.ADC_INJ_RES c)
      (w32 (code14 r.1 + b2n r.2 * 2 ^ 14 + b2n (v.setl c (v.up - 28)) * 2 ^ 15 + 2 ^ 16 + x * 2 ^ 17))
    let q := u.frameTime (28 * u.incr + u.fld (Reg.ADC_CH_DLY c) 0 16 * 2 ^ 28)
    let u := u.setReg (Reg.ADC_INJ_TS c) (w32 (q.2 % 2 ^ 24 + q.1 % 64 * 2 ^ 24))
    let u := ((u.setBit Reg.ADC_INJ_PEND c false).addFld Reg.ADC_INJ_CNT 0 16 1).adcInt 2
    let u := if r.2 then u.overRange c hard else u
    exec (.injectedResult c raw limit hard) s = .next (s.after
      ({ u with adc := { u.adc with injSlice := sdel c u.adc.injSlice } }).calWaitEnd.adcSync))
  ∧ (∀ (s : State) (ofs : Int) (gain : Nat), s.vp.runs = true → s.vp.adc.busy = true →
    let x := s.vp.adc.slice
    let v := s.vp.takeFactors x ofs gain
    let u := { v with adc := { v.adc with kind := .none, slice := 31, busy := false } }.backIfMoon x
    let u := if 16 ≤ x then u.moonAdopt (x - 16) else u
    (v.adc.kind = .one → exec (.sliceCalibrationDone ofs gain) s = .next (s.after (u.adcInt 4).adcSync))
    ∧ (v.adc.kind = .rot → exec (.sliceCalibrationDone ofs gain) s = .next (s.after u.passEnd.stepStart.adcSync))
    ∧ (∀ y, v.adc.kind = .all → v.nextAll (x + 1) = some y →
      exec (.sliceCalibrationDone ofs gain) s = .next (s.after (v.calStart .all y).adcSync)))
  ∧ (∀ (s : State) (x : Nat) (rest : List Nat), s.vp.runs = true → s.vp.bit Reg.ADC_MODE 1 = true → s.vp.lp = false →
    s.vp.adcDone = true → s.vp.adc.next = none → s.vp.adc.kind = .none →
    s.vp.adc.again.filter (· != s.vp.adc.slice) = x :: rest → s.vp.canReady x = true →
    (s.vp.viaMoon x = true → s.vp.adc.onMoon.testBit x = false → exec .rotationStep s = .next (s.after
      ({ s.vp with adc := { s.vp.adc with
        next := some (x, none), ho := sput (moonOf x) ⟨x, 1, false⟩ s.vp.adc.ho } } : Vp).adcSync))
    ∧ (s.vp.viaMoon x = false ∨ s.vp.adc.onMoon.testBit x = true → exec .rotationStep s = .next (s.after
      (({ s.vp with adc := { s.vp.adc with next := none, again := s.vp.adc.again.filter (· != x) } } : Vp).calStart .rot
        x).adcSync)))
  ∧ (∀ (s : State) (moon : Nat) (pairs : List (Int × Int)) (h : Handover), s.vp.runs = true → s.vp.hoOf moon = some h →
    let on := fun (n : Nat) => ({ s.vp with adc := { s.vp.adc with ho := sput moon { h with stage := n } s.vp.adc.ho } } : Vp)
    (h.stage = 1 → exec (.handoverStageEnd moon pairs) s = .next (s.after (on 2).adcSync))
    ∧ (h.stage = 2 → pairs.length = 256 →
      (s.vp.compareSum h pairs).natAbs ≤ 256 * s.vp.fld Reg.ADC_ROT_CFG 16 8 →
      exec (.handoverStageEnd moon pairs) s = .next (s.after (on 3).adcSync))
    ∧ (h.stage = 2 → pairs.length = 256 →
      256 * s.vp.fld Reg.ADC_ROT_CFG 16 8 < (s.vp.compareSum h pairs).natAbs →
      exec (.handoverStageEnd moon pairs) s = .next (s.after (s.vp.seamCancel moon h)))
    ∧ (h.stage = 3 → h.back = true →
      let v := { s.vp with adc := { s.vp.adc with
        ho := sdel moon s.vp.adc.ho, onMoon := putBit s.vp.adc.onMoon h.ch false
        failed := s.vp.adc.failed.filter (· != h.ch) } }
      exec (.handoverStageEnd moon pairs) s = .next (s.after (v.moonAdopt moon).adcSync)))
  ∧ (∀ s : State, s.vp.runs = true → s.vp.lp = true → s.vp.calAllRun = false →
    s.vp.frameNo % max 1 (s.vp.fld Reg.ADC_MODE 4 4) = 0 →
    let v := s.vp.frameAt (8 * s.vp.fld Reg.ADC_MODE 18 14)
    let n := v.fld Reg.ADC_MODE 8 10
    exec .lpBurstStart s = .next (s.after { v with adc := { v.adc with
      runs := ⟨v.up, 8, n⟩ :: v.adc.runs.take 47, burstEnd := v.up + 8 * n } }))
  ∧ (∀ (s : State) (c : Nat) (high hard : Bool), s.vp.runs = true → s.vp.chServed c = true → s.vp.calAllRun = false →
    let code := (adcCode 0 32768 (s.vp.bit (Reg.ADC_CH_CFG c) 2) (if high then 8703 else -8704) true).1
    exec (.adcOverRange c high hard) s = .next (s.after
      ((s.vp.overRange c hard).setLast c code true ((s.vp.overRange c hard).setl c ((s.vp.overRange c hard).up - 28))))))
  ∧ (∀ (s : State) (c lag sidx : Nat) (xs : List RawConv), s.vp.runs = true → s.vp.chServed c = true →
    s.vp.bit (Reg.ADC_CH_CFG c) 1 = true → s.vp.calAllRun = false → 1 ≤ xs.length → xs.length ≤ 28 →
    let v := s.vp
    let wp := v.fld (Reg.ADC_STR_WP c) 0 20
    let next := (wp + 64) % v.strSize c
    (v.bit (Reg.ADC_STR_CFG c) 4 = false ∨ next ≠ v.fld (Reg.ADC_STR_RP c) 0 20 →
      let last := v.up - 28 - lag
      let q := v.frameTime ((v.up - convBack v.adc.runs last (xs.length - 1)) * v.incr)
      let u := { v with mem := msetWs v.mem ((v.reg (Reg.ADC_STR_BASE c)).toNat + wp)
                          (lineWords q.2 q.1 (v.adc.gap.testBit c) (v.convLp last) sidx (v.convs c last xs))
                        adc := { v.adc with gap := putBit v.adc.gap c false } }
      exec (.streamLineWrite c lag sidx xs) s = .next (s.after
        ((if next = 0 then u.addFld (Reg.ADC_STR_WP c) 20 12 1 else u).setFld (Reg.ADC_STR_WP c) 0 20 next)))
    ∧ (v.bit (Reg.ADC_STR_CFG c) 4 = true → next = v.fld (Reg.ADC_STR_RP c) 0 20 →
      let u := ((v.inc (Reg.ADC_STR_LOST c)).setBit Reg.ADC_STICKY 6 true).adcInt 7
      exec (.streamLineWrite c lag sidx xs) s = .next (s.after
        ({ u with adc := { u.adc with gap := putBit u.adc.gap c true } }.raise 8 c 4 cor (Reg.ADC_STR_LOST c)))))

/-- Records: a run that brings one new sample instant to a pool with one unit; what crossings do by the state of the pool; a
complete tail waits for its measurement and the record is then complete; a segment is freed; the locator's search, and a
remote time that is refused (R317, R327, R329, R330, R333, R336, R337, R340). -/
def Obligations.AcqEvents : Prop :=
  (∀ (s : State) (p u lead taken : Nat) (raw : List (Nat × List RawConv)), s.vp.runs = true →
    s.vp.groupOf p = [u] → raw.foldl (fun n l => max n l.2.length) 0 = lead + 1 →
    let x := fun i => s.vp.smp (s.vp.rawSmps raw) 0 24 (s.vp.tuSrc u) i
    let q := s.vp.compare u (if lead = 0 then none else some (x (lead - 1))) (x lead)
    let t := q.1.taiAgo 28 - q.1.chDly (s.vp.tuSrc u)
    let r := q.1.crossings p taken 28 (q.2.map (fun c => (c, q.1.crossTime c t)))
    (∀ d, d < 8 → r.dcOp d = 0) → exec (.triggerCrossing p lead taken raw) s = .next (s.after r))
  ∧ (∀ (v : Vp) (p taken ago : Nat) (c : Cross × Nat) (cs : List (Cross × Nat)),
    (v.poolSt p = 1 → v.crossings p taken ago (c :: cs) = v.openRec p taken ago (c :: cs) c)
    ∧ (3 ≤ v.poolSt p → v.crossings p taken ago (c :: cs) = (c :: cs).foldl (fun v c => v.missed p c.1 c.2) v))
  ∧ (∀ (s : State) (p lead : Nat) (raw : List (Nat × List RawConv)) (facts : RecFacts), s.vp.runs = true →
    s.vp.acq.cur.lookup p = none → exec (.tailComplete p lead raw facts) s = .next (s.after s.vp))
  ∧ (∀ (s : State) (p lead : Nat) (raw : List (Nat × List RawConv)) (facts : RecFacts) (r : AcqRec), s.vp.runs = true →
    s.vp.acq.cur.lookup p = some r → r.hv + r.tail + lead ≤ raw.foldl (fun n l => max n l.2.length) 0 → 1 ≤ r.tail →
    s.vp.acq.queue.length < 16 →
    ∃ t r', exec (.tailComplete p lead raw facts) s = .next (s.after t) ∧ t.acq.queue = s.vp.acq.queue ++ [(p, r')]
      ∧ t.acq.cur = sdel p s.vp.acq.cur
      ∧ r'.tv = r.tail ∧ r'.seg = r.seg ∧ r'.seq = r.seq ∧ r'.ts = r.ts
      ∧ r'.tlast = s.vp.taiAgo 28 - s.vp.chDly (s.vp.tuSrc p)
      ∧ r'.flags.testBit 1 = decide (r.hv < r.head) ∧ r'.flags.testBit 2 = false
      ∧ r'.flags.testBit 11 = facts.breaks.any (fun b => decide (lead < b)) ∧ r'.flags.testBit 12 = facts.lp)
  ∧ (∀ (s : State) (p : Nat) (r : AcqRec) (rest : List (Nat × AcqRec)), s.vp.runs = true → s.vp.acq.queue = (p, r) :: rest →
    let v := { s.vp with acq := { s.vp.acq with queue := rest } }.setFld Reg.ACQ_MQ_STAT 0 5 rest.length
    let r' := { r with flags := r.flags ||| 1 }
    let v := { v with mem := msetWs v.mem r.base (r'.header p (s.vp.measureRec r))
                      acq := { v.acq with complete := v.acq.complete.filter (· != r.seg) ++ [r.seg]
                                          lastTs := sput p r.ts v.acq.lastTs } }
    let v := ((v.setReg (Reg.ACQ_P_LAST p) (w32 r.seg)).acqInt 0).post (.event (8 + p))
    let loc := v.bit Reg.ACQ_LOC_CFG 0 && v.bit Reg.ACQ_CFG 0 && v.fld Reg.ACQ_LOC_CFG 2 4 == p
    (loc = false → exec .measurementComplete s = .next (s.after (v.unfull p)))
    ∧ (loc = true → r'.flags &&& 0x1C80 = 0 → r.mask.testBit (v.fld Reg.ACQ_LOC_CFG 6 5) = true →
      exec .measurementComplete s = .next (s.after
        ({ v with acq := { v.acq with loc := v.acq.loc ++ [r'] } }.unfull p)))
    ∧ (loc = true → r'.flags &&& 0x1C80 ≠ 0 ∨ r.mask.testBit (v.fld Reg.ACQ_LOC_CFG 6 5) = false →
      exec .measurementComplete s = .next (s.after ((v.setBit Reg.ACQ_LOC_STAT 5 true).unfull p))))
  ∧ (∀ (s : State) (m p : Nat) (w : Word), s.vp.runs = true → p < 16 →
    (s.vp.accepts m (Reg.ACQ_P_FREE p) w = true → exec (.acqPFree m p w) s = .next (s.after
      ({ s.vp with acq := { s.vp.acq with
        heldSegs := s.vp.acq.heldSegs.filter (· != fld w 0 10)
        complete := s.vp.acq.complete.filter (· != fld w 0 10) } }.unfull p)))
    ∧ (s.vp.masterActs m = true → s.vp.domOn (accessDom m (Reg.ACQ_P_FREE p)) = true → s.vp.freeRefused p w = true →
      exec (.acqPFree m p w) s = .next (s.after (s.vp.setBit Reg.ACQ_STICKY 0 true))))
  ∧ (∀ (s : State) (r : AcqRec) (rest : List AcqRec), s.vp.runs = true → s.vp.acq.loc = r :: rest →
    let v := s.vp
    let xs := r.load v.mem (v.fld Reg.ACQ_LOC_CFG 6 5)
    let l := v.locScan r xs 0 (xs.headD 0) ⟨false, r.ts + v.fld Reg.ACQ_LOC_BLANK 0 16 * 1000 * nsUnit, []⟩
    let u := { v with acq := { v.acq with loc := rest } }
    let u := (List.range l.found.length).foldl (fun u i =>
      let d := l.found.getD i 0 - r.ts
      (u.setReg (Reg.ACQ_LOC_CAND i) (w32 (twos 32 (in5 25 d)))).setReg (Reg.ACQ_LOC_DIST i)
        (w32 (twos 32 (u.locDist 26 d)))) u
    let u := (List.range 4).foldl (fun u i => u.setReg (Reg.ACQ_LOC_T1 i) ((ts128 r.ts).getD i 0)) u
    let short := decide (((r.tlast : Int) - r.ts) * (u.reg Reg.ACQ_LOC_VEL).toNat
      < 2 * (u.reg Reg.ACQ_LOC_LEN).toNat * 65536 * 1000 * nsUnit)
    let st := Reg.ACQ_LOC_STAT
    let u := ((u.setBit st 0 true).setFld st 1 3 l.found.length).setBit st 4 short
    let u := ((u.setBit st 5 false).setBit st 12 (r.flags.testBit 9)).setFld st 16 16 r.seq
    exec .locatorSeDone s = .next (s.after (u.acqInt 5)))
  ∧ (∀ (s : State) (m : Nat) (w : Word), s.vp.runs = true → s.vp.accepts m (Reg.ACQ_LOC_REM 3) w = true →
    s.vp.bit Reg.ACQ_LOC_CFG 1 = true → s.vp.bit Reg.ACQ_CFG 0 = true →
    let v := (s.vp.wideTake (Reg.ACQ_LOC_REM 3)).setReg (Reg.ACQ_LOC_REM 3) w
    999999999 < (v.reg (Reg.ACQ_LOC_REM 1)).toNat →
    exec (.locRemoteSubmit m w) s = .next (s.after ((v.setBit Reg.ACQ_LOC_STAT 8 true).acqInt 7)))

/-- Transducer words, the words of the trackers and what the outputs send, and phasors (R342 to R346, R352, R356). The number
formats and roundings of the trackers are the model's (log entries 8 and 10). -/
def Obligations.GridEvents : Prop :=
  (∀ s : State, s.vp.runs = true → s.vp.launched = true →
    exec .trackerPublish s = .next (s.after ([0, 1, 2, 3].foldl (fun v o =>
      if v.tloOn o && v.bit (Reg.GRID_TLO_CFG o) 1 then
        ({ v with grid := { v.grid with sent := sput o (v.tloWord o) v.grid.sent } }).inc (Reg.GRID_TLO_CNT o)
      else v) ([0, 1, 2, 3].foldl Vp.trackerWords s.vp))))
  ∧ (∀ (v : Vp) (k : Nat), k < 4 →
    let st := v.fld (Reg.GRID_TR_STAT k) 0 2
    let u := v.trackerWords k
    let ang := w32 (twos 32 (divAny 36 (wrapTurn ((v.tr k).ahead ((v.time.boundary : Int) - (v.tr k).t)).1) (2 ^ 32)))
    (st = 0 ∨ v.isRemoved 10 k = true → u = v)
    ∧ (st ≠ 0 → v.isRemoved 10 k = false →
      u.reg (Reg.GRID_TR_ANG k) = ang ∧ sget (fun _ => (0 : Word)) u.gridWords (8 * k) = ang
      ∧ (st ≠ 2 → u.reg (Reg.GRID_TR_FREQ k) = w32 (divAny 38 ((v.f0 k * turn : Nat) : Int) (2 ^ 44)).toNat
        ∧ u.reg (Reg.GRID_TR_ROCOF k) = w32 (twos 32 (sat32 (divAny 39 0 (2 ^ 48)))))
      ∧ u.grid = v.grid ∧ u.mem = v.mem))
  ∧ (∀ (s : State) (j w : Nat), s.vp.runs = true → s.vp.tliOn j = true →
    let v := s.vp.tliRepeat j w
    (w / 2 ^ 48 % 65536 ≠ tliCrc w → exec (.tliWordReceived j w) s = .next (s.after
      ((v.addFld (Reg.GRID_TLI_CNT j) 16 16 1).gridInt 6)))
    ∧ (w / 2 ^ 48 % 65536 = tliCrc w → v.bit (Reg.GRID_TLI_CFG j) 5 = false → v.grid.lastSeq.lookup j = none →
      w.testBit 44 = false →
      let u : Vp := { v with grid := { v.grid with lastSeq := sput j (w / 2 ^ 32 % 256) v.grid.lastSeq } }
      let dly : Nat := u.fld (Reg.GRID_TLI_DLY j) 0 24
      let q := u.frameTime (dly * 268435456)
      let old := sget (fun _ => []) u.grid.words j
      let word : TliWord := ⟨(match old with | x :: _ => x.no + 1 | [] => 1), w / 2 ^ 32 % 256, sgn 32 w,
        ((u.tai : Int) - dly * 268435456)⟩
      let u := (u.setReg (Reg.GRID_TLI_VAL j) (w32 w)).setReg (Reg.GRID_TLI_TS j) (w32 (q.2 % 2 ^ 24 + q.1 % 64 * 2 ^ 24))
      let u := u.setReg (Reg.GRID_TLI_META j) (w32 (w / 2 ^ 32 % 256 + w / 2 ^ 40 % 16 * 256 + 2 ^ 14))
      let u := u.addFld (Reg.GRID_TLI_CNT j) 0 16 1
      exec (.tliWordReceived j w) s = .next (s.after
        (({ u with grid := { u.grid with words := sput j ((word :: old).take 64) u.grid.words } }).noteWrite (0x140 + j)))))
  ∧ (∀ (s : State) (j : Nat), s.vp.runs = true → s.vp.tliOn j = true →
    exec (.tliCodeError j) s = .next (s.after ((s.vp.addFld (Reg.GRID_TLI_CNT j) 16 16 1).gridInt 6))
    ∧ (s.vp.bit (Reg.GRID_TLI_META j) 13 = false →
      let v := ((s.vp.setBit (Reg.GRID_TLI_META j) 13 true).setBit (Reg.GRID_TLI_META j) 14 false).addFld
        (Reg.GRID_TLI_CNT2 j) 24 8 1
      exec (.tliTimeout j) s = .next (s.after ((v.gridInt 5).raise 10 (0x10 + j) 2 cor (Reg.GRID_TLI_META j)))))
  ∧ (∀ (s : State) (k sec n : Nat) (s0 : GSet), s.vp.runs = true → k < 4 → s.vp.bit (Reg.GRID_TR_CFG k) 0 = true →
    s.vp.bit (Reg.GRID_TR_CFG k) 3 = true → s.vp.isRemoved 10 k = false →
    let fs := fsOf (s.vp.bit (Reg.GRID_TR_CFG k) 1) (s.vp.fld (Reg.GRID_TR_CFG k) 20 3)
    n < fs → setAt (s.vp.tr k).sets (sec * secUnit + n * secUnit / fs : Nat) = some s0 → s.vp.grid.pq.length < 32 →
    ∃ t e, exec (.phasorEntryWritten k sec n) s = .next (s.after t) ∧ t.grid.pq = s.vp.grid.pq ++ [e] ∧ e.length = 16
      ∧ e.getD 0 0 &&& w32 0xFFFF0003 = w32 (k + n % 65536 * 65536)
      ∧ e.getD 1 0 = w32 sec)

/-! ### Cells -/

/-- Three conversions give the decision code of a configured cell that keeps time; it is shown and latched with FRAME_NO and
the cell's hash, and a frozen cell whose code reaches SAFE_CODE leaves the freeze (R81, R82, R109). The report of the latest
frame is assembled once, with its own code, 240 ns after the sample instant, and the flags of the time since the previous
report begin afresh (R132, R97). -/
def Obligations.CellSampling : Prop :=
  (∀ (s : State) (k : CellRef) (r0 r1 r2 : Int), (s.cell k).clamped = false → (s.cell k).configured = true →
    (s.cell k).isSet = true →
    let c := s.cell k
    let n := c.sampleFrame
    let x := (((c.passTo (n * c.fpU - c.leadU)).capConv r0).capConv r1).capConv r2
    let code := decisionCode (x.reg Reg.CN_ADC_CODE_CFG) (clamp14 r0) (clamp14 r1) (clamp14 r2)
    let uv := x.fld Reg.CN_PROT_UV 0 14
    let y := (if x.guarded then x.warning 1 4 (decide (clamp14 r0 < uv)) (decide (uv < clamp14 r0)) else x).setReg
      Reg.CN_ADC_CODE (w32 (code + n % 256 * 2 ^ 24))
    let z := { y with
      latches := { frame := n, code := code, h := hash y.node n } :: y.latches.take 1
      ovrng := over14 r0 || over14 r1 || over14 r2 }
    exec (.sampleInstant k r0 r1 r2) s = .next (s.setCell k
      (if z.st = stFrozen ∧ z.fld Reg.CN_PROT_FRZ 16 10 ≤ code then z.freezeExit else z)))
  ∧ (∀ (s : State) (k : CellRef) (l : Latch) (r : List Latch), (s.cell k).clamped = false →
    (s.cell k).configured = true → (s.cell k).isSet = true → (s.cell k).latches = l :: r →
    (s.cell k).report.map (·.1) ≠ some l.frame →
    let c := s.cell k
    let x := c.passTo (l.frame * c.fpU - c.leadU + 240 * nsU)
    exec (.reportAssembled k) s = .next (s.setCell k { x with
      report := some (l.frame, withCrc16 (x.reportBits l.code) x.node l.frame), missed := false, short := false
      dueFrom := if x.refreshDue then some (x.dueFrom.getD l.frame) else x.dueFrom }))

/-- At the apply instant of a cell the configuration that waits is in force, a retire command retires it first, an override
that blocks blocks it, out of a freeze too, the record of the frame is taken or missed, and the cell's own refresh may follow
(R59, R84, R99, R104, R109, R115). -/
def Obligations.CellApplyInstant : Prop :=
  ∀ (s : State) (k : CellRef), (s.cell k).clamped = false → (s.cell k).configured = true → (s.cell k).isSet = true →
    let c := s.cell k
    let f := c.applyFrame
    let x := (c.passTo (f * c.fpU + c.applyU)).applyCfg
    let y := if x.retire then x.retireNow 4 else x
    let y := if y.fld Reg.CN_SW_OVR 0 2 = 3 then
        (if y.st = stFrozen then (y.setCause cOverride true).freezeExit else y.blockSoft cOverride y.ovrDec) else y
    let z := (y.localAgain.act f).ownRefresh f
    x.pendCfg = []
    ∧ exec (.applyInstant k) s = .next (s.setCell k
        { z with applied := some f, recs := [], latches := z.latches.filter (fun l => l.frame + 1 != f) })

/-- In normal mode, for an acknowledged cell with no override or grant that is not the trim cell, the record's direction,
boundary bin and cutoff alone decide between inserted and bypassed (R59). -/
def Obligations.CellTakesThreshold : Prop :=
  ∀ (c : Cell) (r : CnRec) (l : Latch) (dec : Nat), c.fld Reg.CN_SW_OVR 0 2 = 0 → c.ackedBy r = true →
    c.grantedBy r = false → ¬ (w2TrimV r.w2 = true ∧ w2Idx r.w2 = c.idx) → w0Mode r.w0 ≠ modeAll →
    c.takeNormal r l dec = ({ (c.setCause cBlock false).setCause cUnack false with unackRun := 0 }).takeState
      (if inserts (w0Dir r.w0) (w0B r.w0) (w0C r.w0) l.code l.h then 1 else 0) dec

/-- The earliest scheduled edge of a cell falls due; a carrier period starts and its centred pulse is planned; the insertion
timer reaches REFRESH_LIMIT; a commit is taken at once when local PWM does not run, or waits for the next carrier start, with
a flag when only one half had been staged, and is refused when its KSEL is 0b11 (R86, R92, R94, R97). -/
def Obligations.CellSwitching : Prop :=
  ((∀ (s : State) (k : CellRef) (t : Nat), (s.cell k).clamped = false → earliest (s.cell k).dueTimes = some t →
    ((s.cell k).clkTo t).dueTodo t = none →
    exec (.gateEdgeDue k) s = .next (s.setCell k ((s.cell k).clkTo t).runEdges))
  ∧ (∀ (s : State) (k : CellRef) (t u : Nat) (x : Todo), (s.cell k).clamped = false →
    earliest (s.cell k).dueTimes = some t →
    let c := (s.cell k).clkTo t
    c.dueTodo t = some (u, x) →
    exec (.gateEdgeDue k) s = .next (s.setCell k ({ c with todo := c.todo.erase (u, x) }.runTodo (s.cell k).nextGate x)))
  ∧ (∀ (s : State) (k : CellRef) (p : Pwm), (s.cell k).clamped = false → (s.cell k).pwm = some p → p.isLocal = false →
    exec (.trimCarrierStart k) s = .next (s.setCell k ({ (s.cell k).clkTo p.next with
      pwm := some { p with next := p.next + ((s.cell k).clkTo p.next).fpU / kOf p.ksel } }.carrierPulse
        p.next p.ksel p.duty)))
  ∧ (∀ (s : State) (k : CellRef) (p : Pwm), (s.cell k).clamped = false → (s.cell k).pwm = some p → p.isLocal = true →
    let c := (s.cell k).clkTo p.next
    let c := match c.commit with
      | some w => { c.setReg Reg.CN_SW_PWM_WORK w with commit := none }
      | none => c
    let ksel := c.fld Reg.CN_SW_PWM_WORK 16 2
    let duty := c.fld Reg.CN_SW_PWM_WORK 0 16
    exec (.trimCarrierStart k) s = .next (s.setCell k ({ c with
      pwm := some { p with ksel := ksel, duty := duty, next := p.next + c.fpU / kOf ksel } }.carrierPulse p.next ksel duty)))
  ∧ (∀ (s : State) (k : CellRef), (s.cell k).clamped = false → (s.cell k).timerRuns = true →
    let c := s.cell k
    let x := { c with insTime := max c.insTime (c.fld Reg.CN_SW_REFRESH 0 17 * 1000 * nsU) }
    exec (.refreshLimitReached k) s = .next (s.setCell k x) ∧ x.refreshDue = true)
  ∧ (∀ (s : State) (k : CellRef), (s.cell k).clamped = false → (s.cell k).half0 = true ∨ (s.cell k).half1 = true →
    let c := s.cell k
    let x := if c.half0 && c.half1 then c else c.setBit Reg.CN_SW_STICKY 0 true
    (c.commitRefused = false → exec (.pwmCommit k) s = .next (s.setCell k
      (if c.bit Reg.CN_SYS_STATE 21 then { x with half0 := false, half1 := false, commit := some c.staged }
       else ({ x with half0 := false, half1 := false }).setReg Reg.CN_SW_PWM_WORK c.staged)))
    ∧ (c.commitRefused = true → exec (.pwmCommit k) s = .next (s.setCell k (c.setBit Reg.CN_SW_STICKY 1 true)))))
  ∧ (∀ (c : Cell) (t ksel duty : Nat),
    (duty = 0 → c.carrierPulse t ksel duty = c)
    ∧ (duty ≠ 0 →
      let tc := c.fpU / edgeU / kOf ksel
      let on := (divNear 55 (duty * tc : Nat) 65536).toNat
      c.carrierPulse t ksel duty = c.plan (t + (divNear 56 ((tc : Int) - on) 2).toNat * edgeU)
        (.excursion (t + (divNear 56 ((tc : Int) + on) 2).toNat * edgeU))))

/-- A train with a good SOT that reaches a receiver in order, at a configured cell that keeps time, is stamped, its record is
kept for the apply instant of its frame, and it goes on with the cell's slot; a receiver is orphaned no longer when the train
carries the FRAME_NO of the boundary in whose window it arrives (R135, R136, R149, R209). -/
def Obligations.CellTrainReceived : Prop :=
  ∀ (s : State) (k : CellRef) (x : CnTrain) (n : Nat) (ofs : Int), (s.cell k).clamped = false →
    ((s.cell k).lane (x.rx % 2)).good = true → x.sotOk = true → x.crcOk = true → x.errs = 0 → x.emptyOk = true →
    (s.cell k).configured = true → (s.cell k).isSet = true →
    let c := (s.cell k).passTo (x.k * (s.cell k).fpU + x.ofs * edgeU)
    c.window x = some (n, ofs) →
    let d := (if x.frame = n then c.heard (x.rx % 2) else c).stamp x n ofs
    d.isSet = true → d.configured = true →
    let e := { d with recs := d.recs ++ [x.record ofs] }
    exec (.trainReceived k x) s = .next (s.setCell k (e.repeatTrain x (e.slotData x)))

/-- An URGENT block whose content is good goes on, is counted, and turns every gate of a watched cell off (R105, R144). A
receiver that reports loss declares loss of signal, unless it has declared a loss already, or is orphaned, and its side
bridges, until it is closed when its hop had been trained (R148, R149). -/
def Obligations.CellLineEvents : Prop :=
  (∀ (s : State) (k : CellRef) (rx content : Nat), (s.cell k).clamped = false →
    ((s.cell k).lane (rx % 2)).good = true → crc8Ok content = true → urgentOk content = true →
    let c := ((((s.cell k).outputs (rx % 2)).foldl (fun c o => c.send o.1 (.urgent content)) (s.cell k)).inc
      Reg.CN_LANE_URG_CNT).setBit Reg.CN_PROT_STAT 10 true
    exec (.urgentBlockReceived k rx content) s = .next (s.setCell k
      (if c.guarded then { c.blockNow cUrgent with urgent := true } else c)))
  ∧ ((∀ (s : State) (k : CellRef) (side : Bool), (s.cell k).clamped = false →
    let c := if ((s.cell k).lane (rxOf side)).good then (s.cell k).onLane (rxOf side) (fun x => x.declare 0 0) else s.cell k
    exec (.cellLossOfSignal k side) s = .next (s.setCell k
      (if c.trained.testBit (b2n side) then { c with broken := putBit c.broken (b2n side) true }.sync else c.sync)))
  ∧ (∀ (s : State) (k : CellRef) (side : Bool), (s.cell k).clamped = false →
    let c := { s.cell k with orphan := putBit (s.cell k).orphan (b2n side) true }
    exec (.orphanTimeout k side) s = .next (s.setCell k
      (if c.trained.testBit (b2n side) then { c with broken := putBit c.broken (b2n side) true }.sync else c.sync))))

/-- A cell takes θ once per frame by the first method that can be used, once its configuration has ended; trains of another
FRAME_NO whose θ' lies within the window renumber the cell; before its time is set a stamp sets it; a frame without a
measurement is counted; a calibration of the delay lines is shown (R213, R217, R219, R220, R222). -/
def Obligations.CellTime : Prop :=
  (∀ (s : State) (k : CellRef) (m : Meas), (s.cell k).clamped = false →
    (s.cell k).bit Reg.CN_SYS_CFG_STAT 0 = true →
    let g := (s.cell k).stamps
    let c := ({ s.cell k with stamps := [] }.showStamps g).noteN g
    let own := g.filter (fun x => x.frame == x.k)
    c.isSet = true → c.renumber (g.filter (fun x => x.frame != x.k)) = none → c.theta own = some m →
    exec (.cnThetaUpdate k) s = .next (s.setCell k (c.measured own m)))
  ∧ (∀ (s : State) (k : CellRef) (b f : Nat) (m : Meas), (s.cell k).clamped = false →
    (s.cell k).bit Reg.CN_SYS_CFG_STAT 0 = true →
    let g := (s.cell k).stamps
    let c := ({ s.cell k with stamps := [] }.showStamps g).noteN g
    let alien := g.filter (fun x => x.frame != x.k)
    c.isSet = true → c.renumber alien = some (b, f, m) →
    let other := alien.filter (fun x => x.frame == f)
    let y := (c.adopt b f other).measured other m
    exec (.cnThetaUpdate k) s = .next (s.setCell k (if y.orphan = (s.cell k).orphan then y else y.sync)))
  ∧ (∀ (s : State) (k : CellRef), (s.cell k).clamped = false → (s.cell k).bit Reg.CN_SYS_CFG_STAT 0 = true →
    let g := (s.cell k).stamps
    let c := ({ s.cell k with stamps := [] }.showStamps g).noteN g
    c.isSet = true → c.renumber (g.filter (fun x => x.frame != x.k)) = none →
    c.theta (g.filter (fun x => x.frame == x.k)) = none →
    exec (.cnThetaUpdate k) s = .next (s.setCell k c.unmeasured))
  ∧ (∀ (s : State) (k : CellRef) (x : Stamp) (e : Rat), (s.cell k).clamped = false →
    (s.cell k).bit Reg.CN_SYS_CFG_STAT 0 = true →
    let g := (s.cell k).stamps
    let c := ({ s.cell k with stamps := [] }.showStamps g).noteN g
    c.isSet = false → c.setter g = some (x, e) →
    exec (.cnThetaUpdate k) s = .next (s.setCell k (c.setTime x e)))
  ∧ (∀ (s : State) (k : CellRef) (dl : Nat), (s.cell k).clamped = false →
    exec (.delayLineCalibration k dl) s = .next (s.setCell k ((s.cell k).setReg Reg.CN_TIME_DL (w32 (dl % 1024)))))

/-- When the boundary that a register of a cell names comes, what is pending is in force and the register reads 0 again:
overrides, closes, and changes of the sampling times (R73, R84, R153, R230, R501). With no close armed, CN_LANE_CLOSE_AT
keeps the boundary that has passed (R501). -/
def Obligations.CellBoundaries : Prop :=
  (∀ (s : State) (k : CellRef) (a : Nat), (s.cell k).clamped = false → (s.cell k).isSet = true →
    (s.cell k).reg Reg.CN_SW_OVR_AT ≠ 0 → a ≠ 3 →
    let c := (s.cell k).toBoundary Reg.CN_SW_OVR_AT
    c.pendOvr = some a →
    exec (.overrideAtBoundary k) s = .next (s.setCell k
      { ((((c.setReg Reg.CN_SW_OVR (w32 a)).setBit Reg.CN_SYS_STATE 20 (a != 0)).setCause cOverride false).setReg
        Reg.CN_SW_OVR_AT 0) with pendOvr := none }))
  ∧ (∀ (s : State) (k : CellRef), (s.cell k).clamped = false → (s.cell k).isSet = true →
    (s.cell k).reg Reg.CN_LANE_CLOSE_AT ≠ 0 →
    ((s.cell k).fld Reg.CN_LANE_CLOSE_CTL 0 2 ≠ 0 →
      let c := (((s.cell k).toBoundary Reg.CN_LANE_CLOSE_AT).closeSide false).closeSide true
      exec (.closeAtBoundary k) s = .next (s.setCell k
        ((c.setReg Reg.CN_LANE_CLOSE_AT 0).setReg Reg.CN_LANE_CLOSE_CTL 0).sync))
    ∧ ((s.cell k).fld Reg.CN_LANE_CLOSE_CTL 0 2 = 0 →
      exec (.closeAtBoundary k) s = .next (s.setCell k (s.cell k))))
  ∧ (∀ (s : State) (k : CellRef) (x y : Nat), (s.cell k).clamped = false → (s.cell k).isSet = true →
    (s.cell k).reg Reg.CN_TIME_CHG_AT ≠ 0 →
    let c := (s.cell k).toBoundary Reg.CN_TIME_CHG_AT
    c.pendLead = some x → c.pendApply = some y →
    exec (.timeChangeAtBoundary k) s = .next (s.setCell k
      { (((c.setReg Reg.CN_TIME_SLEAD (w32 x)).setReg Reg.CN_TIME_APPLY (w32 y)).setReg Reg.CN_TIME_CHG_AT 0) with
        pendLead := none, pendApply := none }))

/-- Management packets whose checks match, addressed to the cell and accepted in its state, with a TAG that has not been
applied: what each does, and its answer (R137, R138, R141, R474). A packet with a reserved opcode or one that the cell's
state does not accept is answered 0x03, one with a bad DCRC 0x04, one whose TAG has been applied 0x01 again, one that names a
word outside the map 0x02, one of whose words is refused 0x03 with the flags of the refusal, a CONFIG_END whose CRC does not
match 0x05, and a RESET without its key 0x03, each without another effect; a packet for another cell passes. -/
def Obligations.CellPackets : Prop :=
  (∀ (s : State) (k : CellRef) (p : CnPkt), (s.cell k).clamped = false → ((s.cell k).lane (p.rx % 2)).good = true →
    crc8Ok p.mgs = true → (s.cell k).addressed p = true → p.dcrcOk = true → (s.cell k).repeated p = false →
    (s.cell k).opcRefused p = false →
    let c := s.cell k
    (p.opc = 0 → p.addrs.all cnInMap = true →
      let bs := readBlocks ((c.readAll p.addrs).1.map (·.toNat)) p.blocks
      exec (.mgRead k p) s = .next (s.setCell k
        ((c.readAll p.addrs).2.answer p 1 bs (crc32Words (blockWords bs)))))
    ∧ (p.opc = 1 → p.addrs.all cnInMap = true → p.writes.any (c.wordRefused p.writes false) = false →
      exec (.mgWrite k p) s = .next (s.setCell k
        (((p.writes.foldl (Cell.wordIn false) c).keepTag p).answer p 1 p.blocks p.dcrc)))
    ∧ (p.opc = 2 → (c.configIn p).1 = 1 →
      exec (.mgConfig k p) s = .next (s.setCell k (((c.configIn p).2.keepTag p).answer p 1 p.blocks p.dcrc)))
    ∧ (p.opc = 3 → p.blocks.getD 0 0 % 2 ^ 32 = (c.reg Reg.CN_SYS_CFG_CRC).toNat →
      exec (.mgConfigEnd k p) s = .next (s.setCell k
        ((((if (((c.setBit Reg.CN_SYS_CFG_STAT 0 true).hkSync)).cfgRetire
            then ((c.setBit Reg.CN_SYS_CFG_STAT 0 true).hkSync).enterRetired 4
            else { (((c.setBit Reg.CN_SYS_CFG_STAT 0 true).hkSync).setBit Reg.CN_ADC_STAT 0 true) with
              calib := true }).keepTag p)).answer p 1 p.blocks p.dcrc)))
    ∧ (p.opc = 4 → p.addrs.all cnInMap = true → p.blocks.getD 0 0 % 2 ^ 32 = 0xA5 →
      exec (.mgReset k p) s = .next (s.setCell k
        { ((((c.keepTag p).answer p 1 p.blocks p.dcrc).reset 1).keepTag p) with
          sent := ((c.keepTag p).answer p 1 p.blocks p.dcrc).sent })))
  ∧ (∀ (s : State) (k : CellRef) (p : CnPkt), (s.cell k).clamped = false → ((s.cell k).lane (p.rx % 2)).good = true →
    crc8Ok p.mgs = true →
    let c := s.cell k
    (5 ≤ p.opc → c.addressed p = true → p.dcrcOk = true →
      exec (.mgReservedOpcode k p) s = .next (s.setCell k (c.answer p 3 p.blocks p.dcrc)))
    ∧ (p.opc = 1 → c.addressed p = true → p.dcrcOk = false →
      exec (.mgWrite k p) s = .next (s.setCell k (c.answer p 4 p.blocks p.dcrc)))
    ∧ (p.opc = 1 → c.addressed p = true → p.dcrcOk = true → c.repeated p = true →
      exec (.mgWrite k p) s = .next (s.setCell k (c.answer p 1 p.blocks p.dcrc)))
    ∧ (p.opc = 1 → c.addressed p = true → p.dcrcOk = true → c.repeated p = false → c.configured = false →
      exec (.mgWrite k p) s = .next (s.setCell k (c.answer p 3 p.blocks p.dcrc)))
    ∧ (p.opc = 1 → c.addressed p = true → p.dcrcOk = true → c.repeated p = false → c.configured = true →
      (p.addrs.any (fun a => !cnInMap a) = true → exec (.mgWrite k p) s = .next (s.setCell k (c.answer p 2 p.blocks p.dcrc)))
      ∧ (p.addrs.all cnInMap = true → p.writes.any (c.wordRefused p.writes false) = true →
        exec (.mgWrite k p) s = .next (s.setCell k
          ((p.writes.foldl (fun c x => c.flagRefused p.writes false x) c).answer p 3 p.blocks p.dcrc))))
    ∧ (p.opc = 3 → c.addressed p = true → p.dcrcOk = true → c.repeated p = false → c.configured = false →
      p.blocks.getD 0 0 % 2 ^ 32 ≠ (c.reg Reg.CN_SYS_CFG_CRC).toNat →
      exec (.mgConfigEnd k p) s = .next (s.setCell k (c.answer p 5 p.blocks p.dcrc)))
    ∧ (p.opc = 4 → c.addressed p = true → p.dcrcOk = true → c.repeated p = false → c.configured = true →
      p.addrs.all cnInMap = true → p.blocks.getD 0 0 % 2 ^ 32 ≠ 0xA5 →
      exec (.mgReset k p) s = .next (s.setCell k (c.answer p 3 p.blocks p.dcrc)))
    ∧ (p.opc = 1 → c.addressed p = false →
      exec (.mgWrite k p) s = .next (s.setCell k (c.passPacket p p.blocks p.dcrc p.mge))))

/-- The mailbox, memory errors of the housekeeping core and its own writes (R113); calibration ends in Blocked, with the
cause of a supply that counts as lost, recalibration goes through its two slices, a parity error blocks until the
configuration is rewritten, and conversions of AIN_CAP show, those above OV_TRIP counting on towards OV_COUNT (R100, R112).
-/
def Obligations.CellServices : Prop :=
  ((∀ (s : State) (k : CellRef) (w : Word), (s.cell k).clamped = false →
    exec (.mboxInWrite k w) s = .next (s.setCell k { (s.cell k).setReg (Reg.CN_HK_MBOX_IN 7) w with hkIrq := true }))
  ∧ (∀ (s : State) (k : CellRef) (w : Word), (s.cell k).clamped = false →
    exec (.mboxOutWrite k w) s = .next (s.setCell k { (s.cell k).setReg (Reg.CN_HK_MBOX_OUT 7) w with mbox := true }))
  ∧ (∀ (s : State) (k : CellRef), (s.cell k).clamped = false → (s.cell k).bit Reg.CN_SYS_PWR 0 = true →
    exec (.hkMemoryError k) s = .next (s.setCell k { (s.cell k).setFld Reg.CN_HK_STAT 8 8
      (min ((s.cell k).fld Reg.CN_HK_STAT 8 8 + 1) 255) with hkIrq := false }))
  ∧ (∀ (s : State) (k : CellRef) (a : Nat) (w : Word) (g : Bool), (s.cell k).clamped = false →
    (s.cell k).bit Reg.CN_HK_STAT 0 = true →
    (0x4000 ≤ a ∧ a < 0x8000 → exec (.registerWrite (.hk k) a w g) s = .next (s.setCell k
      { s.cell k with hkMem := msetW (s.cell k).hkMem (4 * (a - 0x4000)) w }))
    ∧ (0x400 ≤ a ∧ a < 0x1800 → exec (.registerWrite (.hk k) a w g) s = .next (s.setCell k
      ((s.cell k).inc Reg.CN_HK_DENY_CNT)))))
  ∧ ((∀ (s : State) (k : CellRef), (s.cell k).clamped = false → (s.cell k).calib = true → (s.cell k).st = stUnconf →
    exec (.cnCalibrationDone k) s = .next (s.setCell k
      { ((((s.cell k).setBit Reg.CN_SYS_CFG_STAT 1 true).setBit Reg.CN_ADC_STAT 0 false).setSt stBlocked) with
        calib := false }.supplyBlock))
  ∧ (∀ (s : State) (k : CellRef), (s.cell k).clamped = false → (s.cell k).st = stBlocked → (s.cell k).recal = 0 →
    exec (.cnAdcCal k) s = .next (s.setCell k { (s.cell k).setBit Reg.CN_ADC_STAT 0 true with recal := 1 }))
  ∧ (∀ (s : State) (k : CellRef), (s.cell k).clamped = false →
    ((s.cell k).recal = 1 → exec (.cnRecalStageDone k) s = .next (s.setCell k { s.cell k with recal := 2 }))
    ∧ ((s.cell k).recal = 2 → exec (.cnRecalStageDone k) s = .next (s.setCell k
        { (s.cell k).setBit Reg.CN_ADC_STAT 0 false with recal := 0 })))
  ∧ (∀ (s : State) (k : CellRef), (s.cell k).clamped = false → (s.cell k).guarded = true →
    exec (.configParityError k) s = .next (s.setCell k
      { (((s.cell k).setBit Reg.CN_SYS_CFG_STAT 3 true).blockNow cParity) with rewritten := false }))
  ∧ (∀ (s : State) (k : CellRef), (s.cell k).clamped = false → (s.cell k).rewritten = true →
    exec (.clearParityCause k) s = .next (s.setCell k ((s.cell k).setCause cParity false)))
  ∧ (∀ (s : State) (k : CellRef) (raw : Int), (s.cell k).clamped = false → 0 ≤ raw → raw ≤ 16383 →
    let c := (s.cell k).setReg Reg.CN_ADC_CAP (w32 (clamp14 raw))
    let warn := c.fld Reg.CN_PROT_OV 16 14
    let y := c.warning 0 3 (decide (warn < clamp14 raw)) (decide (clamp14 raw < warn))
    (c.guarded = false → exec (.capacitorHigh k raw) s = .next (s.setCell k { c with ovRun := 0 }))
    ∧ (c.guarded = true → clamp14 raw ≤ y.fld Reg.CN_PROT_OV 0 14 → 0 < y.fld Reg.CN_PROT_CFG0 28 2 →
      exec (.capacitorHigh k raw) s = .next (s.setCell k { y with ovRun := 0 }))
    ∧ (c.guarded = true → y.fld Reg.CN_PROT_OV 0 14 < clamp14 raw →
      let z := { y with ovRun := y.ovRun + 1 }
      exec (.capacitorHigh k raw) s = .next (s.setCell k
        (if y.fld Reg.CN_PROT_CFG0 28 2 ≤ y.ovRun + 1 then z.retireNow 3 else z)))))

/-- A desaturation, an over-voltage or a keyed command retires a watched cell, and the bypass sequence runs: BYP_FAST, then
BYP_MECH (R100, R102, R104). -/
def Obligations.CellRetires : Prop :=
  (∀ (s : State) (k : CellRef) (b chat : Bool), (s.cell k).clamped = false → (s.cell k).guarded = true →
    let x := if chat then { s.cell k with chatter := putBit (s.cell k).chatter (b2n b) true }.setBit Reg.CN_PROT_STAT 9 true
      else s.cell k
    exec (.desatTrip k b chat) s = .next (s.setCell k (x.enterRetired (if b then 2 else 1))))
  ∧ (∀ (s : State) (k : CellRef) (raws : List Int) (raw : Int), (s.cell k).clamped = false → raw ≤ 16383 → 0 ≤ raw →
    let x := raws.foldl Cell.capConv (s.cell k)
    x.guarded = true → x.fld Reg.CN_PROT_OV 0 14 < clamp14 raw → x.fld Reg.CN_PROT_CFG0 28 2 ≤ x.ovRun + 1 →
    let c := x.setReg Reg.CN_ADC_CAP (w32 (clamp14 raw))
    let warn := x.fld Reg.CN_PROT_OV 16 14
    let y := c.warning 0 3 (decide (warn < clamp14 raw)) (decide (clamp14 raw < warn))
    exec (.overVoltageTrip k (raws ++ [raw])) s = .next (s.setCell k
      ({ y with ovRun := x.ovRun + 1 }.enterRetired 3)))
  ∧ (∀ (s : State) (k : CellRef), (s.cell k).clamped = false → (s.cell k).guarded = true → (s.cell k).isSet = true →
    let c := { s.cell k with retire := true }
    exec (.cnRetireCommand k (w32 0x00A50001)) s = .next (s.setCell k
      ((c.passTo (c.applyFrame * c.fpU + c.applyU)).retireNow 4)))
  ∧ (∀ (s : State) (k : CellRef), (s.cell k).clamped = false → (s.cell k).st = stRetired → (s.cell k).fast = false →
    let c := (s.cell k).clkTo (s.cell k).fastAt
    exec (.bypFastAssert k) s = .next (s.setCell k { c with fast := true, mechAt := c.clk + c.mechU }))
  ∧ (∀ (s : State) (k : CellRef), (s.cell k).clamped = false → (s.cell k).st = stRetired → (s.cell k).fast = true →
    (s.cell k).mech = false →
    exec (.bypMechAssert k) s = .next (s.setCell k { (s.cell k).clkTo (s.cell k).mechAt with mech := true }))

/-- Whatever the cause, a cell that enters Retired shows the state and its cause, all gate outputs are low with nothing
scheduled, and BYP_FAST_DELAY runs from then; a block cause leads a watched cell into Blocked in the same way, and out of a
freeze FREEZE_EXIT stands beside the cause (R78, R91, R102, R109). -/
def Obligations.ProtectiveStates : Prop :=
  (∀ (c : Cell) (cause : Nat), c.safe = true → cause < 8 →
    let d := c.enterRetired cause
    d.st = stRetired ∧ d.fld Reg.CN_SYS_STATE 17 3 = cause ∧ d.stageOff = true ∧ d.fastAt = c.clk + d.fastU
      ∧ d.bit Reg.CN_PROT_FRZ 0 = false)
  ∧ (∀ (c : Cell) (cause : Nat), c.safe = true → c.guarded = true → cause ≤ 7 →
    let d := c.blockNow cause
    d.st = stBlocked ∧ d.stageOff = true ∧ d.hasCause cause = true
      ∧ (c.st = stFrozen → d.hasCause cFreeze = true ∧ d.bit Reg.CN_PROT_FRZ 0 = false))

/-- A freeze holds the gates where they stand; a frozen cell takes a SAFE_CODE above its code, and any other write of FREEZE
= 1 is refused; the freeze ends by command, Blocked, with every gate low (R107 to R109). Loss of the gate supply and a
temperature above its limit block a watched cell, and both causes clear with their conditions (R100, R101, R110). -/
def Obligations.CellBlocking : Prop :=
  ((∀ (s : State) (k : CellRef) (w : Word), (s.cell k).clamped = false →
    (s.cell k).st = stActive ∨ (s.cell k).st = stBlocked → bit w 0 = true → (s.cell k).code < fld w 16 10 →
    exec (.cnFreeze k w) s = .next (s.setCell k
      (((((s.cell k).setReg Reg.CN_PROT_FRZ (w &&& w32 0x3FF0001)).holdGates).setLocal false).setSt stFrozen)))
  ∧ (∀ (s : State) (k : CellRef) (w : Word), (s.cell k).clamped = false → (s.cell k).st = stFrozen → bit w 0 = true →
    (s.cell k).code < fld w 16 10 →
    exec (.cnFreeze k w) s = .next (s.setCell k ((s.cell k).setReg Reg.CN_PROT_FRZ (w &&& w32 0x3FF0001))))
  ∧ (∀ (s : State) (k : CellRef) (w : Word), (s.cell k).clamped = false → bit w 0 = true →
    ¬ (((s.cell k).st = stActive ∨ (s.cell k).st = stBlocked ∨ (s.cell k).st = stFrozen) ∧ (s.cell k).code < fld w 16 10) →
    exec (.cnFreeze k w) s = .next (s.setCell k ((s.cell k).setBit Reg.CN_PROT_STAT 11 true)))
  ∧ (∀ (s : State) (k : CellRef), (s.cell k).clamped = false → (s.cell k).st = stFrozen →
    exec (.cnFreezeExit k) s = .next (s.setCell k
      ((((s.cell k).allLow.setCause cFreeze true).setSt stBlocked).thaw))))
  ∧ ((∀ (s : State) (k : CellRef), (s.cell k).clamped = false → (s.cell k).guarded = true →
    exec (.gateSupplyLost k false) s = .next (s.setCell k
      (({ s.cell k with gsup := false }.setBit Reg.CN_PROT_STAT 8 true).blockNow cSupply))
    ∧ exec (.gateSupplyLost k true) s = .next (s.setCell k
      ((({ s.cell k with chatter := putBit (s.cell k).chatter 2 true }.setBit Reg.CN_PROT_STAT 9 true).setBit
        Reg.CN_PROT_STAT 8 true).blockNow cSupply)))
  ∧ (∀ (s : State) (k : CellRef), (s.cell k).clamped = false →
    let c := { s.cell k with gsup := true }
    exec (.gateSupplyRestored k) s = .next (s.setCell k
      (if (s.cell k).chatter.testBit 2 then c else c.setCause cSupply false)))
  ∧ (∀ (s : State) (k : CellRef) (pin : Nat), (s.cell k).clamped = false → pin ≤ 2 →
    let c := { s.cell k with chatter := putBit (s.cell k).chatter pin false }
    exec (.cnChatterCleared k pin) s = .next (s.setCell k
      (if pin = 2 ∧ (s.cell k).gsup = true then c.setCause cSupply false else c)))
  ∧ (∀ (s : State) (k : CellRef) (raws : List Int), (s.cell k).clamped = false → (s.cell k).calib = false →
    (s.cell k).recal = 0 → (s.cell k).auxNext = 0 → raws.length = 64 → raws.any over14 = false →
    let y := (divAny 57 ((raws.drop 32).foldl (fun s r => s + (clamp14 r : Int)) 0) 32).toNat
    let c := { (s.cell k).setReg (Reg.CN_ADC_AUX 0) (w32 y) with auxNext := 1 }
    c.guarded = true → c.fld Reg.CN_PROT_TEMP 16 14 < y → c.fld Reg.CN_PROT_TEMP 0 14 < y →
    exec (.auxResult k 0 raws) s = .next (s.setCell k
      (((c.warning 2 6 true false).setBit Reg.CN_PROT_STAT 5 true).blockNow cTemp))))

/-- Each reset of a cell leads into Unconfigured with its cause shown, all gate outputs low and its bypass outputs high
impedance; a cell whose root PLL is lost holds its gate pins at their off levels; an instruction is loaded into its test
access port (R460, R470, R474, R493). -/
def Obligations.CellResets : Prop :=
  (∀ (s : State) (k : CellRef) (b : Bool), s.safe = true → ∃ y, exec (.cnPowerOnReset k b) s = .next (s.setCell k y)
    ∧ y.st = stUnconf ∧ y.rstCause = 1 ∧ y.stageOff = true ∧ y.bypPins = none ∧ y.bit Reg.CN_SYS_PWR 1 = b)
  ∧ (∀ (s : State) (k : CellRef), ∃ y, exec (.laneWatchdog k) s = .next (s.setCell k y)
    ∧ y.st = stUnconf ∧ y.rstCause = 4 ∧ y.stageOff = true ∧ y.bypPins = none ∧ y.tap = (s.cell k).tap)
  ∧ (∀ (s : State) (k : CellRef) (g w : Bool), (s.cell k).clamped = true →
    ∃ y, exec (.pllRelock (.cell k) g w) s = .next (s.setCell k y)
      ∧ y.st = stUnconf ∧ y.rstCause = 4 ∧ y.stageOff = true ∧ y.clamped = false)
  ∧ (∀ (s : State) (k : CellRef) (g : Bool), (s.cell k).clamped = false →
    let y := { s.cell k with clamped := true }
    exec (.pllLossOfLock (.cell k) g) s = .next (s.setCell k y)
    ∧ (y.configured = true → y.tap ≠ .extest → y.bit Reg.CN_SW_CFG 2 = false → y.pin .ah = false ∧ y.pin .al = false))
  ∧ (∀ (s : State) (k : CellRef) (t : Tap), t ≠ .extestPulse → t ≠ .extestTrain → t ≠ .debug →
    exec (.tapInstructionLoad (some k) t) s = .next (s.setCell k { s.cell k with tap := t }))
end

