-- ==== Sys2Proof/Laws/Ops.lean ====
section
/-!
SUPPORT. Laws of sparse maps, of memory and of the fields of a word.
-/

namespace Sys2Proof.Machine

variable {α : Type}

/-! ### Reads after writes of a sparse map -/

theorem sget_sput_same (d : Nat → α) (m : List (Nat × α)) (k : Nat) (a : α) : sget d (sput k a m) k = a := by
  induction m with
  | nil => simp [sput, sget]
  | cons p m ih =>
    obtain ⟨k', a'⟩ := p
    simp only [sput]
    split
    · simp [sget]
    · split
      · simp [sget]
      · have h : k' ≠ k := by omega
        simp [sget, h, ih]

theorem sget_sput_other (d : Nat → α) (m : List (Nat × α)) {k j : Nat} (a : α) (h : j ≠ k) :
    sget d (sput k a m) j = sget d m j := by
  induction m with
  | nil => simp [sput, sget, Ne.symm h]
  | cons p m ih =>
    obtain ⟨k', a'⟩ := p
    simp only [sput]
    split
    · simp [sget, Ne.symm h]
    · split
      · rename_i e; subst e; simp [sget, Ne.symm h]
      · simp [sget, ih]

theorem sget_sdel_other (d : Nat → α) (m : List (Nat × α)) {k j : Nat} (h : j ≠ k) :
    sget d (sdel k m) j = sget d m j := by
  induction m with
  | nil => rfl
  | cons p m ih =>
    obtain ⟨k', a'⟩ := p
    simp only [sdel]
    split
    · rename_i e; subst e; simp [sget, Ne.symm h, ih]
    · simp [sget, ih]

theorem sget_sdel_same (d : Nat → α) (m : List (Nat × α)) (k : Nat) : sget d (sdel k m) k = d k := by
  induction m with
  | nil => rfl
  | cons p m ih =>
    obtain ⟨k', a⟩ := p
    simp only [sdel]
    split
    · exact ih
    · rename_i e
      simp only [sget, e, if_false]
      exact ih

variable [DecidableEq α]

/-- A read after a write to the same key gives the value written. -/
theorem sget_sset_same (d : Nat → α) (m : List (Nat × α)) (k : Nat) (a : α) : sget d (sset d m k a) k = a := by
  unfold sset; split
  · rename_i e; rw [sget_sdel_same, e]
  · exact sget_sput_same d m k a

/-- A write leaves what other keys read as. -/
theorem sget_sset_other (d : Nat → α) (m : List (Nat × α)) {k j : Nat} (a : α) (h : j ≠ k) :
    sget d (sset d m k a) j = sget d m j := by
  unfold sset; split
  · exact sget_sdel_other d m h
  · exact sget_sput_other d m a h

/-! ### The canonical form -/

theorem swfFrom_weaken (d : Nat → α) {lo : Nat} {m : List (Nat × α)} (h : swfFrom d (some lo) m = true) (o : Option Nat)
    (ho : ∀ l, o = some l → l ≤ lo) : swfFrom d o m = true := by
  cases m with
  | nil => rfl
  | cons p m =>
    obtain ⟨k, a⟩ := p
    simp only [swfFrom, Bool.and_eq_true, decide_eq_true_eq] at h ⊢
    refine ⟨⟨?_, h.1.2⟩, h.2⟩
    cases o with
    | none => rfl
    | some l => simpa using Nat.lt_of_le_of_lt (ho l rfl) h.1.1

theorem sget_above (d : Nat → α) {lo : Nat} {m : List (Nat × α)} (h : swfFrom d (some lo) m = true) {k : Nat}
    (hk : k ≤ lo) : sget d m k = d k := by
  induction m generalizing lo with
  | nil => rfl
  | cons p m ih =>
    obtain ⟨k', a⟩ := p
    simp only [swfFrom, Bool.and_eq_true, decide_eq_true_eq] at h
    have : k' ≠ k := by omega
    simp only [sget, this, if_false]
    exact ih h.2 (by omega)

theorem swfFrom_sdel (d : Nat → α) {o : Option Nat} {m : List (Nat × α)} (h : swfFrom d o m = true) (k : Nat) :
    swfFrom d o (sdel k m) = true := by
  induction m generalizing o with
  | nil => rfl
  | cons p m ih =>
    obtain ⟨k', a⟩ := p
    have h' := h
    simp only [swfFrom, Bool.and_eq_true] at h
    simp only [sdel]
    split
    · refine swfFrom_weaken d (ih h.2) o ?_
      intro l e; subst e
      have := h.1.1; simp at this; omega
    · simp only [swfFrom, Bool.and_eq_true]
      exact ⟨h.1, ih h.2⟩

theorem swfFrom_cons (d : Nat → α) {o : Option Nat} {k : Nat} {a : α} {m : List (Nat × α)}
    (ho : ∀ l, o = some l → l < k) (ha : a ≠ d k) (h : swfFrom d (some k) m = true) :
    swfFrom d o ((k, a) :: m) = true := by
  cases o with
  | none => simp [swfFrom, ha, h]
  | some l => simp [swfFrom, ha, h, ho l rfl]

theorem swfFrom_sput (d : Nat → α) {o : Option Nat} {m : List (Nat × α)} (h : swfFrom d o m = true) (k : Nat) (a : α)
    (hk : ∀ l, o = some l → l < k) (ha : a ≠ d k) : swfFrom d o (sput k a m) = true := by
  induction m generalizing o with
  | nil => exact swfFrom_cons d hk ha rfl
  | cons p m ih =>
    obtain ⟨k', a'⟩ := p
    have h' := h
    simp only [swfFrom, Bool.and_eq_true, decide_eq_true_eq] at h'
    simp only [sput]
    split
    · rename_i e
      exact swfFrom_cons d hk ha (swfFrom_cons d (by intro l el; cases el; exact e) h'.1.2 h'.2)
    · split
      · rename_i e; subst e; exact swfFrom_cons d hk ha h'.2
      · have hk' : k' < k := by omega
        refine swfFrom_cons d ?_ h'.1.2 (ih h'.2 (by intro l el; cases el; exact hk'))
        intro l e; subst e
        simpa using h'.1.1

/-- A write keeps the canonical form. -/
theorem swf_sset (d : Nat → α) {m : List (Nat × α)} (h : swf d m = true) (k : Nat) (a : α) :
    swf d (sset d m k a) = true := by
  unfold sset; split
  · exact swfFrom_sdel d h k
  · rename_i ha
    exact swfFrom_sput d h k a (by intro l e; cases e) ha

omit [DecidableEq α] in
/-- What a map holds is an entry or what an unlisted key reads as. -/
theorem sget_mem_or (d : Nat → α) (m : List (Nat × α)) (k : Nat) : sget d m k = d k ∨ (k, sget d m k) ∈ m := by
  induction m with
  | nil => exact .inl rfl
  | cons p m ih =>
    obtain ⟨k', a⟩ := p
    by_cases e : k' = k
    · subst e; simp [sget]
    · simp only [sget, e, if_false]
      rcases ih with h | h
      · exact .inl h
      · exact .inr (List.mem_cons_of_mem _ h)

omit [DecidableEq α] in
theorem mem_sput {m : List (Nat × α)} {k : Nat} {a : α} {p : Nat × α} (h : p ∈ sput k a m) : p = (k, a) ∨ p ∈ m := by
  induction m with
  | nil => simpa [sput] using h
  | cons q m ih =>
    obtain ⟨k', a'⟩ := q
    simp only [sput] at h
    split at h
    · simpa using h
    · split at h
      · rcases List.mem_cons.mp h with h | h
        · exact .inl h
        · exact .inr (List.mem_cons_of_mem _ h)
      · rcases List.mem_cons.mp h with h | h
        · exact .inr (h ▸ List.mem_cons_self ..)
        · rcases ih h with h | h
          · exact .inl h
          · exact .inr (List.mem_cons_of_mem _ h)

omit [DecidableEq α] in
theorem mem_sdel {m : List (Nat × α)} {k : Nat} {p : Nat × α} (h : p ∈ sdel k m) : p ∈ m := by
  induction m with
  | nil => simp [sdel] at h
  | cons q m ih =>
    obtain ⟨k', a'⟩ := q
    simp only [sdel] at h
    split at h
    · exact List.mem_cons_of_mem _ (ih h)
    · rcases List.mem_cons.mp h with h | h
      · exact h ▸ List.mem_cons_self ..
      · exact List.mem_cons_of_mem _ (ih h)

/-- An entry after a write is the one written or one that stood. -/
theorem mem_sset {d : Nat → α} {m : List (Nat × α)} {k : Nat} {a : α} {p : Nat × α} (h : p ∈ sset d m k a) :
    p = (k, a) ∨ p ∈ m := by
  unfold sset at h; split at h
  · exact .inr (mem_sdel h)
  · exact mem_sput h

omit [DecidableEq α] in
theorem sget_filter (d : Nat → α) (m : List (Nat × α)) (p : Nat × α → Bool) (k : Nat) (h : ∀ a, p (k, a) = true) :
    sget d (m.filter p) k = sget d m k := by
  induction m with
  | nil => rfl
  | cons q m ih =>
    obtain ⟨k', a⟩ := q
    by_cases e : k' = k
    · subst e; simp [List.filter, h, sget]
    · simp only [List.filter]
      split <;> simp [sget, e, ih]

theorem swf_filter (d : Nat → α) {m : List (Nat × α)} (p : Nat × α → Bool) (h : swf d m = true) :
    swf d (m.filter p) = true := by
  have go : ∀ (m : List (Nat × α)) (o : Option Nat), swfFrom d o m = true → swfFrom d o (m.filter p) = true := by
    intro m
    induction m with
    | nil => intro o _; rfl
    | cons q m ih =>
      intro o h
      obtain ⟨k', a⟩ := q
      simp only [swfFrom, Bool.and_eq_true] at h
      simp only [List.filter]
      split
      · simp only [swfFrom, Bool.and_eq_true]
        exact ⟨h.1, ih _ h.2⟩
      · refine ih o (swfFrom_weaken d h.2 o ?_)
        intro l e; subst e
        have := h.1.1; simp at this; omega
  exact go m none h

/-! ### Memory -/

theorem wf_mset {m : List Host.Cell} (h : Memory.wf m = true) (a : Nat) (b : Byte) : Memory.wf (mset m a b) = true :=
  swf_sset _ h a b

theorem wf_msetW {m : List Host.Cell} (h : Memory.wf m = true) (a : Nat) (w : Word) : Memory.wf (msetW m a w) = true := by
  unfold msetW
  exact wf_mset (wf_mset (wf_mset (wf_mset h _ _) _ _) _ _) _ _

theorem wf_msetWs {m : List Host.Cell} (h : Memory.wf m = true) (a : Nat) (ws : List Word) :
    Memory.wf (msetWs m a ws) = true := by
  induction ws generalizing m a with
  | nil => exact h
  | cons w ws ih => exact ih (wf_msetW h a w) (a + 4)

theorem mget_mset_same (m : List Host.Cell) (a : Nat) (b : Byte) : mget (mset m a b) a = b :=
  sget_sset_same _ m a b

theorem mget_mset_other (m : List Host.Cell) {a j : Nat} (b : Byte) (h : j ≠ a) : mget (mset m a b) j = mget m j :=
  sget_sset_other _ m b h

/-! ### Fields of a word -/

theorem fld_lt (w : Word) (lo len : Nat) : fld w lo len < 2 ^ len := Nat.mod_lt _ (Nat.two_pow_pos len)

/-- A word by the parts below, in and above a field. -/
theorem toNat_split (w : Word) (lo len : Nat) :
    w.toNat = w.toNat % 2 ^ lo + fld w lo len * 2 ^ lo + w.toNat / 2 ^ (lo + len) * 2 ^ (lo + len) := by
  have h1 := Nat.div_add_mod w.toNat (2 ^ lo)
  have h2 := Nat.div_add_mod (w.toNat / 2 ^ lo) (2 ^ len)
  rw [Nat.div_div_eq_div_mul, ← Nat.pow_add] at h2
  unfold fld
  generalize w.toNat / 2 ^ lo % 2 ^ len = f at *
  generalize w.toNat / 2 ^ (lo + len) = g at *
  rw [← h2] at h1
  have e : 2 ^ lo * (2 ^ len * g + f) = f * 2 ^ lo + g * 2 ^ (lo + len) := by rw [Nat.pow_add]; ring
  omega

theorem setFld_toNat (w : Word) {lo len : Nat} (h : lo + len ≤ 32) (x : Nat) :
    (setFld w lo len x).toNat
      = w.toNat % 2 ^ lo + x % 2 ^ len * 2 ^ lo + w.toNat / 2 ^ (lo + len) * 2 ^ (lo + len) := by
  have hs := toNat_split w lo len
  have hlt : w.toNat % 2 ^ lo < 2 ^ lo := Nat.mod_lt _ (Nat.two_pow_pos lo)
  have hx : x % 2 ^ len < 2 ^ len := Nat.mod_lt _ (Nat.two_pow_pos len)
  have hw : w.toNat < 2 ^ 32 := w.isLt
  have hg : w.toNat / 2 ^ (lo + len) < 2 ^ (32 - (lo + len)) := by
    apply Nat.div_lt_of_lt_mul
    rw [← Nat.pow_add]; rwa [Nat.add_sub_cancel' h]
  have hm : w.toNat % 2 ^ lo + x % 2 ^ len * 2 ^ lo < 2 ^ (lo + len) := by
    have : (x % 2 ^ len + 1) * 2 ^ lo ≤ 2 ^ len * 2 ^ lo := Nat.mul_le_mul_right _ hx
    rw [Nat.pow_add, Nat.mul_comm (2 ^ lo)]
    have e : (x % 2 ^ len + 1) * 2 ^ lo = x % 2 ^ len * 2 ^ lo + 2 ^ lo := by ring
    omega
  have hbound : w.toNat % 2 ^ lo + x % 2 ^ len * 2 ^ lo + w.toNat / 2 ^ (lo + len) * 2 ^ (lo + len) < 2 ^ 32 := by
    have : (w.toNat / 2 ^ (lo + len) + 1) * 2 ^ (lo + len) ≤ 2 ^ (32 - (lo + len)) * 2 ^ (lo + len) :=
      Nat.mul_le_mul_right _ hg
    rw [← Nat.pow_add, Nat.sub_add_cancel h] at this
    have e : (w.toNat / 2 ^ (lo + len) + 1) * 2 ^ (lo + len)
        = w.toNat / 2 ^ (lo + len) * 2 ^ (lo + len) + 2 ^ (lo + len) := by ring
    omega
  unfold setFld
  rw [BitVec.toNat_ofNat]
  have e : w.toNat - fld w lo len * 2 ^ lo + x % 2 ^ len * 2 ^ lo
      = w.toNat % 2 ^ lo + x % 2 ^ len * 2 ^ lo + w.toNat / 2 ^ (lo + len) * 2 ^ (lo + len) := by omega
  rw [e]
  exact Nat.mod_eq_of_lt hbound

/-- A field reads as it was set. -/
theorem fld_setFld_same (w : Word) {lo len : Nat} (h : lo + len ≤ 32) (x : Nat) :
    fld (setFld w lo len x) lo len = x % 2 ^ len := by
  have hlt : w.toNat % 2 ^ lo < 2 ^ lo := Nat.mod_lt _ (Nat.two_pow_pos lo)
  unfold fld
  rw [setFld_toNat w h, Nat.pow_add]
  have e : w.toNat % 2 ^ lo + x % 2 ^ len * 2 ^ lo + w.toNat / (2 ^ lo * 2 ^ len) * (2 ^ lo * 2 ^ len)
      = w.toNat % 2 ^ lo + 2 ^ lo * (x % 2 ^ len + 2 ^ len * (w.toNat / (2 ^ lo * 2 ^ len))) := by ring
  rw [e, Nat.add_mul_div_left _ _ (Nat.two_pow_pos lo), Nat.div_eq_of_lt hlt, Nat.zero_add, Nat.add_mul_mod_self_left,
    Nat.mod_mod]

/-- A field below the one that is set stays. -/
theorem fld_setFld_below (w : Word) {lo len : Nat} (h : lo + len ≤ 32) (x : Nat) {l n : Nat} (hl : l + n ≤ lo) :
    fld (setFld w lo len x) l n = fld w l n := by
  have key : ∀ y : Nat, y / 2 ^ l % 2 ^ n = y % 2 ^ lo / 2 ^ l % 2 ^ n := by
    intro y
    apply Nat.eq_of_testBit_eq
    intro i
    simp only [Nat.testBit_mod_two_pow, Nat.testBit_div_two_pow]
    by_cases hi : i < n
    · have : i + l < lo := by omega
      simp [hi, this]
    · simp [hi]
  unfold fld
  rw [key (setFld w lo len x).toNat, key w.toNat, setFld_toNat w h]
  congr 2
  have e : w.toNat % 2 ^ lo + x % 2 ^ len * 2 ^ lo + w.toNat / 2 ^ (lo + len) * 2 ^ (lo + len)
      = w.toNat % 2 ^ lo + 2 ^ lo * (x % 2 ^ len + 2 ^ len * (w.toNat / 2 ^ (lo + len))) := by
    rw [Nat.pow_add]; ring
  rw [e, Nat.add_mul_mod_self_left, Nat.mod_mod]

/-- A field above the one that is set stays. -/
theorem fld_setFld_above (w : Word) {lo len : Nat} (h : lo + len ≤ 32) (x : Nat) {l n : Nat} (hl : lo + len ≤ l) :
    fld (setFld w lo len x) l n = fld w l n := by
  have hlt : w.toNat % 2 ^ lo < 2 ^ lo := Nat.mod_lt _ (Nat.two_pow_pos lo)
  have hx : x % 2 ^ len < 2 ^ len := Nat.mod_lt _ (Nat.two_pow_pos len)
  have hm : w.toNat % 2 ^ lo + x % 2 ^ len * 2 ^ lo < 2 ^ (lo + len) := by
    have : (x % 2 ^ len + 1) * 2 ^ lo ≤ 2 ^ len * 2 ^ lo := Nat.mul_le_mul_right _ hx
    rw [Nat.pow_add, Nat.mul_comm (2 ^ lo)]
    have e : (x % 2 ^ len + 1) * 2 ^ lo = x % 2 ^ len * 2 ^ lo + 2 ^ lo := by ring
    omega
  have key : (setFld w lo len x).toNat / 2 ^ (lo + len) = w.toNat / 2 ^ (lo + len) := by
    rw [setFld_toNat w h, Nat.add_mul_div_right _ _ (Nat.two_pow_pos _), Nat.div_eq_of_lt hm, Nat.zero_add]
  obtain ⟨j, rfl⟩ := Nat.exists_eq_add_of_le hl
  unfold fld
  rw [Nat.pow_add, ← Nat.div_div_eq_div_mul, ← Nat.div_div_eq_div_mul, key]

/-- A bit is a field of one. -/
theorem bit_eq_fld (w : Word) (i : Nat) : bit w i = decide (fld w i 1 = 1) := by
  unfold bit fld
  rw [Nat.testBit_eq_decide_div_mod_eq, Nat.pow_one]

end Sys2Proof.Machine
end

