-- ==== Sys2Proof/Laws/Cell.lean ====
section
/-!
SUPPORT. What the operations on a cell leave alone: the switching stage, STATE, and the configuration that waits.
-/

namespace Sys2Proof.Machine

/-! ### Registers -/

theorem Cell.reg_setReg_other (c : Cell) {a b : Nat} (w : Word) (h : b ≠ a) : (c.setReg a w).reg b = c.reg b :=
  sget_sset_other _ _ w h

theorem Cell.reg_setReg_same (c : Cell) (a : Nat) (w : Word) : (c.setReg a w).reg a = w := sget_sset_same _ _ a w

/-! ### Frames -/

/-- From `c` to `d` the switching stage, STATE and the waiting configuration stay, and the registers keep their form. -/
structure Cell.Frame (c d : Cell) : Prop where
  ah : d.ah = c.ah
  al : d.al = c.al
  bh : d.bh = c.bh
  bl : d.bl = c.bl
  todo : d.todo = c.todo
  pwm : d.pwm = c.pwm
  cfg : d.pendCfg = c.pendCfg
  st : swf cnReset c.regs = true → d.st = c.st
  wf : swf cnReset c.regs = true → swf cnReset d.regs = true

namespace Cell.Frame

theorem refl (c : Cell) : Cell.Frame c c := ⟨rfl, rfl, rfl, rfl, rfl, rfl, rfl, fun _ => rfl, fun h => h⟩

theorem trans {c d e : Cell} (h : Cell.Frame c d) (k : Cell.Frame d e) : Cell.Frame c e :=
  ⟨k.ah.trans h.ah, k.al.trans h.al, k.bh.trans h.bh, k.bl.trans h.bl, k.todo.trans h.todo, k.pwm.trans h.pwm,
    k.cfg.trans h.cfg, fun w => (k.st (h.wf w)).trans (h.st w), fun w => k.wf (h.wf w)⟩

/-- A fold of steps that keep the frame keeps it. -/
theorem foldl {α : Type} (f : Cell → α → Cell) (hf : ∀ c a, Cell.Frame c (f c a)) (l : List α) (c : Cell) :
    Cell.Frame c (l.foldl f c) := by
  induction l generalizing c with
  | nil => exact refl c
  | cons a l ih => exact (hf c a).trans (ih _)

theorem setReg (c : Cell) {a : Nat} (h : a ≠ Reg.CN_SYS_STATE) (w : Word) : Cell.Frame c (c.setReg a w) :=
  ⟨rfl, rfl, rfl, rfl, rfl, rfl, rfl, fun _ => by
    unfold Cell.st Cell.fld; rw [Cell.reg_setReg_other c w (Ne.symm h)], fun hc => swf_sset _ hc _ _⟩

theorem setFld (c : Cell) {a : Nat} (h : a ≠ Reg.CN_SYS_STATE) (lo len x : Nat) : Cell.Frame c (c.setFld a lo len x) :=
  setReg c h _

theorem setBit (c : Cell) {a : Nat} (h : a ≠ Reg.CN_SYS_STATE) (i : Nat) (b : Bool) : Cell.Frame c (c.setBit a i b) :=
  setReg c h _

/-- The fields of `CN_SYS_STATE` above STATE. -/
theorem state (c : Cell) {lo len : Nat} (h : 3 ≤ lo) (h' : lo + len ≤ 32) (x : Nat) :
    Cell.Frame c (c.setFld Reg.CN_SYS_STATE lo len x) :=
  ⟨rfl, rfl, rfl, rfl, rfl, rfl, rfl, fun hc => by
    unfold Cell.st Cell.fld Cell.setFld
    rw [Cell.reg_setReg_same c, fld_setFld_below _ h' _ (by omega)], fun hc => swf_sset _ hc _ _⟩

/-- A change of the other fields of a cell. -/
theorem of_eq {c d : Cell} (h1 : d.ah = c.ah) (h2 : d.al = c.al) (h3 : d.bh = c.bh) (h4 : d.bl = c.bl)
    (h5 : d.todo = c.todo) (h6 : d.pwm = c.pwm) (h7 : d.pendCfg = c.pendCfg) (h8 : d.regs = c.regs) :
    Cell.Frame c d :=
  ⟨h1, h2, h3, h4, h5, h6, h7, fun _ => by unfold Cell.st Cell.fld Cell.reg; rw [h8], fun h => by rw [h8]; exact h⟩

/-- A change of the other fields of a cell. -/
theorem lit {c d : Cell}
    {xhkMem : List Host.Cell}
    {xrstCause xncell xcfgCrc xclk xt xrun xhop0 xhop1 xwarn : Nat}
    {xunackRun xlossRun xfrzLoss xinsTime xfastAt xmechAt xchatter xrecal xbroken : Nat}
    {xtrained xconfirmed xorphan xovrDec xovRun xauxNext xsquelch : Nat}
    {xwide : List (Nat × Word)}
    {xclamped xcfgRetire xcalib xisSet xlocked xovrng xmissed xshort xldir : Bool}
    {xmbox xurgent xhalf0 xhalf1 xretire xfast xmech xrewritten xhkIrq xgsup : Bool}
    {xtap : Tap}
    {xhopDn xhopUp xtag0 xtag1 xlastN xapplied xdueFrom xpendOvr xpendLead : Option Nat} {xpendApply : Option Nat}
    {xringChip xreport : Option (Nat × Nat)}
    {xfreq : Rat}
    {xseries : List Rat}
    {xda xdb : Option Rat}
    {xstamps : List Stamp}
    {xlatches : List Latch}
    {xrecs : List CnRec}
    {xcommit : Option Word}
    {xlanes : List (Nat × LaneSt)}
    {xsent : List (Nat × Sent)}
    (h : Cell.Frame c d) : Cell.Frame c { d with
      hkMem := xhkMem, rstCause := xrstCause, wide := xwide, clamped := xclamped, tap := xtap, hopDn := xhopDn,
      hopUp := xhopUp, ncell := xncell, ringChip := xringChip, cfgCrc := xcfgCrc, cfgRetire := xcfgRetire,
      calib := xcalib, tag0 := xtag0, tag1 := xtag1, clk := xclk, isSet := xisSet, t := xt, locked := xlocked,
      freq := xfreq, run := xrun, series := xseries, da := xda, db := xdb, stamps := xstamps, lastN := xlastN,
      hop0 := xhop0, hop1 := xhop1, latches := xlatches, ovrng := xovrng, report := xreport, applied := xapplied,
      recs := xrecs, missed := xmissed, short := xshort, warn := xwarn, ldir := xldir, mbox := xmbox,
      unackRun := xunackRun, lossRun := xlossRun, frzLoss := xfrzLoss, urgent := xurgent, half0 := xhalf0,
      half1 := xhalf1, commit := xcommit, insTime := xinsTime, dueFrom := xdueFrom, retire := xretire,
      pendOvr := xpendOvr, pendLead := xpendLead, pendApply := xpendApply, fastAt := xfastAt, mechAt := xmechAt,
      fast := xfast, mech := xmech, chatter := xchatter, rewritten := xrewritten, recal := xrecal,
      broken := xbroken, trained := xtrained, confirmed := xconfirmed, orphan := xorphan, lanes := xlanes,
      hkIrq := xhkIrq, sent := xsent, ovrDec := xovrDec, ovRun := xovRun, auxNext := xauxNext,
      squelch := xsquelch, gsup := xgsup } :=
  h.trans (of_eq rfl rfl rfl rfl rfl rfl rfl rfl)

theorem ite {c d e : Cell} {p : Prop} [Decidable p] (h : Cell.Frame c d) (k : Cell.Frame c e) :
    Cell.Frame c (if p then d else e) := by
  split
  · exact h
  · exact k

theorem inc (c : Cell) {a : Nat} (h : a ≠ Reg.CN_SYS_STATE) : Cell.Frame c (c.inc a) := setReg c h _
theorem addFld (c : Cell) {a : Nat} (h : a ≠ Reg.CN_SYS_STATE) (lo len n : Nat) : Cell.Frame c (c.addFld a lo len n) :=
  setReg c h _
theorem setGst (c : Cell) (x : Nat) : Cell.Frame c (c.setGst x) := state c (by omega) (by omega) x
theorem setLocal (c : Cell) (b : Bool) : Cell.Frame c (c.setLocal b) := state c (by omega) (by omega) _
theorem setCause (c : Cell) {i : Nat} (h : i ≤ 8) (b : Bool) : Cell.Frame c (c.setCause i b) :=
  state c (by omega) (by omega) _

/-- The registers of a lane lie elsewhere. -/
theorem lane_ne (a i : Nat) (h : 2 < a) : a + i * 0x40 ≠ Reg.CN_SYS_STATE := by unfold Reg.CN_SYS_STATE; omega

theorem dropped (c : Cell) : Cell.Frame c (c.dropped) := by
  unfold Cell.dropped
  exact lit ((inc c (by decide)).trans (setBit _ (by decide) _ _))

theorem stretched (c : Cell) : Cell.Frame c (c.stretched) := by
  unfold Cell.stretched
  exact lit ((inc c (by decide)).trans (setBit _ (by decide) _ _))

theorem late (c : Cell) : Cell.Frame c (c.late) := by
  unfold Cell.late
  exact lit ((inc c (by decide)).trans (setBit _ (by decide) _ _))

theorem advance (c : Cell) (d e : Nat) : Cell.Frame c (c.advance d e) := by
  unfold Cell.advance
  extract_lets x
  have hx : Cell.Frame c x := lit (refl c)
  exact hx.trans (ite (lit (refl x)) (ite (lit (refl x)) (refl x)))

theorem pass (c : Cell) (d : Nat) : Cell.Frame c (c.pass d) := advance c d _

theorem passTo (c : Cell) (x : Nat) : Cell.Frame c (c.passTo x) := by
  unfold Cell.passTo
  exact ite (advance c _ _) (refl c)

theorem clkTo (c : Cell) (x : Nat) : Cell.Frame c (c.clkTo x) := by
  unfold Cell.clkTo
  exact pass c _

theorem toBoundary (c : Cell) (r : Nat) : Cell.Frame c (c.toBoundary r) := by
  unfold Cell.toBoundary
  exact passTo c _

theorem pwmCommit (c : Cell) : Cell.Frame c (c.pwmCommit) := by
  unfold Cell.pwmCommit
  extract_lets w x y
  have hx : Cell.Frame c x := ite (refl c) (setBit c (by decide) _ _)
  clear_value x
  have hy : Cell.Frame c y := hx.trans (lit (refl x))
  clear_value y
  exact ite (refl c) (ite (setBit c (by decide) _ _) (ite (lit hy) (hy.trans (setReg y (by decide) _))))

theorem refreshReached (c : Cell) : Cell.Frame c (c.refreshReached) := by
  unfold Cell.refreshReached
  exact ite (lit (refl c)) (refl c)

theorem thaw (c : Cell) : Cell.Frame c (c.thaw) := by
  unfold Cell.thaw
  exact lit (setBit c (by decide) _ _)

theorem bypFast (c : Cell) : Cell.Frame c (c.bypFast) := by
  unfold Cell.bypFast
  extract_lets x
  have hx : Cell.Frame c x := clkTo c _
  clear_value x
  exact ite (lit hx) (refl c)

theorem bypMech (c : Cell) : Cell.Frame c (c.bypMech) := by
  unfold Cell.bypMech
  exact ite (lit (clkTo c _)) (refl c)

theorem setChatter (c : Cell) (pin : Nat) (b : Bool) : Cell.Frame c (c.setChatter pin b) := by
  unfold Cell.setChatter
  extract_lets x
  have hx : Cell.Frame c x := lit (refl c)
  clear_value x
  exact hx.trans (ite (setBit x (by decide) _ _) (refl x))

theorem supplyClear (c : Cell) : Cell.Frame c (c.supplyClear) := by
  unfold Cell.supplyClear
  exact ite (refl c) (setCause c (by decide) _)

theorem supplyBack (c : Cell) : Cell.Frame c (c.supplyBack) := by
  unfold Cell.supplyBack
  exact Cell.Frame.trans (lit (refl c)) (supplyClear _)

theorem chatterOff (c : Cell) (pin : Nat) : Cell.Frame c (c.chatterOff pin) := by
  unfold Cell.chatterOff
  exact (setChatter c pin false).trans (ite (supplyClear _) (refl _))

theorem parityClear (c : Cell) : Cell.Frame c (c.parityClear) := by
  unfold Cell.parityClear
  exact ite (setCause c (by decide) _) (refl c)

theorem warning (c : Cell) (i flag : Nat) (on off : Bool) : Cell.Frame c (c.warning i flag on off) := by
  unfold Cell.warning
  exact ite (lit (setBit c (by decide) _ _)) (ite (lit (refl c)) (refl c))

theorem adcCal (c : Cell) : Cell.Frame c (c.adcCal) := by
  unfold Cell.adcCal
  exact ite (ite (lit (setBit c (by decide) _ _)) (refl c)) (setBit c (by decide) _ _)

theorem recalStage (c : Cell) : Cell.Frame c (c.recalStage) := by
  unfold Cell.recalStage
  split
  · exact refl c
  · exact lit (refl c)
  · exact lit (setBit c (by decide) _ _)

theorem hkSync (c : Cell) : Cell.Frame c (c.hkSync) := by
  unfold Cell.hkSync
  exact setBit c (by decide) _ _

theorem mboxIn (c : Cell) (w : Word) : Cell.Frame c (c.mboxIn w) := by
  unfold Cell.mboxIn
  exact lit (setReg c (by decide) _)

theorem mboxOut (c : Cell) (w : Word) : Cell.Frame c (c.mboxOut w) := by
  unfold Cell.mboxOut
  exact lit (setReg c (by decide) _)

theorem hkError (c : Cell) : Cell.Frame c (c.hkError) := by
  unfold Cell.hkError
  exact ite (lit (setFld c (by decide) _ _ _)) (refl c)

theorem timeFlag (c : Cell) (i : Nat) : Cell.Frame c (c.timeFlag i) := by
  unfold Cell.timeFlag
  exact setBit c (by decide) _ _

theorem setOk (c : Cell) (b : Bool) : Cell.Frame c (c.setOk b) := by
  unfold Cell.setOk
  extract_lets x
  have hx : Cell.Frame c x := setBit c (by decide) _ _
  clear_value x
  exact ite (hx.trans (timeFlag x _)) hx

theorem servo (c : Cell) (x : Rat) : Cell.Frame c (c.servo x) := by
  unfold Cell.servo
  extract_lets ticks f y lo hi z n c1 c2
  have h1 : Cell.Frame c c1 := lit (refl c)
  clear_value c1
  have h2 : Cell.Frame c c2 := h1.trans ((setReg c1 (by decide) _).trans (setReg _ (by decide) _))
  clear_value c2
  exact ite h2 (h2.trans (timeFlag c2 _))

theorem stepTime (c : Cell) (x : Rat) : Cell.Frame c (c.stepTime x) := by
  unfold Cell.stepTime
  extract_lets d c1
  have h1 : Cell.Frame c c1 := lit (refl c)
  clear_value c1
  exact h1.trans (((addFld c1 (by decide) _ _ _).trans (timeFlag _ _)).trans (setOk _ _))

theorem useTheta (c : Cell) (m : Nat) (x : Rat) : Cell.Frame c (c.useTheta m x) := by
  unfold Cell.useTheta
  extract_lets c1 c2 c3 r c4 wide
  have h1 : Cell.Frame c c1 := servo c x
  have h2 : Cell.Frame c1 c2 := lit (refl c1)
  have h3 : Cell.Frame c2 c3 := setOk c2 _
  have h4 : Cell.Frame c2 c4 := ite (lit h3) (lit (refl c2))
  exact ((h1.trans h2).trans h4).trans (ite (setOk c4 _) (setOk c4 _))

theorem anomaly (c : Cell) (m : Nat) (x : Rat) : Cell.Frame c (c.anomaly m x) := by
  unfold Cell.anomaly
  extract_lets c1 d c2 win sr
  have h1 : Cell.Frame c c1 := ite (setOk c _) (refl c)
  have hd : Cell.Frame c1 d := stepTime c1 x
  have h2 : Cell.Frame c1 c2 := (addFld c1 (by decide) _ _ _).trans (timeFlag _ _)
  exact h1.trans (ite (lit hd) (h2.trans (ite (stepTime c2 x) (lit (refl c2)))))

theorem measured (c : Cell) (g : List Stamp) (m : Meas) : Cell.Frame c (c.measured g m) := by
  unfold Cell.measured
  extract_lets c1 c2 c3 c4 c5 c6 x c7
  have h1 : Cell.Frame c c1 := (setReg c (by decide) _).trans (setReg _ (by decide) _)
  have h2 : Cell.Frame c1 c2 := (setFld c1 (by decide) _ _ _).trans (setFld _ (by decide) _ _ _)
  have h3 : Cell.Frame c2 c3 := ite (timeFlag c2 _) (refl c2)
  have h4 : Cell.Frame c3 c4 := by
    dsimp only [c4]
    split
    · exact lit (setReg c3 (by decide) _)
    · exact refl c3
  have h5 : Cell.Frame c4 c5 := by
    dsimp only [c5]
    split
    · exact lit (setReg c4 (by decide) _)
    · exact refl c4
  have h6 : Cell.Frame c3 c6 := ite (h4.trans (h5.trans (setBit c5 (by decide) _ _))) (refl c3)
  have h7 : Cell.Frame c6 c7 := ite (useTheta c6 _ _) (anomaly c6 _ _)
  exact (((h1.trans h2).trans h3).trans h6).trans (h7.trans (setFld c7 (by decide) _ _ _))

theorem unmeasured (c : Cell) : Cell.Frame c (c.unmeasured) := by
  unfold Cell.unmeasured
  extract_lets n c1
  have h1 : Cell.Frame c c1 :=
    (setFld c (by decide) _ _ _).trans ((setFld _ (by decide) _ _ _).trans (setFld _ (by decide) _ _ _))
  exact h1.trans (ite (setOk c1 _) (refl c1))

theorem setTime (c : Cell) (s : Stamp) (e : Rat) : Cell.Frame c (c.setTime s e) := by
  unfold Cell.setTime
  extract_lets d c1 c2
  have h1 : Cell.Frame c c1 := lit (refl c)
  have h2 : Cell.Frame c1 c2 := (setFld c1 (by decide) _ _ _).trans (setFld _ (by decide) _ _ _)
  exact h1.trans (h2.trans ((setFld c2 (by decide) _ _ _).trans (timeFlag _ _)))

theorem showStamps (c : Cell) (g : List Stamp) : Cell.Frame c (c.showStamps g) := by
  unfold Cell.showStamps
  refine foldl _ (fun c s => setReg c ?_ _) g c
  split
  · decide
  · split <;> decide

theorem noteN (c : Cell) (g : List Stamp) : Cell.Frame c (c.noteN g) := by
  unfold Cell.noteN
  split
  · exact refl c
  · extract_lets n c1
    have h1 : Cell.Frame c c1 := lit (refl c)
    clear_value c1
    exact ite (lit (h1.trans (setBit c1 (by decide) _ _))) h1

theorem adopt (c : Cell) (k f : Nat) (g : List Stamp) : Cell.Frame c (c.adopt k f g) := by
  unfold Cell.adopt
  extract_lets c1
  have h1 : Cell.Frame c c1 := lit (refl c)
  clear_value c1
  exact h1.trans ((inc c1 (by decide)).trans (timeFlag _ _))

theorem thetaUpdate (c : Cell) : Cell.Frame c (c.thetaUpdate) := by
  unfold Cell.thetaUpdate
  extract_lets g c1 own alien
  have h1 : Cell.Frame c c1 :=
    Cell.Frame.trans (d := { c with stamps := [] }) (lit (refl c)) ((showStamps _ g).trans (noteN _ g))
  clear_value own alien c1
  refine ite (lit (refl c)) (h1.trans (ite ?_ ?_))
  · split
    · exact setTime c1 _ _
    · exact refl c1
  · split
    · exact (adopt c1 _ _ _).trans (measured _ _ _)
    · split
      · exact measured c1 _ _
      · exact unmeasured c1

theorem delayCal (c : Cell) (dl : Nat) : Cell.Frame c (c.delayCal dl) := by
  unfold Cell.delayCal
  exact setReg c (by decide) _

theorem setLane (c : Cell) (i : Nat) (x : Lane) : Cell.Frame c (c.setLane i x) := by
  unfold Cell.setLane
  extract_lets c1 c2 c3 c4 c5 c6
  have h1 : Cell.Frame c c1 := (setReg c (lane_ne _ _ (by omega)) _).trans (setReg _ (lane_ne _ _ (by omega)) _)
  have h2 : Cell.Frame c1 c2 := (setReg c1 (lane_ne _ _ (by omega)) _).trans (setReg _ (lane_ne _ _ (by omega)) _)
  have h3 : Cell.Frame c2 c3 := (setReg c2 (lane_ne _ _ (by omega)) _).trans (setReg _ (lane_ne _ _ (by omega)) _)
  have h4 : Cell.Frame c3 c4 := (setReg c3 (lane_ne _ _ (by omega)) _).trans (setReg _ (lane_ne _ _ (by omega)) _)
  have h5 : Cell.Frame c4 c5 := (setReg c4 (lane_ne _ _ (by omega)) _).trans (setReg _ (lane_ne _ _ (by omega)) _)
  have h6 : Cell.Frame c5 c6 := setReg c5 (lane_ne _ _ (by omega)) _
  exact (((h1.trans h2).trans h3).trans (h4.trans h5)).trans (h6.trans (lit (setReg c6 (lane_ne _ _ (by omega)) _)))

theorem sync (c : Cell) : Cell.Frame c (c.sync) := by
  unfold Cell.sync
  extract_lets w src c1 s
  have h1 : Cell.Frame c c1 := lit (setReg c (by decide) _)
  clear_value c1
  exact h1.trans (ite (refl c1)
    (((setFld c1 (by decide) _ _ _).trans (addFld _ (by decide) _ _ _)).trans (setBit _ (by decide) _ _)))

theorem bridge (c : Cell) (side : Bool) : Cell.Frame c (c.bridge side) := by
  unfold Cell.bridge
  exact ite (Cell.Frame.trans (lit (refl c)) (sync _)) (sync c)

theorem onLane (c : Cell) (i : Nat) (f : Lane → Lane × List Nat) : Cell.Frame c (c.onLane i f) := by
  unfold Cell.onLane
  extract_lets j was d
  have h : Cell.Frame c d := setLane c _ _
  exact h.trans (ite (bridge d _) (sync d))

theorem send (c : Cell) (tx : Nat) (x : Sent) : Cell.Frame c (c.send tx x) := by
  unfold Cell.send
  exact lit (refl c)

theorem blockErrs (c : Cell) (rx n : Nat) : Cell.Frame c (c.blockErrs rx n) := by
  unfold Cell.blockErrs
  exact addFld c (by decide) _ _ _

theorem sendTrain (c : Cell) (side : Bool) (n : Nat) (done : Bool) : Cell.Frame c (c.sendTrain side n done) := by
  unfold Cell.sendTrain
  exact setLane c _ _

theorem hopStart (c : Cell) (side : Bool) : Cell.Frame c (c.hopStart side) := by
  unfold Cell.hopStart
  extract_lets c1
  have h1 : Cell.Frame c c1 := lit (refl c)
  clear_value c1
  exact h1.trans ((setLane c1 _ _).trans ((sendTrain _ _ _ _).trans (sync _)))

theorem onLaneLat (c : Cell) (i ps : Nat) (took : Lane → Lane → Bool) (f : Word → Lane → Lane × List Nat) :
    Cell.Frame c (c.onLaneLat i ps took f) := by
  unfold Cell.onLaneLat
  extract_lets j x d
  have h : Cell.Frame c d := onLane c _ _
  clear_value d
  exact h.trans (ite (ite (lit (refl d)) (lit (refl d))) (refl d))

theorem stageDone (c : Cell) (i : Nat) (lost : Bool) (c0 c1 : Word) (ps : Nat) :
    Cell.Frame c (c.stageDone i lost c0 c1 ps) := by
  unfold Cell.stageDone
  extract_lets j d
  have h : Cell.Frame c d := onLaneLat c _ _ _ _
  exact h.trans (ite ((sendTrain d _ _ _).trans (sync _)) (refl d))

theorem hopConfirm (c : Cell) (side : Bool) (blk : Nat) : Cell.Frame c (c.hopConfirm side blk) := by
  unfold Cell.hopConfirm
  extract_lets rx own c0 c1
  have h0 : Cell.Frame c c0 := setLane c _ _
  have h1 : Cell.Frame c c1 := lit h0
  exact ite (blockErrs c _ _) (ite (refl c) (ite (setLane c _ _) (h1.trans ((sendTrain c1 _ _ _).trans (sync _)))))

theorem hopBroken (c : Cell) (side : Bool) : Cell.Frame c (c.hopBroken side) := by
  unfold Cell.hopBroken
  extract_lets c1 c2
  have h1 : Cell.Frame c c1 := setLane c _ _
  have h2 : Cell.Frame c1 c2 := setLane c1 _ _
  clear_value c2
  exact (h1.trans h2).trans (Cell.Frame.trans (lit (refl c2)) (sync _))

theorem lossSeen (c : Cell) (side : Bool) : Cell.Frame c (c.lossSeen side) := by
  unfold Cell.lossSeen
  exact Cell.Frame.trans (ite (onLane c _ _) (refl c)) (bridge _ _)

theorem orphaned (c : Cell) (side : Bool) : Cell.Frame c (c.orphaned side) := by
  unfold Cell.orphaned
  exact Cell.Frame.trans (lit (refl c)) (bridge _ _)

theorem closeSide (c : Cell) (side : Bool) : Cell.Frame c (c.closeSide side) := by
  unfold Cell.closeSide
  exact ite (lit (refl c)) (refl c)

theorem closeAt (c : Cell) : Cell.Frame c (c.closeAt) := by
  unfold Cell.closeAt
  extract_lets c1 c2
  have h1 : Cell.Frame c c1 := toBoundary c _
  have h2 : Cell.Frame c1 c2 := (closeSide c1 _).trans (closeSide _ _)
  exact ite (refl c) ((h1.trans h2).trans (((setReg c2 (by decide) _).trans (setReg _ (by decide) _)).trans (sync _)))

theorem takeHop (c : Cell) (x : CnTrain) : Cell.Frame c (c.takeHop x) := by
  unfold Cell.takeHop
  extract_lets c1 c2
  have h1 : Cell.Frame c c1 := lit (refl c)
  have h2 : Cell.Frame c1 c2 := ite (lit (refl c1)) (lit (refl c1))
  refine (h1.trans h2).trans ?_
  clear_value c2
  split
  · exact (setReg c2 (by decide) _).trans (setReg _ (by decide) _)
  · exact refl c2

theorem stamp (c : Cell) (x : CnTrain) (k : Nat) (ofs : Int) : Cell.Frame c (c.stamp x k ofs) := by
  unfold Cell.stamp
  split
  · exact refl c
  · exact ite (refl c) (ite (timeFlag c _) (ite (refl c) (lit (refl c))))

theorem heard (c : Cell) (rx : Nat) : Cell.Frame c (c.heard rx) := by
  unfold Cell.heard
  exact Cell.Frame.trans (lit (refl c)) (sync _)

theorem timeUpdate (c : Cell) : Cell.Frame c c.timeUpdate := by
  unfold Cell.timeUpdate
  exact ite (thetaUpdate c) ((thetaUpdate c).trans (sync _))

theorem repeatTrain (c : Cell) (x : CnTrain) (slot : Option Nat) : Cell.Frame c (c.repeatTrain x slot) := by
  unfold Cell.repeatTrain
  extract_lets sl
  refine foldl _ (fun c o => ?_) _ c
  extract_lets c1
  have h1 : Cell.Frame c c1 := send c _ _
  exact h1.trans (ite (setReg c1 (by decide) _) (refl c1))

theorem trainIn (c : Cell) (x : CnTrain) : Cell.Frame c (c.trainIn x) := by
  unfold Cell.trainIn
  extract_lets bad c1 c2 c3 c4
  have h1 : Cell.Frame c c1 := ite (refl c) (blockErrs c _ _)
  have h2 : Cell.Frame c1 c2 := passTo c1 _
  have h3 : Cell.Frame c2 c3 := ite (takeHop c2 x) (refl c2)
  have h4 : Cell.Frame c3 c4 := by
    dsimp only [c4]
    clear_value c3
    split
    · exact refl c3
    · rename_i k ofs _
      have k1 : Cell.Frame c3 (if (!c3.isSet || x.frame == k) = true then c3.heard (x.rx % 2) else c3) :=
        ite (heard c3 _) (refl c3)
      generalize (if (!c3.isSet || x.frame == k) = true then c3.heard (x.rx % 2) else c3) = d1 at k1 ⊢
      have k2 : Cell.Frame d1 (d1.stamp x k ofs) := stamp d1 x _ _
      generalize d1.stamp x k ofs = d2 at k2 ⊢
      exact (k1.trans k2).trans (ite (lit (refl d2)) (refl d2))
  exact ite (refl c) (h1.trans (ite (repeatTrain c1 _ _)
    (((h2.trans h3).trans h4).trans (repeatTrain c4 _ _))))

theorem assemble (c : Cell) : Cell.Frame c (c.assemble) := by
  unfold Cell.assemble
  split
  · exact refl c
  · extract_lets c1 r
    have h1 : Cell.Frame c c1 := passTo c _
    clear_value r c1
    exact ite (refl c) (lit h1)

theorem overrideAt (c : Cell) : Cell.Frame c (c.overrideAt) := by
  unfold Cell.overrideAt
  extract_lets c1 c2 c3
  have h1 : Cell.Frame c c1 := toBoundary c _
  have h2 : Cell.Frame c1 c2 := by
    dsimp only [c2]
    clear_value c1
    split
    · rename_i a _
      have k : Cell.Frame c1 ((c1.setReg Reg.CN_SW_OVR (w32 a)).setBit Reg.CN_SYS_STATE 20 (a != 0)) :=
        (setReg c1 (by decide) _).trans (state _ (by omega) (by omega) _)
      exact k.trans (ite (ite (setCause _ (by decide) _) (refl _)) (setCause _ (by decide) _))
    · exact refl c1
  have h3 : Cell.Frame c2 c3 := setReg c2 (by decide) _
  exact ite (refl c) (lit ((h1.trans h2).trans h3))

theorem timeChangeAt (c : Cell) : Cell.Frame c (c.timeChangeAt) := by
  unfold Cell.timeChangeAt
  extract_lets c1 c2 c3
  have h1 : Cell.Frame c c1 := toBoundary c _
  have h2 : Cell.Frame c1 c2 := by
    dsimp only [c2]
    clear_value c1
    split
    · exact setReg c1 (by decide) _
    · exact refl c1
  have h3 : Cell.Frame c2 c3 := by
    dsimp only [c3]
    clear_value c2
    split
    · exact setReg c2 (by decide) _
    · exact refl c2
  exact ite (refl c) (lit (((h1.trans h2).trans h3).trans (setReg c3 (by decide) _)))

end Cell.Frame

end Sys2Proof.Machine
end

