-- ==== Sys2Proof/Laws/Gate.lean ====
section
/-!
SUPPORT. The switching stage: what its operations leave alone, and that they keep the legs safe.
-/

namespace Sys2Proof.Machine

/-- From `c` to `d` STATE and the waiting configuration stay, and the registers keep their form. -/
structure Cell.Base (c d : Cell) : Prop where
  cfg : d.pendCfg = c.pendCfg
  st : swf cnReset c.regs = true → d.st = c.st
  wf : swf cnReset c.regs = true → swf cnReset d.regs = true

/-- Both legs are safe. -/
def Cell.legs (c : Cell) : Prop := legSafe c.ah c.al = true ∧ legSafe c.bh c.bl = true

namespace Cell.Base

theorem refl (c : Cell) : Cell.Base c c := ⟨rfl, fun _ => rfl, id⟩
theorem trans {c d e : Cell} (h : Cell.Base c d) (k : Cell.Base d e) : Cell.Base c e :=
  ⟨k.cfg.trans h.cfg, fun w => (k.st (h.wf w)).trans (h.st w), fun w => k.wf (h.wf w)⟩
theorem of {c d : Cell} (h : Cell.Frame c d) : Cell.Base c d := ⟨h.cfg, h.st, h.wf⟩
theorem same {c d : Cell} (h : d.pendCfg = c.pendCfg) (k : d.regs = c.regs) : Cell.Base c d :=
  ⟨h, fun _ => by unfold Cell.st Cell.fld Cell.reg; rw [k], fun h => by rw [k]; exact h⟩
theorem ite {c d e : Cell} {p : Prop} [Decidable p] (h : Cell.Base c d) (k : Cell.Base c e) :
    Cell.Base c (if p then d else e) := by
  split
  · exact h
  · exact k
theorem foldl {α : Type} (f : Cell → α → Cell) (hf : ∀ c a, Cell.Base c (f c a)) (l : List α) (c : Cell) :
    Cell.Base c (l.foldl f c) := by
  induction l generalizing c with
  | nil => exact refl c
  | cons a l ih => exact (hf c a).trans (ih _)

theorem setGate (c : Cell) (g : Gate) (x : GateSt) : Cell.Base c (c.setGate g x) := by
  cases g <;> exact same rfl rfl
theorem level (c : Cell) (g : Gate) (b : Bool) : Cell.Base c (c.level g b) := by
  unfold Cell.level
  exact ite (setGate c g _) (setGate c g _)
theorem edge (c : Cell) (g : Gate) (t : Nat) (b : Bool) : Cell.Base c (c.edge g t b) := by
  unfold Cell.edge
  exact ite (level c g b) (setGate c g _)
theorem turnOff (c : Cell) (want : Gate → Bool) (dec : Option Nat) (g : Gate) : Cell.Base c (c.turnOff want dec g) := by
  unfold Cell.turnOff
  extract_lets x
  refine ite (ite (setGate c g _) (refl c)) (ite ?_ (setGate c g _))
  split
  exact Cell.Base.trans (ite (of (Cell.Frame.late c)) (refl c)) (edge _ g _ _)
theorem turnOn (c : Cell) (want off : Gate → Bool) (g : Gate) : Cell.Base c (c.turnOn want off g) := by
  unfold Cell.turnOn
  exact ite (refl c) (ite (refl c) (edge c g _ _))
theorem change (c : Cell) (gst : Nat) (dec : Option Nat) : Cell.Base c (c.change gst dec) := by
  unfold Cell.change
  exact (foldl _ (fun c g => turnOff c _ dec g) _ c).trans (foldl _ (fun c g => turnOn c _ _ g) _ _)
theorem plan (c : Cell) (t : Nat) (x : Todo) : Cell.Base c (c.plan t x) := same rfl rfl
theorem allLow (c : Cell) : Cell.Base c c.allLow := by
  unfold Cell.allLow
  extract_lets d
  have h : Cell.Base c d := foldl _ (fun c g => level c g false) _ c
  clear_value d
  exact h.trans (Cell.Base.trans (d := { d with todo := [], pwm := none }) (same rfl rfl) (of (Cell.Frame.setGst _ _)))
theorem holdGates (c : Cell) : Cell.Base c c.holdGates := by
  unfold Cell.holdGates
  extract_lets d
  have h : Cell.Base c d := foldl _ (fun c g => setGate c g _) _ c
  clear_value d
  exact h.trans (same rfl rfl)
theorem pulse (c : Cell) (isShort : Bool) (back : Nat) : Cell.Base c (c.pulse isShort back) := by
  unfold Cell.pulse
  extract_lets stop src d
  have h : Cell.Base c d := ite ((of (Cell.Frame.stretched c)).trans (setGate _ _ _)) (refl c)
  exact h.trans ((change d _ _).trans (plan _ _ _))
theorem dropReturn (c : Cell) : Cell.Base c c.dropReturn := by
  unfold Cell.dropReturn
  extract_lets src d
  have h : Cell.Base c d := (of (Cell.Frame.dropped c)).trans (same rfl rfl)
  clear_value d
  split
  · exact h.trans (setGate d _ _)
  · exact h
theorem excursion (c : Cell) (next : Option NextGate) (back : Nat) : Cell.Base c (c.excursion next back) := by
  unfold Cell.excursion
  extract_lets stretch isShort due on cut t
  clear_value t cut isShort
  exact ite (of (Cell.Frame.dropped c)) (ite (pulse c _ back)
    (ite ((of (Cell.Frame.stretched c)).trans (plan _ _ _))
      (ite ((dropReturn c).trans (pulse _ _ _)) (of (Cell.Frame.dropped c)))))
theorem runTodo (c : Cell) (next : Option NextGate) (x : Todo) : Cell.Base c (c.runTodo next x) := by
  cases x
  · exact excursion c next _
  · exact change c _ _
  · exact change c _ _
theorem runEdges (c : Cell) : Cell.Base c c.runEdges := by
  unfold Cell.runEdges
  refine foldl _ (fun c g => ?_) _ c
  unfold Cell.runEdge
  split
  · exact ite (level c g _) (refl c)
  · exact refl c
theorem edgeDue (c : Cell) (next : Option NextGate) : Cell.Base c (c.edgeDue next) := by
  unfold Cell.edgeDue
  split
  · exact refl c
  · extract_lets d
    have h : Cell.Base c d := of (Cell.Frame.clkTo c _)
    clear_value d
    refine h.trans ?_
    split
    · rename_i x _
      exact Cell.Base.trans (d := { d with todo := d.todo.erase x }) (same rfl rfl) (runTodo _ _ _)
    · exact runEdges d
theorem carrierPulse (c : Cell) (t k d : Nat) : Cell.Base c (c.carrierPulse t k d) := by
  unfold Cell.carrierPulse
  exact ite (refl c) (plan c _ _)
theorem carrierStart (c : Cell) : Cell.Base c c.carrierStart := by
  unfold Cell.carrierStart
  split
  · exact refl c
  · rename_i p _
    extract_lets d1 d2 ks du tc
    have h : Cell.Base c d1 := of (Cell.Frame.clkTo c _)
    have k : Cell.Base d1 d2 := by
      dsimp only [d2]
      clear_value d1
      split
      · exact ite ((of (Cell.Frame.setReg d1 (by decide) _)).trans (same rfl rfl)) (refl d1)
      · exact refl d1
    clear_value ks du tc d2
    exact (h.trans k).trans (Cell.Base.trans (d := { d2 with pwm := some { p with ksel := ks, duty := du, next := p.next + tc } })
      (same rfl rfl) (carrierPulse _ _ _ _))
theorem selfRefresh (c : Cell) : Cell.Base c c.selfRefresh := by
  unfold Cell.selfRefresh
  extract_lets d
  have h : Cell.Base c d :=
    of ((Cell.Frame.inc c (by decide)).trans (Cell.Frame.setBit _ (by decide) _ _))
  exact h.trans ((change d _ _).trans (plan _ _ _))

end Cell.Base

/-! Legs -/

theorem Cell.gate_setGate (c : Cell) (g h : Gate) (x : GateSt) :
    (c.setGate g x).gate h = if h = g then x else c.gate h := by
  cases g <;> cases h <;> rfl
theorem Cell.clk_setGate (c : Cell) (g : Gate) (x : GateSt) : (c.setGate g x).clk = c.clk := by cases g <;> rfl

/-- What `level` does to the gates. -/
theorem Cell.gate_level (c : Cell) (g h : Gate) (b : Bool) :
    (c.level g b).gate h = if h = g then (if (c.gate g).hi = b then { c.gate g with pend := none } else
      { hi := b, rise := if b then c.clk else (c.gate g).rise, hold := if b then (c.gate g).hold else 0, pend := none })
      else c.gate h := by
  unfold Cell.level; dsimp only
  split <;> rw [Cell.gate_setGate]
theorem Cell.clk_level (c : Cell) (g : Gate) (b : Bool) : (c.level g b).clk = c.clk := by
  unfold Cell.level; dsimp only; split <;> exact Cell.clk_setGate _ _ _

theorem Cell.legs_iff (c : Cell) : c.legs ↔ legSafe (c.gate .ah) (c.gate .al) = true ∧ legSafe (c.gate .bh) (c.gate .bl) = true :=
  Iff.rfl

theorem Cell.gate_late (c : Cell) (g : Gate) : c.late.gate g = c.gate g := by cases g <;> rfl
theorem Cell.clk_late (c : Cell) : c.late.clk = c.clk := rfl

/-- An edge: at once, or waiting. -/
theorem Cell.gate_edge_other (c : Cell) {g h : Gate} (t : Nat) (b : Bool) (n : h ≠ g) : (c.edge g t b).gate h = c.gate h := by
  unfold Cell.edge; split
  · rw [Cell.gate_level]; simp [n]
  · rw [Cell.gate_setGate]; simp [n]
theorem Cell.clk_edge (c : Cell) (g : Gate) (t : Nat) (b : Bool) : (c.edge g t b).clk = c.clk := by
  unfold Cell.edge; split
  · exact Cell.clk_level _ _ _
  · exact Cell.clk_setGate _ _ _
theorem Cell.edge_now (c : Cell) (g : Gate) {t : Nat} (b : Bool) (h : t ≤ c.clk) :
    ((c.edge g t b).gate g).hi = b ∧ ((c.edge g t b).gate g).pend = none := by
  unfold Cell.edge; rw [if_pos h, Cell.gate_level]
  simp only [if_true]
  split
  · rename_i e; exact ⟨e, rfl⟩
  · exact ⟨rfl, rfl⟩
theorem Cell.edge_later (c : Cell) (g : Gate) {t : Nat} (b : Bool) (h : ¬ t ≤ c.clk) :
    (c.edge g t b).gate g = { c.gate g with pend := some (t, b) } := by
  unfold Cell.edge; rw [if_neg h, Cell.gate_setGate]; simp

theorem Cell.gate_turnOff_other (c : Cell) (want : Gate → Bool) (dec : Option Nat) {g h : Gate} (n : h ≠ g) :
    (c.turnOff want dec g).gate h = c.gate h := by
  unfold Cell.turnOff; dsimp only
  split
  · split
    · rw [Cell.gate_setGate]; simp [n]
    · rfl
  · split
    · rw [Cell.gate_edge_other _ _ _ n]
      split
      · exact Cell.gate_late c h
      · rfl
    · rw [Cell.gate_setGate]; simp [n]
theorem Cell.clk_turnOff (c : Cell) (want : Gate → Bool) (dec : Option Nat) (g : Gate) :
    (c.turnOff want dec g).clk = c.clk := by
  unfold Cell.turnOff; dsimp only
  split
  · split
    · exact Cell.clk_setGate _ _ _
    · rfl
  · split
    · rw [Cell.clk_edge]
      split <;> rfl
    · exact Cell.clk_setGate _ _ _

/-- The gate that a change turns off: low with no edge waiting, or high with a turn-off waiting beyond now; one that it
wants high keeps no turn-off. -/
theorem Cell.gate_turnOff (c : Cell) (want : Gate → Bool) (dec : Option Nat) (g : Gate) :
    let x := c.gate g
    let y := (c.turnOff want dec g).gate g
    (want g = true → y.hi = x.hi ∧ (x.hi = true → y.pend = none) ∧ (x.hi = false → y.pend = x.pend)) ∧
    (want g = false → (y.hi = false ∧ y.pend = none) ∨ (x.hi = true ∧ y.hi = true ∧ ∃ u, c.clk < u ∧ y.pend = some (u, false))) := by
  intro x y
  have hx : x = c.gate g := rfl
  constructor
  · intro hw
    have : y = if x.hi then { x with pend := none } else x := by
      simp only [y, Cell.turnOff, hw, if_true, hx]
      split
      · rw [Cell.gate_setGate]; simp
      · rfl
    rw [this]
    by_cases h : x.hi = true
    · simp [h]
    · simp [h]
  · intro hw
    by_cases h : x.hi = true
    · have hy : y = ((if (c.offAt g dec).2 then c.late else c).edge g (c.offAt g dec).1 false).gate g := by
        simp only [y, Cell.turnOff, hw]
        rw [hx] at h
        simp [h]
      by_cases ht : (c.offAt g dec).1 ≤ (if (c.offAt g dec).2 then c.late else c).clk
      · left
        rw [hy]; exact Cell.edge_now _ g false ht
      · right
        have hclk : (if (c.offAt g dec).2 then c.late else c).clk = c.clk := by split <;> rfl
        have hg : (if (c.offAt g dec).2 then c.late else c).gate g = c.gate g := by
          split
          · exact Cell.gate_late c g
          · rfl
        rw [hy, Cell.edge_later _ g false ht]
        refine ⟨h, ?_, _, ?_, rfl⟩
        · rw [hg]; exact h
        · rw [hclk] at ht; omega
    · left
      have hh : (c.gate g).hi = false := by rw [hx] at h; simpa using h
      have : y = { x with pend := none } := by
        simp only [y, Cell.turnOff, hw]
        rw [hh]
        simp only [Bool.false_eq_true, if_false]
        rw [Cell.gate_setGate]; simp [hx]
      rw [this]; exact ⟨by simpa using h, rfl⟩


theorem Cell.gate_turnOn_other (c : Cell) (want off : Gate → Bool) {g h : Gate} (n : h ≠ g) :
    (c.turnOn want off g).gate h = c.gate h := by
  unfold Cell.turnOn; dsimp only
  split
  · rfl
  · split
    · rfl
    · exact Cell.gate_edge_other _ _ _ n
theorem Cell.clk_turnOn (c : Cell) (want off : Gate → Bool) (g : Gate) : (c.turnOn want off g).clk = c.clk := by
  unfold Cell.turnOn; dsimp only
  split
  · rfl
  · split
    · rfl
    · exact Cell.clk_edge _ _ _ _

/-- What turning gates off leaves of a gate `x` at clock `clk`. -/
def offRel (clk : Nat) (w : Bool) (x y : GateSt) : Prop :=
  (w = true → y.hi = x.hi ∧ (x.hi = true → y.pend = none) ∧ (x.hi = false → y.pend = x.pend)) ∧
    (w = false → (y.hi = false ∧ y.pend = none) ∨ (x.hi = true ∧ y.hi = true ∧ ∃ u, clk < u ∧ y.pend = some (u, false)))

theorem Cell.turnOffs (c : Cell) (want : Gate → Bool) (dec : Option Nat) :
    (gates.foldl (fun c g => c.turnOff want dec g) c).clk = c.clk ∧
    ∀ g, offRel c.clk (want g) (c.gate g) ((gates.foldl (fun c g => c.turnOff want dec g) c).gate g) := by
  simp only [gates, List.foldl]
  refine ⟨by simp only [Cell.clk_turnOff], fun g => ?_⟩
  cases g
  · rw [Cell.gate_turnOff_other _ _ _ (by decide), Cell.gate_turnOff_other _ _ _ (by decide),
      Cell.gate_turnOff_other _ _ _ (by decide)]
    exact Cell.gate_turnOff c want dec .ah
  · rw [Cell.gate_turnOff_other _ _ _ (by decide), Cell.gate_turnOff_other _ _ _ (by decide)]
    have h := Cell.gate_turnOff (c.turnOff want dec .ah) want dec .al
    rw [Cell.gate_turnOff_other _ _ _ (by decide), Cell.clk_turnOff] at h
    exact h
  · rw [Cell.gate_turnOff_other _ _ _ (by decide)]
    have h := Cell.gate_turnOff ((c.turnOff want dec .ah).turnOff want dec .al) want dec .bh
    rw [Cell.gate_turnOff_other _ _ _ (by decide), Cell.gate_turnOff_other _ _ _ (by decide), Cell.clk_turnOff,
      Cell.clk_turnOff] at h
    exact h
  · have h := Cell.gate_turnOff (((c.turnOff want dec .ah).turnOff want dec .al).turnOff want dec .bh) want dec .bl
    rw [Cell.gate_turnOff_other _ _ _ (by decide), Cell.gate_turnOff_other _ _ _ (by decide),
      Cell.gate_turnOff_other _ _ _ (by decide), Cell.clk_turnOff, Cell.clk_turnOff, Cell.clk_turnOff] at h
    exact h

/-- What turning on leaves of a gate `x` whose leg's other gate is `o`. -/
def onRel (clk : Nat) (w off : Bool) (x o y : GateSt) : Prop :=
  if w = false ∨ x.hi = true ∨ (x.pend.isSome = true ∧ off = false) then y = x
  else (y.hi = true ∧ y.pend = none ∧ ∀ u b, o.pend = some (u, b) → u ≤ clk) ∨
    (y.hi = false ∧ ∃ t, y.pend = some (t, true) ∧ ∀ u b, o.pend = some (u, b) → u ≤ t)

theorem Cell.gate_turnOn (c : Cell) (want off : Gate → Bool) (g : Gate) :
    onRel c.clk (want g) (off g.other) (c.gate g) (c.gate g.other) ((c.turnOn want off g).gate g) := by
  unfold onRel
  split
  · rename_i h
    unfold Cell.turnOn; dsimp only
    rcases h with h | h | h
    · simp [h]
    · simp [h]
    · split
      · rfl
      · rw [if_pos (by simp [h.1, h.2])]
  · rename_i h
    simp only [not_or, not_and] at h
    obtain ⟨h1, h2, h3⟩ := h
    have hw : want g = true := by simpa using h1
    have hx : (c.gate g).hi = false := by simpa using h2
    have e : (c.turnOn want off g) = c.edge g ((match (c.gate g.other).pend with
      | some (t, _) => max c.clk t
      | none => c.clk) + c.deadU) true := by
      unfold Cell.turnOn; dsimp only
      rw [if_neg (by simp [hw, hx]), if_neg (by
        intro hc; exact h3 hc.1 (by simpa using hc.2))]
      try rfl
    rw [e]
    have bound : ∀ u b, (c.gate g.other).pend = some (u, b) → u ≤ (match (c.gate g.other).pend with
      | some (t, _) => max c.clk t
      | none => c.clk) + c.deadU := by
      intro u b hu; rw [hu]; exact le_trans (le_max_right _ _) (Nat.le_add_right _ _)
    generalize ((match (c.gate g.other).pend with
      | some (t, _) => max c.clk t
      | none => c.clk) + c.deadU) = t at bound ⊢
    by_cases ht : t ≤ c.clk
    · left
      have := Cell.edge_now c g true ht
      exact ⟨this.1, this.2, fun u b hu => (bound u b hu).trans ht⟩
    · right
      rw [Cell.edge_later c g true ht]
      exact ⟨hx, t, rfl, bound⟩

theorem Cell.turnOns (c : Cell) (want off : Gate → Bool) (hw : ∀ g, want g = true → want g.other = false) (g : Gate) :
    onRel c.clk (want g) (off g.other) (c.gate g) (c.gate g.other)
      ((gates.foldl (fun c g => c.turnOn want off g) c).gate g) := by
  have stay : ∀ (d : Cell) (h : Gate), want h = false → d.turnOn want off h = d := by
    intro d h e; unfold Cell.turnOn; dsimp only; simp [e]
  by_cases e : want g = true
  · have eo := hw g e
    have other : ∀ (d : Cell) (h : Gate), h ≠ g → (d.turnOn want off h).gate g = d.gate g :=
      fun d h n => Cell.gate_turnOn_other d want off (Ne.symm n)
    simp only [gates, List.foldl]
    cases g
    · have a := Cell.gate_turnOn c want off .ah
      rw [other _ _ (by decide), other _ _ (by decide), other _ _ (by decide)]; exact a
    · rw [other _ _ (by decide), other _ _ (by decide)]
      rw [stay c .ah eo]
      exact Cell.gate_turnOn c want off .al
    · rw [other _ _ (by decide)]
      have a := Cell.gate_turnOn ((c.turnOn want off .ah).turnOn want off .al) want off .bh
      simp only [Gate.other] at a ⊢
      rw [Cell.gate_turnOn_other _ _ _ (by decide), Cell.gate_turnOn_other _ _ _ (by decide),
        Cell.gate_turnOn_other (c.turnOn want off .ah) _ _ (by decide), Cell.gate_turnOn_other c _ _ (by decide), Cell.clk_turnOn, Cell.clk_turnOn] at a
      exact a
    · rw [stay _ .bh eo]
      have a := Cell.gate_turnOn ((c.turnOn want off .ah).turnOn want off .al) want off .bl
      simp only [Gate.other] at a ⊢
      rw [Cell.gate_turnOn_other _ _ _ (by decide), Cell.gate_turnOn_other _ _ _ (by decide),
        Cell.gate_turnOn_other (c.turnOn want off .ah) _ _ (by decide), Cell.gate_turnOn_other c _ _ (by decide), Cell.clk_turnOn, Cell.clk_turnOn] at a
      exact a
  · have e : want g = false := by simpa using e
    unfold onRel
    rw [if_pos (.inl e)]
    simp only [gates, List.foldl]
    cases g
    · rw [Cell.gate_turnOn_other _ _ _ (by decide), Cell.gate_turnOn_other _ _ _ (by decide),
        Cell.gate_turnOn_other _ _ _ (by decide), stay _ _ e]
    · rw [Cell.gate_turnOn_other _ _ _ (by decide), Cell.gate_turnOn_other _ _ _ (by decide), stay _ _ e,
        Cell.gate_turnOn_other _ _ _ (by decide)]
    · rw [Cell.gate_turnOn_other _ _ _ (by decide), stay _ _ e, Cell.gate_turnOn_other _ _ _ (by decide),
        Cell.gate_turnOn_other _ _ _ (by decide)]
    · rw [stay _ _ e, Cell.gate_turnOn_other _ _ _ (by decide), Cell.gate_turnOn_other _ _ _ (by decide),
        Cell.gate_turnOn_other _ _ _ (by decide)]

/-- `legSafe` by its parts. -/
theorem legSafe_iff (p q : GateSt) : legSafe p q = true ↔ ¬ (p.hi = true ∧ q.hi = true) ∧
    (∀ t, p.pend = some (t, true) → (∀ u, q.pend ≠ some (u, true)) ∧ (q.hi = true → ∃ u, u ≤ t ∧ q.pend = some (u, false))) ∧
    (∀ t, q.pend = some (t, true) → (∀ u, p.pend ≠ some (u, true)) ∧ (p.hi = true → ∃ u, u ≤ t ∧ p.pend = some (u, false))) := by
  obtain ⟨ph, pr, po, pp⟩ := p
  obtain ⟨qh, qr, qo, qp⟩ := q
  rcases pp with _ | ⟨tp, _ | _⟩ <;> rcases qp with _ | ⟨tq, _ | _⟩ <;> cases ph <;> cases qh <;>
    simp [legSafe, GateSt.waits, GateSt.onAt, GateSt.offAt]

/-- A change of state keeps a leg safe. -/
theorem leg_change {clk : Nat} {wp wq : Bool} {p q p1 q1 p2 q2 : GateSt} (hw : ¬ (wp = true ∧ wq = true))
    (h : legSafe p q = true) (hp : offRel clk wp p p1) (hq : offRel clk wq q q1)
    (kp : onRel clk wp (q.hi && !wq) p1 q1 p2) (kq : onRel clk wq (p.hi && !wp) q1 p1 q2) : legSafe p2 q2 = true := by
  rw [legSafe_iff] at h ⊢
  obtain ⟨h0, -, -⟩ := h
  obtain ⟨hp1, hp2⟩ := hp
  obtain ⟨hq1, hq2⟩ := hq
  have one : ∀ (w' : Bool) {x y x1 y1 x2 : GateSt}, w' = true → ¬ (x.hi = true ∧ y.hi = true) →
      (x1.hi = x.hi ∧ (x.hi = true → x1.pend = none) ∧ (x.hi = false → x1.pend = x.pend)) →
      ((y1.hi = false ∧ y1.pend = none) ∨ (y.hi = true ∧ y1.hi = true ∧ ∃ u, clk < u ∧ y1.pend = some (u, false))) →
      onRel clk w' (y.hi && true) x1 y1 x2 →
      ¬ (x2.hi = true ∧ y1.hi = true) ∧
      (∀ t, x2.pend = some (t, true) → (∀ u, y1.pend ≠ some (u, true)) ∧
        (y1.hi = true → ∃ u, u ≤ t ∧ y1.pend = some (u, false))) ∧
      (∀ t, y1.pend ≠ some (t, true)) := by
    intro w' x y x1 y1 x2 hw' hn hx hy k
    subst hw'
    unfold onRel at k
    have hy3 : ∀ t, y1.pend ≠ some (t, true) := by
      rcases hy with ⟨_, e⟩ | ⟨_, _, u, _, e⟩ <;> simp [e]
    split at k
    · rename_i c
      have low : y1.hi = false := by
        rcases hy with ⟨e, _⟩ | ⟨e, _, _⟩
        · exact e
        · rcases c with c | c | c
          · cases c
          · rw [hx.1] at c; exact absurd ⟨c, e⟩ hn
          · simp [e] at c
      subst k
      exact ⟨by simp [low], fun t _ => ⟨hy3, by simp [low]⟩, hy3⟩
    · rcases k with ⟨k1, k2, k3⟩ | ⟨k1, t, k2, k3⟩
      · have low : y1.hi = false := by
          rcases hy with ⟨e, _⟩ | ⟨_, _, u, hu, e⟩
          · exact e
          · have := k3 u false e; omega
        exact ⟨by simp [low], fun t e => (by rw [k2] at e; cases e), hy3⟩
      · refine ⟨by simp [k1], fun t' e => ⟨hy3, fun hh => ?_⟩, hy3⟩
        rw [k2] at e; cases e
        rcases hy with ⟨e, _⟩ | ⟨_, _, u, _, e⟩
        · rw [hh] at e; cases e
        · exact ⟨u, k3 u false e, e⟩
  cases wp <;> cases wq
  · have kp' : p2 = p1 := by unfold onRel at kp; rwa [if_pos (.inl rfl)] at kp
    have kq' : q2 = q1 := by unfold onRel at kq; rwa [if_pos (.inl rfl)] at kq
    subst kp'; subst kq'
    rcases hp2 rfl with ⟨a, b⟩ | ⟨a, b, u, _, c⟩ <;> rcases hq2 rfl with ⟨a', b'⟩ | ⟨a', b', u', _, c'⟩
    · simp [a, b, b']
    · simp [a, b, c']
    · simp [a', b', c]
    · exact absurd ⟨a, a'⟩ h0
  · have kp' : p2 = p1 := by unfold onRel at kp; rwa [if_pos (.inl rfl)] at kp
    subst kp'
    obtain ⟨a, b, c⟩ := one true rfl (fun e => h0 ⟨e.2, e.1⟩) (hq1 rfl) (hp2 rfl) (by simpa using kq)
    exact ⟨fun e => a ⟨e.2, e.1⟩, fun t e => absurd e (c t), b⟩
  · have kq' : q2 = q1 := by unfold onRel at kq; rwa [if_pos (.inl rfl)] at kq
    subst kq'
    obtain ⟨a, b, c⟩ := one true rfl h0 (hp1 rfl) (hq2 rfl) (by simpa using kp)
    exact ⟨a, b, fun t e => absurd e (c t)⟩
  · exact absurd ⟨rfl, rfl⟩ hw

/-- A change of state keeps both legs safe. -/
theorem Cell.legs_change (c : Cell) (gst : Nat) (dec : Option Nat) (h : c.legs) : (c.change gst dec).legs := by
  rw [Cell.legs_iff] at h ⊢
  unfold Cell.change
  extract_lets want was d
  have hw : ∀ g, want g = true → want g.other = false := by
    intro g; cases g <;> simp [want, wanted, Gate.other] <;> omega
  obtain ⟨hc, ho⟩ := Cell.turnOffs c want dec
  have hd : d.clk = c.clk := hc
  have key := Cell.turnOns d want was hw
  rw [hd] at key
  constructor
  · exact leg_change (fun e => by have := hw .ah e.1; rw [show want Gate.ah.other = want .al from rfl, e.2] at this; cases this)
      h.1 (ho .ah) (ho .al) (key .ah) (key .al)
  · exact leg_change (fun e => by have := hw .bh e.1; rw [show want Gate.bh.other = want .bl from rfl, e.2] at this; cases this)
      h.2 (ho .bh) (ho .bl) (key .bh) (key .bl)

end Sys2Proof.Machine
end

