-- ==== Sys2Proof/Laws/CellSound.lean ====
section
/-!
SUPPORT. Every operation on a cell keeps it safe.
-/

namespace Sys2Proof.Machine

/-! ### Legs -/

theorem Cell.legs_of_frame {c d : Cell} (f : Cell.Frame c d) (h : c.legs) : d.legs := by
  unfold Cell.legs; rw [f.ah, f.al, f.bh, f.bl]; exact h

theorem Cell.legs_of_eq {c d : Cell} (h1 : d.ah = c.ah) (h2 : d.al = c.al) (h3 : d.bh = c.bh) (h4 : d.bl = c.bl)
    (h : c.legs) : d.legs := by
  unfold Cell.legs; rw [h1, h2, h3, h4]; exact h

/-- A gate low with nothing waiting beside one that waits for no turn-off is safe. -/
theorem legSafe_hold {p q : GateSt} (t : Nat) (h : legSafe p q = true) : legSafe { p with hold := t } q = true := h

/-- A pending turn-on is cancelled. -/
theorem legSafe_cancel {p q : GateSt} {t : Nat} (h : legSafe p q = true) (e : q.pend = some (t, true)) :
    legSafe p { q with pend := none } = true := by
  rw [legSafe_iff] at h ⊢
  obtain ⟨h0, h1, h2⟩ := h
  refine ⟨h0, fun u hu => ?_, fun u hu => by cases hu⟩
  obtain ⟨a, b⟩ := h1 u hu
  exact absurd e (a t)

/-- Every scheduled edge is cancelled. -/
theorem legSafe_hold_all {p q : GateSt} (h : legSafe p q = true) :
    legSafe { p with pend := none } { q with pend := none } = true := by
  rw [legSafe_iff] at h ⊢
  exact ⟨h.1, fun u hu => (by cases hu), fun u hu => (by cases hu)⟩

theorem Cell.legs_holdGates (c : Cell) (h : c.legs) : c.holdGates.legs := by
  exact ⟨legSafe_hold_all h.1, legSafe_hold_all h.2⟩

/-- All gates are low, with nothing waiting. -/
theorem Cell.gate_allLow (c : Cell) (g : Gate) : (c.allLow.gate g).hi = false ∧ (c.allLow.gate g).pend = none := by
  have hs : ∀ d : Cell, ({ d with todo := [], pwm := none }.setGst 3).gate g = d.gate g := by
    intro d; cases g <;> rfl
  unfold Cell.allLow
  rw [hs]
  have now : ∀ (d : Cell), ((d.level g false).gate g).hi = false ∧ ((d.level g false).gate g).pend = none := by
    intro d; rw [Cell.gate_level]; simp only [if_true]
    split
    · rename_i e; exact ⟨e, rfl⟩
    · exact ⟨rfl, rfl⟩
  have other : ∀ (d : Cell) (h : Gate), g ≠ h → (d.level h false).gate g = d.gate g := by
    intro d h n; rw [Cell.gate_level, if_neg n]
  simp only [gates, List.foldl]
  cases g
  · rw [other _ _ (by decide), other _ _ (by decide), other _ _ (by decide)]; exact now _
  · rw [other _ _ (by decide), other _ _ (by decide)]; exact now _
  · rw [other _ _ (by decide)]; exact now _
  · exact now _

theorem Cell.stageOff_allLow (c : Cell) : c.allLow.stageOff = true := by
  have h := Cell.gate_allLow c
  have a := h .ah; have b := h .al; have d := h .bh; have e := h .bl
  simp only [Cell.gate] at a b d e
  have t : c.allLow.todo = [] := rfl
  have p : c.allLow.pwm = none := rfl
  simp [Cell.stageOff, GateSt.idle, a, b, d, e, t, p]

theorem Cell.legs_of_stageOff {c : Cell} (h : c.stageOff = true) : c.legs := by
  simp only [Cell.stageOff, GateSt.idle, Bool.and_eq_true, Bool.not_eq_true', Option.isNone_iff_eq_none] at h
  obtain ⟨⟨⟨⟨⟨a, b⟩, d⟩, e⟩, _⟩, _⟩ := h
  constructor <;> rw [legSafe_iff] <;> simp [a, b, d, e]

/-- The edges that have come are made. -/
theorem legSafe_run {clk : Nat} {p q p' q' : GateSt} (h : legSafe p q = true)
    (hp : (∃ t b, p.pend = some (t, b) ∧ t ≤ clk ∧ p'.hi = b ∧ p'.pend = none) ∨
      (p' = p ∧ ∀ t b, p.pend = some (t, b) → clk < t))
    (hq : (∃ t b, q.pend = some (t, b) ∧ t ≤ clk ∧ q'.hi = b ∧ q'.pend = none) ∨
      (q' = q ∧ ∀ t b, q.pend = some (t, b) → clk < t)) : legSafe p' q' = true := by
  rw [legSafe_iff] at h ⊢
  obtain ⟨h0, h1, h2⟩ := h
  rcases hp with ⟨t, b, e, le, hb, hn⟩ | ⟨rfl, hp⟩ <;> rcases hq with ⟨u, d, e', le', hd, hn'⟩ | ⟨rfl, hq⟩
  · refine ⟨?_, by simp [hn], by simp [hn']⟩
    rw [hb, hd]; rintro ⟨rfl, rfl⟩
    exact (h1 t e).1 u e'
  · refine ⟨?_, by simp [hn], fun u eu => ⟨by simp [hn], fun hh => ?_⟩⟩
    · rw [hb]; rintro ⟨rfl, hh⟩
      obtain ⟨u, lu, eu⟩ := (h1 t e).2 hh
      have := hq u false eu; omega
    · rw [hb] at hh; subst hh
      exact absurd e ((h2 u eu).1 t)
  · refine ⟨?_, fun u eu => ⟨by simp [hn'], fun hh => ?_⟩, by simp [hn']⟩
    · rw [hd]; rintro ⟨hh, rfl⟩
      obtain ⟨u', lu, eu⟩ := (h2 u e').2 hh
      have := hp u' false eu; omega
    · rw [hd] at hh; subst hh
      exact absurd e' ((h1 u eu).1 _)
  · exact ⟨h0, h1, h2⟩

/-- A fold over the gates, whose steps leave the other gates and the clock, does at each gate what its step does there. -/
theorem Cell.fold_gates (R : Nat → GateSt → GateSt → Prop) (f : Cell → Gate → Cell)
    (other : ∀ d g k, k ≠ g → (f d g).gate k = d.gate k) (clk : ∀ d g, (f d g).clk = d.clk)
    (rel : ∀ d g, R d.clk (d.gate g) ((f d g).gate g)) (c : Cell) (g : Gate) :
    R c.clk (c.gate g) ((gates.foldl f c).gate g) := by
  simp only [gates, List.foldl]
  cases g
  · rw [other _ _ _ (by decide), other _ _ _ (by decide), other _ _ _ (by decide)]; exact rel c .ah
  · rw [other _ _ _ (by decide), other _ _ _ (by decide)]
    have k := rel (f c .ah) .al
    rwa [clk, other _ _ _ (by decide)] at k
  · rw [other _ _ _ (by decide)]
    have k := rel (f (f c .ah) .al) .bh
    rwa [clk, clk, other _ _ _ (by decide), other _ _ _ (by decide)] at k
  · have k := rel (f (f (f c .ah) .al) .bh) .bl
    rwa [clk, clk, clk, other _ _ _ (by decide), other _ _ _ (by decide), other _ _ _ (by decide)] at k

theorem Cell.legs_runEdges (c : Cell) (h : c.legs) : c.runEdges.legs := by
  have all := Cell.fold_gates (fun clk x y => (∃ t b, x.pend = some (t, b) ∧ t ≤ clk ∧ y.hi = b ∧ y.pend = none) ∨
      (y = x ∧ ∀ t b, x.pend = some (t, b) → clk < t)) Cell.runEdge
    (by
      intro d g k n; unfold Cell.runEdge; split
      · split
        · rw [Cell.gate_level, if_neg n]
        · rfl
      · rfl)
    (by
      intro d g; unfold Cell.runEdge; split
      · split
        · exact Cell.clk_level _ _ _
        · rfl
      · rfl)
    (by
      intro d g; unfold Cell.runEdge; split
      · rename_i t b e
        split
        · rename_i le
          left
          refine ⟨t, b, e, le, ?_⟩
          rw [Cell.gate_level]; simp only [if_true]
          split
          · rename_i e'; exact ⟨e', rfl⟩
          · exact ⟨rfl, rfl⟩
        · rename_i le
          right
          refine ⟨rfl, fun t' b' e' => ?_⟩
          rw [e] at e'; cases e'; omega
      · rename_i e
        right
        exact ⟨rfl, fun t' b' e' => by rw [e] at e'; cases e'⟩) c
  rw [Cell.legs_iff] at h ⊢
  exact ⟨legSafe_run h.1 (all .ah) (all .al), legSafe_run h.2 (all .bh) (all .bl)⟩

theorem Cell.legs_plan (c : Cell) (t : Nat) (x : Todo) (h : c.legs) : (c.plan t x).legs := h

theorem Cell.legs_pulse (c : Cell) (isShort : Bool) (back : Nat) (h : c.legs) : (c.pulse isShort back).legs := by
  unfold Cell.pulse
  extract_lets stop src d
  have hd : d.legs := by
    dsimp only [d, src]
    clear_value stop
    split
    · exact ⟨legSafe_hold stop h.1, h.2⟩
    · exact h
  clear_value d stop
  exact Cell.legs_plan _ _ _ (Cell.legs_change d _ _ hd)

theorem Cell.legs_dropReturn (c : Cell) (h : c.legs) : c.dropReturn.legs := by
  unfold Cell.dropReturn
  extract_lets src d
  have hd : d.legs := h
  clear_value d
  split
  · rename_i t e
    exact ⟨legSafe_cancel (t := t) hd.1 e, hd.2⟩
  · exact hd

theorem Cell.legs_excursion (c : Cell) (next : Option NextGate) (back : Nat) (h : c.legs) :
    (c.excursion next back).legs := by
  unfold Cell.excursion
  extract_lets stretch isShort due on cut t
  split
  · exact h
  · split
    · exact Cell.legs_pulse c _ back h
    · split
      · exact h
      · split
        · exact Cell.legs_pulse _ _ _ (Cell.legs_dropReturn c h)
        · exact h

theorem Cell.legs_edgeDue (c : Cell) (next : Option NextGate) (h : c.legs) : (c.edgeDue next).legs := by
  unfold Cell.edgeDue
  split
  · exact h
  · extract_lets d
    have hd : d.legs := Cell.legs_of_frame (Cell.Frame.clkTo c _) h
    clear_value d
    split
    · rename_i x _
      have hd' : ({ d with todo := d.todo.erase x } : Cell).legs := hd
      generalize ({ d with todo := d.todo.erase x } : Cell) = e at hd'
      obtain ⟨t, x⟩ := x
      cases x
      · exact Cell.legs_excursion e next _ hd'
      · exact Cell.legs_change e _ _ hd'
      · exact Cell.legs_change e _ _ hd'
    · exact Cell.legs_runEdges d hd

theorem Cell.legs_carrierStart (c : Cell) (h : c.legs) : c.carrierStart.legs := by
  unfold Cell.carrierStart
  split
  · exact h
  · extract_lets d1 d2 ks du tc
    have h1 : d1.legs := Cell.legs_of_frame (Cell.Frame.clkTo c _) h
    have h2 : d2.legs := by
      dsimp only [d2]
      clear_value d1
      split
      · split
        · exact h1
        · exact h1
      · exact h1
    clear_value ks du tc d2
    unfold Cell.carrierPulse
    split
    · exact h2
    · exact h2

theorem Cell.legs_selfRefresh (c : Cell) (h : c.legs) : c.selfRefresh.legs := by
  unfold Cell.selfRefresh
  extract_lets d
  have hd : d.legs := h
  clear_value d
  exact Cell.legs_change d _ _ hd


/-! ### Safety by its parts -/

/-- `Cell.safe` by its parts. -/
structure Cell.Sound (c : Cell) : Prop where
  le : c.st ≤ 4
  legs : c.legs
  off : c.st = stUnconf ∨ c.st = stRetired → c.stageOff = true
  cfg : ∀ p ∈ c.pendCfg, 0x800 ≤ p.1 ∧ p.1 < 0x1400
  wf : swf cnReset c.regs = true

theorem Cell.safe_iff (c : Cell) : c.safe = true ↔ c.Sound := by
  unfold Cell.safe
  simp only [Bool.and_eq_true, decide_eq_true_eq, List.all_eq_true, Bool.or_eq_true, Bool.not_eq_true',
    Bool.or_eq_false_iff, beq_eq_false_iff_ne]
  constructor
  · rintro ⟨⟨⟨⟨⟨a, b⟩, d⟩, e⟩, f⟩, g⟩
    refine ⟨a, ⟨b, d⟩, fun h => ?_, f, g⟩
    rcases e with e | e
    · exact e
    · rcases h with h | h
      · exact absurd h e.1
      · exact absurd h e.2
  · rintro ⟨a, b, d, e, f⟩
    refine ⟨⟨⟨⟨⟨a, b.1⟩, b.2⟩, ?_⟩, e⟩, f⟩
    by_cases h : c.st = stUnconf ∨ c.st = stRetired
    · exact .inl (d h)
    · exact .inr (not_or.mp h)

theorem Cell.stageOff_of_frame {c d : Cell} (f : Cell.Frame c d) (h : c.stageOff = true) : d.stageOff = true := by
  unfold Cell.stageOff at *; rw [f.ah, f.al, f.bh, f.bl, f.todo, f.pwm]; exact h

theorem Cell.st_setSt (c : Cell) {x : Nat} (hx : x ≤ 4) : (c.setSt x).st = x := by
  unfold Cell.st Cell.setSt Cell.fld Cell.setFld
  rw [Cell.reg_setReg_same c, fld_setFld_same _ (by omega)]
  omega

namespace Cell.Sound

theorem frame {c d : Cell} (h : c.Sound) (f : Cell.Frame c d) : d.Sound :=
  ⟨by rw [f.st h.wf]; exact h.le, Cell.legs_of_frame f h.legs,
    fun e => Cell.stageOff_of_frame f (h.off (by rwa [f.st h.wf] at e)), by rw [f.cfg]; exact h.cfg, f.wf h.wf⟩

theorem ite {c d : Cell} {p : Prop} [Decidable p] (h : p → c.Sound) (k : ¬ p → d.Sound) :
    (if p then c else d).Sound := by
  split
  · rename_i e; exact h e
  · rename_i e; exact k e

/-- A change of the stage while the cell is neither Unconfigured nor Retired. -/
theorem live {c d : Cell} (h : c.Sound) (b : Cell.Base c d) (l : d.legs) (n : c.st ≠ stUnconf) (m : c.st ≠ stRetired) :
    d.Sound :=
  ⟨by rw [b.st h.wf]; exact h.le, l, fun e => by
    rw [b.st h.wf] at e
    rcases e with e | e
    · exact absurd e n
    · exact absurd e m, by rw [b.cfg]; exact h.cfg, b.wf h.wf⟩

/-- A new STATE, with the stage at rest. -/
theorem rest {c d : Cell} (h : c.Sound) (b : Cell.Base c d) (o : d.stageOff = true) {x : Nat} (hx : x ≤ 4) :
    (d.setSt x).Sound := by
  have w := b.wf h.wf
  refine ⟨by rw [Cell.st_setSt d hx]; exact hx, Cell.legs_of_stageOff o, fun _ => o, ?_, swf_sset _ w _ _⟩
  intro p hp
  have : p ∈ d.pendCfg := hp
  rw [b.cfg] at this; exact h.cfg p this

/-- A new STATE, neither Unconfigured nor Retired. -/
theorem put {c d : Cell} (h : c.Sound) (b : Cell.Base c d) (l : d.legs) {x : Nat} (hx : x ≤ 4) (n : x ≠ stUnconf)
    (m : x ≠ stRetired) : (d.setSt x).Sound := by
  have w := b.wf h.wf
  have e := Cell.st_setSt d hx
  refine ⟨by rw [e]; exact hx, l, fun k => ?_, ?_, swf_sset _ w _ _⟩
  · rw [e] at k
    rcases k with k | k
    · exact absurd k n
    · exact absurd k m
  · intro p hp
    have : p ∈ d.pendCfg := hp
    rw [b.cfg] at this; exact h.cfg p this

theorem edgeDue {c : Cell} (h : c.Sound) (next : Option NextGate) : (c.edgeDue next).Sound := by
  by_cases e : c.st = stUnconf ∨ c.st = stRetired
  · have o := h.off e
    have : c.edgeDue next = c := by
      simp only [Cell.stageOff, GateSt.idle, Bool.and_eq_true, Bool.not_eq_true', Option.isNone_iff_eq_none,
        List.isEmpty_iff] at o
      obtain ⟨⟨⟨⟨⟨a, b⟩, d⟩, f⟩, t⟩, _⟩ := o
      unfold Cell.edgeDue Cell.dueTimes
      simp [gates, Cell.gate, a, b, d, f, t, earliest]
    rw [this]; exact h
  · rw [not_or] at e
    exact h.live (Cell.Base.edgeDue c next) (Cell.legs_edgeDue c next h.legs) e.1 e.2

theorem gateEdge {c : Cell} (h : c.Sound) : c.gateEdge.Sound := h.edgeDue _

theorem carrierStart {c : Cell} (h : c.Sound) : c.carrierStart.Sound := by
  by_cases e : c.st = stUnconf ∨ c.st = stRetired
  · have o := h.off e
    have : c.carrierStart = c := by
      simp only [Cell.stageOff, Bool.and_eq_true, Option.isNone_iff_eq_none] at o
      unfold Cell.carrierStart
      rw [o.2]
    rw [this]; exact h
  · rw [not_or] at e
    exact h.live (Cell.Base.carrierStart c) (Cell.legs_carrierStart c h.legs) e.1 e.2

/-! ### Protection -/

theorem blockNow {c : Cell} (h : c.Sound) {i : Nat} (hi : i ≤ 8) : (c.blockNow i).Sound := by
  unfold Cell.blockNow
  extract_lets d
  refine ite (fun _ => h) (fun _ => ?_)
  have b : Cell.Base c d :=
    ((Cell.Base.of (Cell.Frame.setCause c hi _)).trans (Cell.Base.allLow _)).trans (Cell.Base.of (Cell.Frame.setLocal _ _))
  have o : d.stageOff = true := Cell.stageOff_of_frame (Cell.Frame.setLocal _ _) (Cell.stageOff_allLow _)
  clear_value d
  have f : Cell.Frame d (if c.st = stFrozen then (d.setCause cFreeze true).thaw else d) :=
    Cell.Frame.ite ((Cell.Frame.setCause d (by decide) _).trans (Cell.Frame.thaw _)) (Cell.Frame.refl d)
  exact h.rest (b.trans (Cell.Base.of f)) (Cell.stageOff_of_frame f o) (by decide)

theorem blockSoft {c : Cell} (h : c.Sound) {i : Nat} (hi : i ≤ 8) (dec : Nat) : (c.blockSoft i dec).Sound := by
  unfold Cell.blockSoft
  extract_lets d
  refine ite (fun _ => ?_) (fun _ => h)
  have b : Cell.Base c d := Cell.Base.same rfl rfl
  have l : d.legs := h.legs
  clear_value d
  have f : Cell.Frame (d.change 3 (some dec)) ((((d.change 3 (some dec)).setGst 3).setCause i true).setLocal false) :=
    ((Cell.Frame.setGst _ _).trans (Cell.Frame.setCause _ hi _)).trans (Cell.Frame.setLocal _ _)
  exact h.put ((b.trans (Cell.Base.change d _ _)).trans (Cell.Base.of f))
    (Cell.legs_of_frame f (Cell.legs_change d _ _ l)) (by decide) (by decide) (by decide)

theorem freezeExit {c : Cell} (h : c.Sound) : c.freezeExit.Sound := by
  unfold Cell.freezeExit
  refine ite (fun _ => ?_) (fun _ => h)
  have f : Cell.Frame c.allLow (c.allLow.setCause cFreeze true) := Cell.Frame.setCause _ (by decide) _
  exact (h.rest ((Cell.Base.allLow c).trans (Cell.Base.of f)) (Cell.stageOff_of_frame f (Cell.stageOff_allLow c))
    (x := stBlocked) (by decide)).frame (Cell.Frame.thaw _)

theorem enterRetired {c : Cell} (h : c.Sound) (cause : Nat) : (c.enterRetired cause).Sound := by
  unfold Cell.enterRetired
  extract_lets d1 d2 d3
  have f : Cell.Frame c.allLow d1 := (Cell.Frame.setLocal _ _).trans (Cell.Frame.thaw _)
  have f' : Cell.Frame d1 (d1.setFld Reg.CN_SYS_STATE 17 3 cause) := Cell.Frame.state _ (by omega) (by omega) _
  have s2 : d2.Sound := h.rest ((Cell.Base.allLow c).trans (Cell.Base.of (f.trans f')))
    (Cell.stageOff_of_frame (f.trans f') (Cell.stageOff_allLow c)) (by decide)
  have s3 : d3.Sound := ite (fun _ => s2.frame (Cell.Frame.setBit d2 (by decide) _ _)) (fun _ => s2)
  exact s3.frame (Cell.Frame.of_eq rfl rfl rfl rfl rfl rfl rfl rfl)

theorem retireNow {c : Cell} (h : c.Sound) (cause : Nat) : (c.retireNow cause).Sound :=
  ite (fun _ => h.enterRetired cause) (fun _ => h)

theorem desat {c : Cell} (h : c.Sound) (b chat : Bool) : (c.desat b chat).Sound := by
  unfold Cell.desat
  exact (ite (fun _ => h.frame (Cell.Frame.setChatter c _ _)) (fun _ => h)).retireNow _

theorem supplyBlock {c : Cell} (h : c.Sound) : c.supplyBlock.Sound := by
  unfold Cell.supplyBlock
  exact ite (fun _ => (h.frame (Cell.Frame.setBit _ (by decide) _ _)).blockNow (by decide)) (fun _ => h)

theorem supplyLost {c : Cell} (h : c.Sound) (chat : Bool) : (c.supplyLost chat).Sound := by
  unfold Cell.supplyLost
  exact (ite (fun _ => h.frame (Cell.Frame.setChatter c _ _))
    (fun _ => h.frame (Cell.Frame.lit (Cell.Frame.refl c)))).supplyBlock

theorem parityError {c : Cell} (h : c.Sound) : c.parityError.Sound := by
  unfold Cell.parityError
  extract_lets d
  have s : d.Sound := (h.frame (Cell.Frame.setBit c (by decide) _ _)).blockNow (by decide)
  exact ite (fun _ => s.frame (Cell.Frame.lit (Cell.Frame.refl d))) (fun _ => h)

theorem tripConv {c : Cell} (h : c.Sound) (raw : Int) : (c.tripConv raw).Sound := by
  unfold Cell.tripConv
  extract_lets n d
  have s : d.Sound := h.frame (Cell.Frame.lit (Cell.Frame.refl c))
  exact ite (fun _ => s.retireNow _) (fun _ => s)

theorem capConv {c : Cell} (h : c.Sound) (raw : Int) : (c.capConv raw).Sound := by
  unfold Cell.capConv
  extract_lets y o d1 d2
  have s1 : d1.Sound := h.frame (Cell.Frame.setReg c (by decide) _)
  have s2 : d2.Sound := ite (fun _ => s1.frame (Cell.Frame.setBit d1 (by decide) _ _)) (fun _ => s1)
  exact ite (fun _ => (s2.frame (Cell.Frame.warning d2 _ _ _ _)).tripConv raw)
    (fun _ => s2.frame (Cell.Frame.lit (Cell.Frame.refl d2)))

theorem overVoltage {c : Cell} (h : c.Sound) (raws : List Int) : (c.overVoltage raws).Sound := by
  unfold Cell.overVoltage
  induction raws generalizing c with
  | nil => exact h
  | cons a l ih => exact ih (h.capConv a)

theorem auxResult {c : Cell} (h : c.Sound) (ch : Nat) (raws : List Int) : (c.auxResult ch raws).Sound := by
  unfold Cell.auxResult
  extract_lets sum y src d1 d2 hot d3 d4 ins
  have s2 : d2.Sound := h.frame (Cell.Frame.trans (d := d1)
    (Cell.Frame.lit (Cell.Frame.setReg c (by unfold Reg.CN_ADC_AUX Reg.CN_SYS_STATE; omega) _))
    (Cell.Frame.ite (Cell.Frame.setBit d1 (by decide) _ _) (Cell.Frame.refl d1)))
  have s4 : d4.Sound := (s2.frame (Cell.Frame.warning d2 _ _ _ _)).frame
    (Cell.Frame.ite (Cell.Frame.setCause d3 (by decide) _) (Cell.Frame.refl d3))
  exact ite (fun _ => h) (fun _ => ite (fun _ => s2) (fun _ => ite
    (fun _ => ite (fun _ => (s4.frame (Cell.Frame.setBit d4 (by decide) _ _)).blockNow (by decide)) (fun _ => s4))
    (fun _ => ite (fun _ => s2.frame (Cell.Frame.warning d2 _ _ _ _)) (fun _ => s2))))

theorem freezeWrite {c : Cell} (h : c.Sound) (w : Word) : (c.freezeWrite w).Sound := by
  unfold Cell.freezeWrite
  extract_lets fz d
  have f : Cell.Frame c d := Cell.Frame.setReg c (by decide) _
  have s : d.Sound := h.frame f
  refine ite (fun _ => h.frame (Cell.Frame.setBit c (by decide) _ _)) (fun _ => ite (fun _ => ite (fun _ => s) (fun _ => ?_)) (fun _ => s.freezeExit))
  have g : Cell.Frame d.holdGates (d.holdGates.setLocal false) := Cell.Frame.setLocal _ _
  exact s.put ((Cell.Base.holdGates d).trans (Cell.Base.of g)) (Cell.legs_of_frame g (Cell.legs_holdGates d s.legs))
    (by decide) (by decide) (by decide)

theorem calDone {c : Cell} (h : c.Sound) : c.calDone.Sound := by
  unfold Cell.calDone
  extract_lets d
  have f : Cell.Frame c ((c.setBit Reg.CN_SYS_CFG_STAT 1 true).setBit Reg.CN_ADC_STAT 0 false) :=
    (Cell.Frame.setBit c (by decide) _ _).trans (Cell.Frame.setBit _ (by decide) _ _)
  have s : d.Sound := h.put (Cell.Base.of f) (Cell.legs_of_frame f h.legs) (by decide) (by decide) (by decide)
  exact ite (fun _ => (s.frame (Cell.Frame.lit (Cell.Frame.refl d))).supplyBlock) (fun _ => h)

/-! ### The frame -/

theorem sample {c : Cell} (h : c.Sound) (r0 r1 r2 : Int) : (c.sample r0 r1 r2).Sound := by
  unfold Cell.sample
  extract_lets n d1 d2 code uv d3 d4 d5
  have s : d5.Sound := by
    have s1 : d1.Sound := h.frame (Cell.Frame.passTo c _)
    have s2 : d2.Sound := ((s1.capConv _).capConv _).capConv _
    have s3 : d3.Sound := ite (fun _ => s2.frame (Cell.Frame.warning d2 _ _ _ _)) (fun _ => s2)
    have s4 : d4.Sound := s3.frame (Cell.Frame.setReg d3 (by decide) _)
    exact s4.frame (Cell.Frame.lit (Cell.Frame.refl d4))
  exact ite (fun _ => h) (fun _ => ite (fun _ => s.freezeExit) (fun _ => s))

theorem takeState {c : Cell} (h : c.Sound) (gst dec : Nat) : (c.takeState gst dec).Sound := by
  unfold Cell.takeState
  extract_lets d
  refine ite (fun _ => h) (fun _ => ?_)
  have b : Cell.Base c d := (Cell.Base.same rfl rfl : Cell.Base c { c with todo := [], pwm := none }).trans
    (Cell.Base.of (Cell.Frame.setLocal _ _))
  have l : d.legs := Cell.legs_of_frame (Cell.Frame.setLocal _ _) (c := { c with todo := [], pwm := none }) h.legs
  clear_value d
  have s := h.put (x := stActive) b l (by decide) (by decide) (by decide)
  have e : (d.setSt stActive).st = stActive := Cell.st_setSt d (by decide)
  generalize d.setSt stActive = d1 at s e
  have s' : (d1.change gst (some dec)).Sound :=
    s.live (Cell.Base.change _ _ _) (Cell.legs_change _ _ _ s.legs) (by rw [e]; decide) (by rw [e]; decide)
  exact s'.frame (Cell.Frame.setGst _ _)

theorem setPwm {c : Cell} (h : c.Sound) (e : c.st = stActive) (p : Option Pwm) : ({ c with pwm := p } : Cell).Sound :=
  h.live (Cell.Base.same rfl rfl) h.legs (by rw [e]; decide) (by rw [e]; decide)

theorem takeTrim {c : Cell} (h : c.Sound) (k d dec : Nat) : (c.takeTrim k d dec).Sound := by
  unfold Cell.takeTrim
  extract_lets x
  have s : x.Sound := (h.frame (Cell.Frame.setReg c (by decide) _)).takeState _ _
  exact ite (fun e => s.setPwm e _) (fun _ => s)

theorem takeOverride {c : Cell} (h : c.Sound) (a : Nat) : (c.takeOverride a).Sound := by
  unfold Cell.takeOverride
  extract_lets dec gst x y
  have s : x.Sound := h.takeState _ _
  refine ite (fun _ => h.takeState _ _) (fun _ => ite (fun e => ?_) (fun _ => s))
  have f : Cell.Frame x y := (Cell.Frame.setGst x _).trans (Cell.Frame.setLocal _ _)
  exact (s.frame f).setPwm ((f.st s.wf).trans e) _

theorem notAcked {c : Cell} (h : c.Sound) : c.notAcked.Sound := by
  unfold Cell.notAcked
  extract_lets d
  have s : d.Sound := h.frame (Cell.Frame.lit (Cell.Frame.refl c))
  exact ite (fun _ => s.blockNow (by decide)) (fun _ => s)

theorem takeNormal {c : Cell} (h : c.Sound) (r : CnRec) (l : Latch) (dec : Nat) : (c.takeNormal r l dec).Sound := by
  unfold Cell.takeNormal
  extract_lets d1 d2 d3 o d4
  have s1 : d1.Sound := h.frame (Cell.Frame.setCause c (by decide) _)
  have s2 : d2.Sound := s1.frame (Cell.Frame.setCause d1 (by decide) _)
  have s3 : d3.Sound := ite (fun _ => s2.frame (Cell.Frame.lit (Cell.Frame.refl d2))) (fun _ => s1)
  have s4 : d4.Sound := s3.takeState _ _
  exact ite (fun _ => s3.blockSoft (by decide) _) (fun _ => ite (fun _ => s3.takeOverride _) (fun _ =>
    ite (fun _ => s4.frame (Cell.Frame.lit (Cell.Frame.refl d4))) (fun _ => ite (fun _ => s3.notAcked) (fun _ =>
    ite (fun _ => s3.takeTrim _ _ _) (fun _ => ite (fun _ => s3.takeState _ _) (fun _ => s3.takeState _ _))))))

theorem takeRecord {c : Cell} (h : c.Sound) (r : CnRec) (l : Latch) (dec : Nat) : (c.takeRecord r l dec).Sound := by
  unfold Cell.takeRecord
  extract_lets d1 d2 d3
  have s1 : d1.Sound := h.frame ((Cell.Frame.setCause c (by decide) _).trans (Cell.Frame.setCause _ (by decide) _))
  have s2 : d2.Sound := s1.frame (Cell.Frame.lit (Cell.Frame.refl d1))
  have s3 : d3.Sound := s2.frame (Cell.Frame.setCause d2 (by decide) _)
  exact ite (fun _ => s2) (fun _ => ite
    (fun _ => (s3.frame (Cell.Frame.lit (Cell.Frame.refl d3))).blockSoft (by decide) _) (fun _ =>
    ite (fun _ => s2) (fun _ => s2.takeNormal _ _ _)))

theorem missRecord {c : Cell} (h : c.Sound) : c.missRecord.Sound := by
  unfold Cell.missRecord
  extract_lets limit d1 d2 d3 d4
  have s1 : d1.Sound := h.frame (Cell.Frame.inc c (by decide))
  have s2 : d2.Sound := s1.frame (Cell.Frame.lit (Cell.Frame.refl d1))
  have s3 : d3.Sound := s2.frame (Cell.Frame.lit (Cell.Frame.refl d2))
  have s4 : d4.Sound := s2.frame (Cell.Frame.lit (Cell.Frame.refl d2))
  exact ite (fun _ => s2) (fun _ => ite (fun _ => ite (fun _ => s3.freezeExit) (fun _ => s3))
    (fun _ => ite (fun _ => (s4.frame (Cell.Frame.inc d4 (by decide))).blockNow (by decide)) (fun _ => s4)))

theorem applyCfg {c : Cell} (h : c.Sound) : c.applyCfg.Sound := by
  unfold Cell.applyCfg
  extract_lets d
  have f : Cell.Frame c d := by
    have go : ∀ (l : List (Nat × Word)) (c : Cell), (∀ p ∈ l, 0x800 ≤ p.1 ∧ p.1 < 0x1400) →
        Cell.Frame c (l.foldl (fun c p => c.setReg p.1 p.2) c) := by
      intro l
      induction l with
      | nil => intro c _; exact Cell.Frame.refl c
      | cons p l ih =>
        intro c hl
        refine (Cell.Frame.setReg c ?_ p.2).trans (ih _ fun q hq => hl q (List.mem_cons_of_mem _ hq))
        have := hl p (List.mem_cons_self ..)
        unfold Reg.CN_SYS_STATE; omega
    exact go _ c h.cfg
  have s := h.frame f
  clear_value d
  exact ⟨s.le, s.legs, s.off, fun p hp => (by cases hp), s.wf⟩

theorem localAgain {c : Cell} (h : c.Sound) : c.localAgain.Sound := by
  unfold Cell.localAgain
  split
  · rename_i p e
    refine ite (fun _ => ?_) (fun _ => h)
    by_cases k : c.st = stUnconf ∨ c.st = stRetired
    · have o := h.off k
      simp only [Cell.stageOff, Bool.and_eq_true, Option.isNone_iff_eq_none] at o
      rw [o.2] at e; cases e
    · rw [not_or] at k
      exact h.live (Cell.Base.same rfl rfl) h.legs k.1 k.2
  · exact h

theorem ownRefresh {c : Cell} (h : c.Sound) (f : Nat) : (c.ownRefresh f).Sound := by
  unfold Cell.ownRefresh
  split
  · refine ite (fun e => ?_) (fun _ => h)
    exact h.live (Cell.Base.selfRefresh c) (Cell.legs_selfRefresh c h.legs) (by rw [e.2.1]; decide) (by rw [e.2.1]; decide)
  · exact h

theorem act {c : Cell} (h : c.Sound) (f : Nat) : (c.act f).Sound := by
  unfold Cell.act
  split
  · exact h.missRecord
  · exact ite (fun _ => h.frame (Cell.Frame.lit (Cell.Frame.refl c))) (fun _ => ite (fun _ => h) (fun _ => h.takeRecord _ _ _))

theorem forceBlocked {c : Cell} (h : c.Sound) : c.forceBlocked.Sound := by
  unfold Cell.forceBlocked
  exact ite (fun _ => h) (fun _ => ite (fun _ => (h.frame (Cell.Frame.setCause c (by decide) _)).freezeExit)
    (fun _ => h.blockSoft (by decide) _))

theorem apply {c : Cell} (h : c.Sound) : c.apply.Sound := by
  unfold Cell.apply
  extract_lets f d1 d2 d3 d4
  have s1 : d1.Sound := (h.frame (Cell.Frame.passTo c _)).applyCfg
  have s2 : d2.Sound := ite (fun _ => s1.retireNow _) (fun _ => s1)
  have s3 : d3.Sound := s2.forceBlocked
  have s4 : d4.Sound := (s3.localAgain.act f).ownRefresh f
  exact ite (fun _ => h) (fun _ => s4.frame (Cell.Frame.lit (Cell.Frame.refl d4)))

theorem retireCmd {c : Cell} (h : c.Sound) : c.retireCmd.Sound :=
  ite (fun _ => (h.frame (Cell.Frame.passTo c _)).retireNow _) (fun _ => h)

end Cell.Sound

end Sys2Proof.Machine
end

