-- ==== Sys2Proof/Laws/CellPacket.lean ====
section
/-!
SUPPORT. Packets, trains and resets keep a cell safe.
-/

namespace Sys2Proof.Machine

/-! ### Frames of the management channel -/

namespace Cell.Frame

theorem hkWrite (c : Cell) (a : Nat) (w : Word) : Cell.Frame c (c.hkWrite a w) := by
  unfold Cell.hkWrite
  refine ite (refl c) (ite (lit (refl c)) (ite (inc c (by decide)) (ite (mboxIn c w) (ite (mboxOut c w) ?_))))
  split
  · rename_i e; subst e; exact (setReg c (by decide) _).trans (hkSync _)
  · split
    · rename_i e
      refine setReg c ?_ w
      have := e.1
      unfold Reg.CN_HK_MBOX_IN at this; unfold Reg.CN_SYS_STATE; omega
    · exact refl c

theorem ite_snd {α : Type} {c : Cell} {d e : α × Cell} {p : Prop} [Decidable p] (h : Cell.Frame c d.2)
    (k : Cell.Frame c e.2) : Cell.Frame c (if p then d else e).2 := by
  split
  · exact h
  · exact k

theorem read (c : Cell) (a : Nat) : Cell.Frame c (c.read a).2 := by
  unfold Cell.read
  refine ite_snd (refl c) (ite_snd (lit (refl c)) (ite_snd (refl c) (ite_snd (lit (refl c)) (ite_snd (refl c)
    (ite_snd (refl c) (ite_snd (refl c) (ite_snd (refl c) (ite_snd (refl c) (ite_snd (lit (refl c)) ?_)))))))))
  split
  · exact refl c
  · exact refl c

theorem readAll (l : List Nat) (c : Cell) : Cell.Frame c (c.readAll l).2 := by
  induction l generalizing c with
  | nil => exact refl c
  | cons a l ih => exact (read c a).trans (ih _)

theorem flagRefused (c : Cell) (ws : List (Nat × Word)) (cfg : Bool) (x : Nat × Word) :
    Cell.Frame c (c.flagRefused ws cfg x) := by
  unfold Cell.flagRefused
  extract_lets d1 d2 d3 d4
  have h1 : Cell.Frame c d1 := ite (setBit c (by decide) _ _) (refl c)
  have h2 : Cell.Frame d1 d2 := ite (setBit d1 (by decide) _ _) (refl d1)
  have h3 : Cell.Frame d2 d3 := ite (setBit d2 (by decide) _ _) (refl d2)
  have h4 : Cell.Frame d3 d4 := ite (setBit d3 (by decide) _ _) (refl d3)
  exact (((h1.trans h2).trans h3).trans h4).trans (ite (setBit d4 (by decide) _ _) (refl d4))

theorem protCmd (c : Cell) (cfg : Bool) (w : Word) : Cell.Frame c (c.protCmd cfg w) := by
  unfold Cell.protCmd
  extract_lets d
  have h : Cell.Frame c d := ite (ite (lit (refl c)) (ite (lit (refl c)) (refl c))) (refl c)
  exact h.trans (ite (parityClear d) (refl d))

/-- Registers that software may write are not `CN_SYS_STATE`. -/
theorem writable_ne {a : Nat} {r : RegRow} (h : cnRow a = some r) (k : r.acc = .rws ∨ r.acc = .rw) :
    a ≠ Reg.CN_SYS_STATE := by
  intro e
  rw [e] at h
  have : (cnRow Reg.CN_SYS_STATE).map (·.acc) = some .ro := by decide
  rw [h] at this
  simp only [Option.map_some, Option.some.injEq] at this
  rw [this] at k
  rcases k with k | k <;> cases k

theorem plainWrite_cfg (c : Cell) (a : Nat) (w : Word) : Cell.Frame c (c.plainWrite true a w) := by
  unfold Cell.plainWrite
  split
  · rename_i r e
    split
    · rename_i k
      simp only [Bool.not_true, Bool.false_eq_true, false_and, if_false]
      exact setReg c (writable_ne e k) _
    · exact refl c
  · exact refl c

theorem rxcfgWrite (c : Cell) (i : Nat) (w : Word) : Cell.Frame c (c.rxcfgWrite i w) := by
  unfold Cell.rxcfgWrite
  extract_lets d
  have h : Cell.Frame c d := plainWrite_cfg c _ w
  exact h.trans (ite (setFld d (lane_ne _ _ (by omega)) _ _ _) (refl d))

theorem boundaryWrite (c : Cell) (cfg : Bool) (a : Nat) (w : Word) (n : a ≠ Reg.CN_SYS_STATE) :
    Cell.Frame c (c.boundaryWrite cfg a w) := by
  unfold Cell.boundaryWrite
  refine ite (lit (refl c)) (ite (ite (lit (setReg c n _)) (lit (setReg c n _))) (ite (ite ((setReg c n _).trans
    (setReg _ (by decide) _)) (setReg c n _)) (ite (setReg c n _) (ite (ite (lit (setReg c n _)) (setReg c n _)) ?_))))
  exact ite (ite (setReg c n _) (lit (refl c))) (ite (setReg c n _) (lit (refl c)))

theorem cfgFirst (c : Cell) : Cell.Frame c c.cfgFirst := by
  unfold Cell.cfgFirst
  extract_lets keep
  have k : ∀ p : Nat × Word, p.1 = Reg.CN_SYS_STATE → keep p = true := by
    intro p e
    simp only [keep, e]
    decide
  refine Cell.Frame.trans (Cell.Frame.trans (d := { c with regs := c.regs.filter keep }) ?_ (lit (refl _)))
    (setFld _ (by decide) _ _ _)
  refine ⟨rfl, rfl, rfl, rfl, rfl, rfl, rfl, fun _ => ?_, fun hw => swf_filter _ _ hw⟩
  unfold Cell.st Cell.fld Cell.reg
  rw [sget_filter cnReset c.regs keep Reg.CN_SYS_STATE (fun a => k _ rfl)]

theorem cfgTaken (c : Cell) (p : CnPkt) : Cell.Frame c (c.cfgTaken p) := by
  unfold Cell.cfgTaken
  exact lit (setReg c (by decide) _)

theorem cfgPower (c : Cell) (p : CnPkt) : Cell.Frame c (c.cfgPower p) :=
  ite ((setBit c (by decide) _ _).trans (setBit _ (by decide) _ _)) (refl c)

theorem keepTag (c : Cell) (p : CnPkt) : Cell.Frame c (c.keepTag p) := by
  unfold Cell.keepTag
  exact ite (lit (setFld c (by decide) _ _ _)) (lit (setFld c (by decide) _ _ _))

theorem passPacket (c : Cell) (p : CnPkt) (ws : List Nat) (d m : Nat) : Cell.Frame c (c.passPacket p ws d m) := by
  unfold Cell.passPacket
  exact foldl _ (fun c o => send c _ _) _ c

theorem answer (c : Cell) (p : CnPkt) (s : Nat) (ws : List Nat) (dc : Nat) : Cell.Frame c (c.answer p s ws dc) := by
  unfold Cell.answer
  extract_lets d
  have h : Cell.Frame c d := ite (addFld c (by decide) _ _ _) (addFld c (by decide) _ _ _)
  exact h.trans (ite (passPacket d _ _ _ _) ((blockErrs d _ _).trans (passPacket _ _ _ _ _)))

theorem readPacket (c : Cell) (p : CnPkt) : Cell.Frame c (c.readPacket p) := by
  unfold Cell.readPacket
  split
  rename_i ws d e
  have h : Cell.Frame c d := by
    have := readAll p.addrs c
    rw [e] at this; exact this
  exact h.trans (answer d _ _ _ _)

end Cell.Frame

namespace Cell.Sound

theorem plainWrite {c : Cell} (h : c.Sound) (cfg : Bool) (a : Nat) (w : Word) : (c.plainWrite cfg a w).Sound := by
  unfold Cell.plainWrite
  split
  · rename_i r e
    refine ite (fun k => ite (fun g => ?_) (fun _ => h.frame (Cell.Frame.setReg c (Cell.Frame.writable_ne e k) _))) (fun _ => h)
    refine ⟨h.le, h.legs, h.off, fun p hp => ?_, h.wf⟩
    rcases mem_sput hp with rfl | hp
    · exact ⟨g.2.1, g.2.2⟩
    · exact h.cfg p hp
  · exact h

theorem wordIn {c : Cell} (h : c.Sound) (cfg : Bool) (x : Nat × Word) : (Cell.wordIn cfg c x).Sound := by
  unfold Cell.wordIn
  obtain ⟨a, w⟩ := x
  dsimp only
  refine ite (fun _ => ite (fun _ => h.frame (Cell.Frame.lit (Cell.Frame.refl c))) (fun _ => h)) (fun _ => ite (fun e => ?_) (fun _ => ?_))
  · refine h.frame (Cell.Frame.boundaryWrite c cfg a w ?_)
    rintro rfl
    exact absurd e (by decide)
  · refine ite (fun _ => h.frame (Cell.Frame.setReg c (by decide) _)) (fun _ => ?_)
    refine ite (fun _ => h.frame (Cell.Frame.setReg c (by decide) _)) (fun _ => ?_)
    refine ite (fun _ => h.frame (Cell.Frame.setReg c (by decide) _)) (fun _ => ?_)
    refine ite (fun _ => h.frame (Cell.Frame.setReg c (by decide) _)) (fun _ => ?_)
    refine ite (fun e => h.frame (Cell.Frame.setReg c (by rw [e]; decide) _)) (fun _ => ?_)
    refine ite (fun e => h.frame (Cell.Frame.lit (Cell.Frame.setReg c (by rw [e]; decide) _))) (fun _ => ?_)
    refine ite (fun e => h.frame (Cell.Frame.lit (Cell.Frame.setReg c (by rw [e]; decide) _))) (fun _ => ?_)
    refine ite (fun _ => h.frame (Cell.Frame.pwmCommit c)) (fun _ => ?_)
    refine ite (fun _ => h.frame (Cell.Frame.protCmd c _ _)) (fun _ => ?_)
    refine ite (fun _ => h.freezeWrite w) (fun _ => ?_)
    refine ite (fun _ => h.frame (Cell.Frame.adcCal c)) (fun _ => ?_)
    refine ite (fun _ => (h.plainWrite _ _ _).frame (Cell.Frame.hkSync _)) (fun _ => ?_)
    refine ite (fun _ => h.frame (Cell.Frame.mboxIn c w)) (fun _ => ?_)
    refine ite (fun _ => h.frame (Cell.Frame.mboxOut c w)) (fun _ => ?_)
    refine ite (fun _ => h.frame (Cell.Frame.rxcfgWrite c _ w)) (fun _ => ?_)
    exact ite (fun _ => h.frame (Cell.Frame.rxcfgWrite c _ w)) (fun _ => h.plainWrite _ _ _)

theorem foldl {α : Type} (f : Cell → α → Cell) (hf : ∀ c a, c.Sound → (f c a).Sound) (l : List α) {c : Cell}
    (h : c.Sound) : (l.foldl f c).Sound := by
  induction l generalizing c with
  | nil => exact h
  | cons a l ih => exact ih (hf c a h)

theorem wordsIn {c : Cell} (h : c.Sound) (p : CnPkt) (cfg : Bool) : (c.wordsIn p cfg).2.Sound := by
  unfold Cell.wordsIn
  dsimp only
  split
  · exact h
  · split
    · exact foldl _ (fun d x hd => hd.frame (Cell.Frame.flagRefused d _ _ x)) _ h
    · exact foldl _ (fun d x hd => hd.wordIn cfg x) _ h

theorem configIn {c : Cell} (h : c.Sound) (p : CnPkt) : (c.configIn p).2.Sound := by
  unfold Cell.configIn
  extract_lets c0
  have s0 : c0.Sound := ite (fun _ => h.frame (Cell.Frame.cfgFirst c)) (fun _ => h)
  split
  rename_i st c1 e
  have s1 : c1.Sound := by
    have := wordsIn (ite (p := p.addrs.all cnInMap = true) (fun _ => s0.frame (Cell.Frame.cfgPower c0 p)) (fun _ => s0)) p true
    rw [e] at this; exact this
  split
  · exact (s1.frame (Cell.Frame.cfgTaken c1 p)).frame (Cell.Frame.hkSync _)
  · exact ite (fun _ => foldl _ (fun d x hd => hd.frame (Cell.Frame.flagRefused d _ _ x)) _ h) (fun _ => h)

theorem configEnd {c : Cell} (h : c.Sound) (p : CnPkt) : (c.configEnd p).2.Sound := by
  unfold Cell.configEnd
  split
  · exact h
  · extract_lets d
    have s : d.Sound := h.frame ((Cell.Frame.setBit c (by decide) _ _).trans (Cell.Frame.hkSync _))
    exact ite (fun _ => s.enterRetired _) (fun _ => s.frame (Cell.Frame.lit (Cell.Frame.setBit d (by decide) _ _)))

theorem perform {c : Cell} (h : c.Sound) (p : CnPkt) : (c.perform p).2.Sound := by
  unfold Cell.perform
  split
  · exact h.wordsIn p false
  · exact h.configIn p
  · exact h.configEnd p
  · split
    · exact h
    · split <;> exact h

/-- A cell just reset, with registers in form whose `CN_SYS_STATE` stands at its reset value. -/
theorem resetCell (c : Cell) (cause : Nat) : (c.reset cause).Sound := by
  unfold Cell.reset
  have s : ({ rstCause := 2 ^ cause, tap := c.tap } : Cell).Sound := by
    refine ⟨by show Machine.fld (cnReset Reg.CN_SYS_STATE) 0 3 ≤ 4; decide, Cell.legs_of_stageOff rfl, fun _ => rfl, fun p hp => (by cases hp), rfl⟩
  exact s.frame (Cell.Frame.setBit _ (by decide) _ _)

theorem takePacket {c : Cell} (h : c.Sound) (p : CnPkt) : (c.takePacket p).Sound := by
  unfold Cell.takePacket
  extract_lets ws
  refine ite (fun _ => h.frame (Cell.Frame.answer c _ _ _ _)) (fun _ => ite (fun _ => h.frame (Cell.Frame.answer c _ _ _ _))
    (fun _ => ite (fun _ => h.frame (Cell.Frame.answer c _ _ _ _)) (fun _ => ite (fun _ => h.frame (Cell.Frame.readPacket c p)) (fun _ => ?_))))
  split
  rename_i st d e
  have s : d.Sound := by
    have := h.perform p
    rw [e] at this; exact this
  extract_lets d1 d2 d3
  have s1 : d1.Sound := ite (fun _ => s.frame (Cell.Frame.keepTag d p)) (fun _ => s)
  have s2 : d2.Sound := s1.frame (Cell.Frame.answer d1 _ _ _ _)
  exact ite (fun _ => (resetCell d2 1).frame (Cell.Frame.lit (Cell.Frame.keepTag _ p))) (fun _ => s2)

theorem packetIn {c : Cell} (h : c.Sound) (ops : Nat → Bool) (p : CnPkt) : (c.packetIn ops p).Sound := by
  unfold Cell.packetIn
  exact ite (fun _ => h) (fun _ => ite
    (fun _ => h.frame ((Cell.Frame.blockErrs c _ _).trans (Cell.Frame.passPacket _ _ _ _ _))) (fun _ =>
    ite (fun _ => h.takePacket p) (fun _ => h.frame (Cell.Frame.passPacket c _ _ _ _))))

theorem urgentIn {c : Cell} (h : c.Sound) (rx content : Nat) : (c.urgentIn rx content).Sound := by
  unfold Cell.urgentIn
  extract_lets d1 d2 d3
  have s1 : d1.Sound := foldl _ (fun d o hd => hd.frame (Cell.Frame.send d _ _)) _ h
  have s2 : d2.Sound := s1.frame ((Cell.Frame.inc d1 (by decide)).trans (Cell.Frame.setBit _ (by decide) _ _))
  have s3 : d3.Sound := s2.blockNow (by decide)
  exact ite (fun _ => h) (fun _ => ite (fun _ => s1.frame (Cell.Frame.blockErrs d1 _ _)) (fun _ => ite (fun _ => s1)
    (fun _ => ite (fun _ => s3.frame (Cell.Frame.lit (Cell.Frame.refl d3))) (fun _ => s2))))

theorem retireWrite {c : Cell} (h : c.Sound) (w : Word) : (c.retireWrite w).Sound :=
  (h.frame (Cell.Frame.protCmd c _ _)).retireCmd

theorem pllBack {c : Cell} (h : c.Sound) : c.pllBack.Sound := ite (fun _ => resetCell c _) (fun _ => h)

theorem tapLoad {c : Cell} (h : c.Sound) (t : Tap) : (c.tapLoad t).Sound :=
  h.frame (Cell.Frame.lit (Cell.Frame.refl c))

theorem pllLost {c : Cell} (h : c.Sound) : c.pllLost.Sound := h.frame (Cell.Frame.lit (Cell.Frame.refl c))

/-- A cell that nothing has touched. -/
theorem fresh : ({} : Cell).Sound :=
  ⟨by decide, Cell.legs_of_stageOff rfl, fun _ => rfl, fun p hp => (by cases hp), rfl⟩

end Cell.Sound

end Sys2Proof.Machine
end

