-- ==== Sys2Proof/Laws/State.lean ====
section
/-!
SUPPORT. How the ways of reaching a part change the state: field by field, and what they keep.
-/

namespace Sys2Proof.Machine

/-! ### Fields -/

@[simp] theorem State.setCell_pending (s : State) (c : CellRef) (x : Cell) : (s.setCell c x).pending = s.pending := rfl
@[simp] theorem State.setCell_vp (s : State) (c : CellRef) (x : Cell) : (s.setCell c x).vp = s.vp := rfl
@[simp] theorem State.vpAny_pending (s : State) (f : Vp → Vp) : (s.vpAny f).pending = s.pending := rfl
@[simp] theorem State.vpAny_cells (s : State) (f : Vp → Vp) : (s.vpAny f).cells = s.cells := rfl
@[simp] theorem State.vpAny_vp (s : State) (f : Vp → Vp) : (s.vpAny f).vp = (f s.vp).settle := rfl
@[simp] theorem State.onVp_pending (s : State) (f : Vp → Vp) : (s.onVp f).pending = s.pending := by
  unfold State.onVp; split <;> rfl
@[simp] theorem State.onVp_cells (s : State) (f : Vp → Vp) : (s.onVp f).cells = s.cells := by
  unfold State.onVp; split <;> rfl
@[simp] theorem State.cellAny_pending (s : State) (c : CellRef) (f : Cell → Cell) :
    (s.cellAny c f).pending = s.pending := rfl
@[simp] theorem State.cellAny_vp (s : State) (c : CellRef) (f : Cell → Cell) : (s.cellAny c f).vp = s.vp := rfl
@[simp] theorem State.onCell_pending (s : State) (c : CellRef) (f : Cell → Cell) :
    (s.onCell c f).pending = s.pending := by
  unfold State.onCell; split <;> rfl
@[simp] theorem State.onCell_vp (s : State) (c : CellRef) (f : Cell → Cell) : (s.onCell c f).vp = s.vp := by
  unfold State.onCell; split <;> rfl

/-- A command to a valve processor whose clocks run. -/
theorem State.onVp_runs {s : State} (h : s.vp.runs = true) (f : Vp → Vp) :
    s.onVp f = { s with vp := (f s.vp).settle } := by
  unfold State.onVp; rw [if_pos h]; rfl

/-- One to a valve processor whose clocks do not run finds nothing that acts. -/
theorem State.onVp_stopped {s : State} (h : s.vp.runs = false) (f : Vp → Vp) : s.onVp f = s := by
  unfold State.onVp; rw [h]; rfl

/-- A command to a cell whose clock runs. -/
theorem State.onCell_runs {s : State} {c : CellRef} (h : (s.cell c).clamped = false) (f : Cell → Cell) :
    s.onCell c f = s.setCell c (f (s.cell c)) := by
  unfold State.onCell; rw [h]; rfl

/-- One to a cell whose clock has stopped finds nothing that acts. -/
theorem State.onCell_stopped {s : State} {c : CellRef} (h : (s.cell c).clamped = true) (f : Cell → Cell) :
    s.onCell c f = s := by
  unfold State.onCell; rw [h]; rfl

/-! ### Cells -/

/-- Another cell stands as it stood. -/
theorem State.cell_setCell_other (s : State) {c d : CellRef} (x : Cell) (h : cellKey d ≠ cellKey c) :
    (s.setCell c x).cell d = s.cell d := sget_sset_other _ _ x h

/-- The cell stands as it was set. -/
theorem State.cell_setCell_same (s : State) (c : CellRef) (x : Cell) : (s.setCell c x).cell c = x :=
  sget_sset_same _ _ _ x

theorem State.cell_onCell_other (s : State) {c d : CellRef} (f : Cell → Cell) (h : cellKey d ≠ cellKey c) :
    (s.onCell c f).cell d = s.cell d := by
  unfold State.onCell; split
  · rfl
  · exact s.cell_setCell_other _ h

theorem State.cell_cellAny_other (s : State) {c d : CellRef} (f : Cell → Cell) (h : cellKey d ≠ cellKey c) :
    (s.cellAny c f).cell d = s.cell d := s.cell_setCell_other _ h

/-! ### Safety -/

theorem State.safe_iff (s : State) :
    s.safe = true ↔ swf (fun _ => ({} : Cell)) s.cells = true ∧ ∀ p ∈ s.cells, p.2.Sound := by
  unfold State.safe
  rw [Bool.and_eq_true, List.all_eq_true]
  simp only [Cell.safe_iff]

theorem State.safe_congr {s t : State} (h : s.safe = true) (e : t.cells = s.cells) : t.safe = true := by
  unfold State.safe; rw [e]; exact h

/-- Every cell of a safe state is safe. -/
theorem State.sound_cell {s : State} (h : s.safe = true) (c : CellRef) : (s.cell c).Sound := by
  rw [State.safe_iff] at h
  rcases sget_mem_or (fun _ => ({} : Cell)) s.cells (cellKey c) with e | e
  · unfold State.cell; rw [e]; exact Cell.Sound.fresh
  · exact h.2 (cellKey c, s.cell c) e

theorem State.safe_setCell {s : State} (h : s.safe = true) (c : CellRef) {x : Cell} (hx : x.Sound) :
    (s.setCell c x).safe = true := by
  rw [State.safe_iff] at h ⊢
  refine ⟨swf_sset _ h.1 _ _, fun p hp => ?_⟩
  have e : p ∈ sset (fun _ => ({} : Cell)) s.cells (cellKey c) x := hp
  rcases mem_sset e with rfl | hp
  · exact hx
  · exact h.2 p hp

theorem State.safe_vpAny {s : State} (h : s.safe = true) (f : Vp → Vp) : (s.vpAny f).safe = true :=
  State.safe_congr h rfl

theorem State.safe_onVp {s : State} (h : s.safe = true) (f : Vp → Vp) : (s.onVp f).safe = true :=
  State.safe_congr h (s.onVp_cells f)

theorem State.safe_cellAny {s : State} (h : s.safe = true) (c : CellRef) {f : Cell → Cell}
    (hf : ∀ x, x.Sound → (f x).Sound) : (s.cellAny c f).safe = true :=
  State.safe_setCell h c (hf _ (State.sound_cell h c))

theorem State.safe_onCell {s : State} (h : s.safe = true) (c : CellRef) {f : Cell → Cell}
    (hf : ∀ x, x.Sound → (f x).Sound) : (s.onCell c f).safe = true := by
  unfold State.onCell; split
  · exact h
  · exact State.safe_cellAny h c hf

end Sys2Proof.Machine
end

