-- ==== Sys2Proof/Laws/Vp.lean ====
section
/-!
SUPPORT. Laws of commands to the valve processor: how a command reaches it, what an accepted write is, and settling when
nothing waits.
-/

namespace Sys2Proof.Machine

/-- A command to a running valve processor. -/
theorem State.onVp_after {s : State} (h : s.vp.runs = true) (f : Vp → Vp) : s.onVp f = s.after (f s.vp) :=
  State.onVp_runs h f

/-- A command that needs no running clock. -/
theorem State.vpAny_after (s : State) (f : Vp → Vp) : s.vpAny f = s.after (f s.vp) := rfl

@[simp] theorem State.after_cells (s : State) (v : Vp) : (s.after v).cells = s.cells := rfl
@[simp] theorem State.after_pending (s : State) (v : Vp) : (s.after v).pending = s.pending := rfl

/-- A write that `Vp.accepts` names takes effect as it is made. -/
theorem Vp.coreWrite_accepts {v : Vp} {m a : Nat} {w : Word} (h : v.accepts m a w = true) :
    v.coreWrite m a w = v.written m a w := by
  unfold Vp.accepts at h
  simp only [Bool.and_eq_true, beq_iff_eq, decide_eq_true_eq, Bool.not_eq_true'] at h
  obtain ⟨⟨⟨⟨⟨⟨h1, h2⟩, h3⟩, h4⟩, h5⟩, h6⟩, h7⟩ := h
  have hb : busError m a true = false := by
    unfold busError
    rw [h2]
    simp [h3]
  unfold Vp.coreWrite Vp.written
  rw [h1, hb]
  cases hr : regRow a with
  | none => rw [hr] at h5; cases h5
  | some r =>
    rw [hr] at h5
    simp only [Bool.and_eq_true, bne_iff_ne, Bool.or_eq_true, Bool.not_eq_true'] at h5
    obtain ⟨⟨h8, h9⟩, h10⟩ := h5
    have hs : (v.launched && region m a == .reg && staged a) = false := by
      unfold staged
      rw [hr]
      obtain h | h := h10
      · simp [h]
      · simp [h.2]
    have hq : (v.tryWrite m a w true).v = v.effect m a r w := by
      unfold Vp.tryWrite
      rw [hb, h4, h2]
      simp only [hr, h8, h9, h6, h7, Bool.not_true, Bool.false_eq_true, if_false, or_self, true_and, Bool.or_self]
      rw [if_neg]
      intro h
      obtain h' | h' := h10
      · exact h' h.1
      · rw [h'.1] at h; exact absurd h.2 (by decide)
    have hl : v.belowLimit m a = false := by
      by_contra hc
      unfold Vp.belowLimit at hc
      simp only [Bool.not_eq_false, Bool.and_eq_true, decide_eq_true_eq] at hc
      have hn : (decide (0x10000000 ≤ a)) = false := by simp; omega
      unfold region at h2
      simp only [hn, Bool.false_and, Bool.false_eq_true, if_false] at h2
      split_ifs at h2
    rw [hs, hl]
    simpa using hq

theorem Vp.msgLeft_calm {v : Vp} (h : ∀ p ∈ portIds, (v.bit (Reg.HOST_P_MSG_STAT p) 12 &&
    decide ((v.port p).msgEnd ≤ v.up)) = false) : v.msgLeft = v := by
  unfold Vp.msgLeft
  have key : ∀ l : List Nat, (∀ p ∈ l, (v.bit (Reg.HOST_P_MSG_STAT p) 12 && decide ((v.port p).msgEnd ≤ v.up)) = false) →
      l.foldl (fun v p => if v.bit (Reg.HOST_P_MSG_STAT p) 12 && decide ((v.port p).msgEnd ≤ v.up) then
        v.setBit (Reg.HOST_P_MSG_STAT p) 12 false else v) v = v := by
    intro l hl
    induction l with
    | nil => rfl
    | cons p l ih =>
      rw [List.foldl_cons, hl p (List.mem_cons_self ..), if_neg Bool.false_ne_true]
      exact ih (fun q hq => hl q (List.mem_cons_of_mem _ hq))
  exact key _ h

theorem Vp.rounds_empty (n : Nat) {v : Vp} (h : v.inbox = []) : v.rounds n = v := by
  cases n with
  | zero => rfl
  | succ n => unfold Vp.rounds; rw [h]

/-- A port that serves a frame, or has none queued, goes on as it is. -/
theorem Vp.portRun_rest (p n : Nat) {v : Vp} (h : (v.port p).serving.isSome = true ∨ (v.port p).queue = []) :
    Vp.portRun p n v = v := by
  cases n with
  | zero => rfl
  | succ n =>
    unfold Vp.portRun
    dsimp only
    split
    · next hs hq =>
      obtain h | h := h
      · rw [hs] at h; cases h
      · rw [h] at hq; cases hq
    · rfl

theorem Vp.tokenWaits_rest {v : Vp} {p : Nat} (h : v.tokenAsked p = none) : v.tokenWaits p = v := by
  unfold Vp.tokenWaits
  rw [h]

theorem Vp.portsRun_rest {v : Vp} (h : ∀ p ∈ portIds,
    ((v.port p).serving.isSome = true ∨ (v.port p).queue = []) ∧ v.tokenAsked p = none) : v.portsRun = v := by
  unfold Vp.portsRun
  have key : ∀ l : List Nat, (∀ p ∈ l,
      ((v.port p).serving.isSome = true ∨ (v.port p).queue = []) ∧ v.tokenAsked p = none) →
      l.foldl (fun v p => Vp.portRun p 9 (v.tokenWaits p)) v = v := by
    intro l hl
    induction l with
    | nil => rfl
    | cons p l ih =>
      have hp := hl p (List.mem_cons_self ..)
      rw [List.foldl_cons, Vp.tokenWaits_rest hp.2, Vp.portRun_rest p 9 hp.1]
      exact ih (fun q hq => hl q (List.mem_cons_of_mem _ hq))
  exact key _ h

/-- With nothing waiting within it, settling leaves the valve processor as it is. -/
theorem Vp.settle_calm {v : Vp} (h : v.calm = true) : v.settle = v := by
  unfold Vp.calm at h
  simp only [Bool.and_eq_true, List.isEmpty_iff, List.all_eq_true, Bool.not_eq_true', Bool.or_eq_true,
    Option.isNone_iff_eq_none] at h
  obtain ⟨hi, hp⟩ := h
  unfold Vp.settle
  rw [Vp.msgLeft_calm (fun p hpm => (hp p hpm).1.1), Vp.rounds_empty 64 hi,
    Vp.portsRun_rest (fun p hpm => ⟨(hp p hpm).1.2, (hp p hpm).2⟩), Vp.rounds_empty 64 hi]

end Sys2Proof.Machine
end

