-- ==== Sys2Proof/Laws/VpReg.lean ====
section
/-!
SUPPORT. Reads after writes of the valve processor's registers, fields and bits, and of the state it keeps per arm engine,
ring and port.
-/

namespace Sys2Proof.Machine

/-! ### Registers -/

@[simp] theorem Vp.reg_setReg_same (v : Vp) (a : Nat) (w : Word) : (v.setReg a w).reg a = w := sget_sset_same _ _ a w

theorem Vp.reg_setReg_other (v : Vp) {a b : Nat} (w : Word) (h : b ≠ a) : (v.setReg a w).reg b = v.reg b :=
  sget_sset_other _ _ w h

theorem Vp.fld_setFld_same (v : Vp) (a : Nat) {lo len : Nat} (h : lo + len ≤ 32) (x : Nat) :
    (v.setFld a lo len x).fld a lo len = x % 2 ^ len := by
  unfold Vp.fld Vp.setFld
  rw [Vp.reg_setReg_same, Machine.fld_setFld_same _ h]

theorem Vp.fld_setFld_below (v : Vp) (a : Nat) {lo len : Nat} (h : lo + len ≤ 32) (x : Nat) {l n : Nat} (hl : l + n ≤ lo) :
    (v.setFld a lo len x).fld a l n = v.fld a l n := by
  unfold Vp.fld Vp.setFld
  rw [Vp.reg_setReg_same, Machine.fld_setFld_below _ h _ hl]

theorem Vp.fld_setFld_above (v : Vp) (a : Nat) {lo len : Nat} (h : lo + len ≤ 32) (x : Nat) {l n : Nat}
    (hl : lo + len ≤ l) : (v.setFld a lo len x).fld a l n = v.fld a l n := by
  unfold Vp.fld Vp.setFld
  rw [Vp.reg_setReg_same, Machine.fld_setFld_above _ h _ hl]

theorem Vp.bit_eq_fld (v : Vp) (a i : Nat) : v.bit a i = decide (v.fld a i 1 = 1) := Machine.bit_eq_fld _ i

@[simp] theorem Vp.bit_setBit_same (v : Vp) (a : Nat) {i : Nat} (h : i < 32) (b : Bool) : (v.setBit a i b).bit a i = b := by
  rw [Vp.bit_eq_fld]
  unfold Vp.setBit
  rw [Vp.fld_setFld_same _ _ (by omega)]
  cases b <;> rfl

theorem Vp.bit_setBit_other (v : Vp) (a : Nat) {i j : Nat} (hi : i < 32) (h : j ≠ i) (b : Bool) :
    (v.setBit a i b).bit a j = v.bit a j := by
  rw [Vp.bit_eq_fld, Vp.bit_eq_fld]
  unfold Vp.setBit
  rcases Nat.lt_or_gt_of_ne h with h | h
  · rw [Vp.fld_setFld_below _ _ (by omega) _ (by omega)]
  · rw [Vp.fld_setFld_above _ _ (by omega) _ (by omega)]

@[simp] theorem Vp.fld_setReg_same (v : Vp) (a lo len : Nat) (w : Word) : (v.setReg a w).fld a lo len = Machine.fld w lo len := by
  unfold Vp.fld
  rw [Vp.reg_setReg_same]

@[simp] theorem Vp.bit_setReg_same (v : Vp) (a i : Nat) (w : Word) : (v.setReg a w).bit a i = Machine.bit w i := by
  unfold Vp.bit
  rw [Vp.reg_setReg_same]

/-- A field of another register. -/
theorem Vp.reg_setFld_other (v : Vp) {a b : Nat} (lo len x : Nat) (h : b ≠ a) : (v.setFld a lo len x).reg b = v.reg b :=
  Vp.reg_setReg_other v _ h

theorem Vp.reg_setBit_other (v : Vp) {a b : Nat} (i : Nat) (x : Bool) (h : b ≠ a) : (v.setBit a i x).reg b = v.reg b :=
  Vp.reg_setReg_other v _ h

/-! ### What register writes leave -/

@[simp] theorem Vp.setReg_mem (v : Vp) (a : Nat) (w : Word) : (v.setReg a w).mem = v.mem := rfl
@[simp] theorem Vp.setReg_ret (v : Vp) (a : Nat) (w : Word) : (v.setReg a w).ret = v.ret := rfl
@[simp] theorem Vp.setReg_up (v : Vp) (a : Nat) (w : Word) : (v.setReg a w).up = v.up := rfl
@[simp] theorem Vp.setReg_tai (v : Vp) (a : Nat) (w : Word) : (v.setReg a w).tai = v.tai := rfl
@[simp] theorem Vp.setReg_frameNo (v : Vp) (a : Nat) (w : Word) : (v.setReg a w).frameNo = v.frameNo := rfl
@[simp] theorem Vp.setReg_frameOfs (v : Vp) (a : Nat) (w : Word) : (v.setReg a w).frameOfs = v.frameOfs := rfl
@[simp] theorem Vp.setReg_launched (v : Vp) (a : Nat) (w : Word) : (v.setReg a w).launched = v.launched := rfl
@[simp] theorem Vp.setReg_time (v : Vp) (a : Nat) (w : Word) : (v.setReg a w).time = v.time := rfl
@[simp] theorem Vp.setReg_latch (v : Vp) (a : Nat) (w : Word) : (v.setReg a w).latch = v.latch := rfl
@[simp] theorem Vp.setReg_lastRead (v : Vp) (a : Nat) (w : Word) : (v.setReg a w).lastRead = v.lastRead := rfl
@[simp] theorem Vp.setReg_wlatch (v : Vp) (a : Nat) (w : Word) : (v.setReg a w).wlatch = v.wlatch := rfl
@[simp] theorem Vp.setReg_flt (v : Vp) (a : Nat) (w : Word) : (v.setReg a w).flt = v.flt := rfl
@[simp] theorem Vp.setReg_sched (v : Vp) (a : Nat) (w : Word) : (v.setReg a w).sched = v.sched := rfl
@[simp] theorem Vp.setReg_loop (v : Vp) (a : Nat) (w : Word) : (v.setReg a w).loop = v.loop := rfl
@[simp] theorem Vp.setReg_arms (v : Vp) (a : Nat) (w : Word) : (v.setReg a w).arms = v.arms := rfl
@[simp] theorem Vp.setReg_rings (v : Vp) (a : Nat) (w : Word) : (v.setReg a w).rings = v.rings := rfl
@[simp] theorem Vp.setReg_trip (v : Vp) (a : Nat) (w : Word) : (v.setReg a w).trip = v.trip := rfl
@[simp] theorem Vp.setReg_gridWords (v : Vp) (a : Nat) (w : Word) : (v.setReg a w).gridWords = v.gridWords := rfl
@[simp] theorem Vp.setReg_cst (v : Vp) (a : Nat) (w : Word) : (v.setReg a w).cst = v.cst := rfl
@[simp] theorem Vp.setReg_cstClosed (v : Vp) (a : Nat) (w : Word) : (v.setReg a w).cstClosed = v.cstClosed := rfl
@[simp] theorem Vp.setReg_held (v : Vp) (a : Nat) (w : Word) : (v.setReg a w).held = v.held := rfl
@[simp] theorem Vp.setReg_adcDone (v : Vp) (a : Nat) (w : Word) : (v.setReg a w).adcDone = v.adcDone := rfl
@[simp] theorem Vp.setReg_decided (v : Vp) (a : Nat) (w : Word) : (v.setReg a w).decided = v.decided := rfl
@[simp] theorem Vp.setReg_cmds (v : Vp) (a : Nat) (w : Word) : (v.setReg a w).cmds = v.cmds := rfl
@[simp] theorem Vp.setReg_ovr (v : Vp) (a : Nat) (w : Word) : (v.setReg a w).ovr = v.ovr := rfl
@[simp] theorem Vp.setReg_ovrAt (v : Vp) (a : Nat) (w : Word) : (v.setReg a w).ovrAt = v.ovrAt := rfl
@[simp] theorem Vp.setReg_ovrWas (v : Vp) (a : Nat) (w : Word) : (v.setReg a w).ovrWas = v.ovrWas := rfl
@[simp] theorem Vp.setReg_ovrGot (v : Vp) (a : Nat) (w : Word) : (v.setReg a w).ovrGot = v.ovrGot := rfl
@[simp] theorem Vp.setReg_loc (v : Vp) (a : Nat) (w : Word) : (v.setReg a w).loc = v.loc := rfl
@[simp] theorem Vp.setReg_dtKept (v : Vp) (a : Nat) (w : Word) : (v.setReg a w).dtKept = v.dtKept := rfl
@[simp] theorem Vp.setReg_retired (v : Vp) (a : Nat) (w : Word) : (v.setReg a w).retired = v.retired := rfl
@[simp] theorem Vp.setReg_jrnl (v : Vp) (a : Nat) (w : Word) : (v.setReg a w).jrnl = v.jrnl := rfl
@[simp] theorem Vp.setReg_jrnlSec (v : Vp) (a : Nat) (w : Word) : (v.setReg a w).jrnlSec = v.jrnlSec := rfl
@[simp] theorem Vp.setReg_jrnlCnt (v : Vp) (a : Nat) (w : Word) : (v.setReg a w).jrnlCnt = v.jrnlCnt := rfl
@[simp] theorem Vp.setReg_flash (v : Vp) (a : Nat) (w : Word) : (v.setReg a w).flash = v.flash := rfl
@[simp] theorem Vp.setReg_retSector (v : Vp) (a : Nat) (w : Word) : (v.setReg a w).retSector = v.retSector := rfl
@[simp] theorem Vp.setReg_retNext (v : Vp) (a : Nat) (w : Word) : (v.setReg a w).retNext = v.retNext := rfl
@[simp] theorem Vp.setReg_timeAt (v : Vp) (a : Nat) (w : Word) : (v.setReg a w).timeAt = v.timeAt := rfl
@[simp] theorem Vp.setReg_timeNeed (v : Vp) (a : Nat) (w : Word) : (v.setReg a w).timeNeed = v.timeNeed := rfl
@[simp] theorem Vp.setReg_timeGot (v : Vp) (a : Nat) (w : Word) : (v.setReg a w).timeGot = v.timeGot := rfl
@[simp] theorem Vp.setReg_cnCfg (v : Vp) (a : Nat) (w : Word) : (v.setReg a w).cnCfg = v.cnCfg := rfl
@[simp] theorem Vp.setReg_armDone (v : Vp) (a : Nat) (w : Word) : (v.setReg a w).armDone = v.armDone := rfl
@[simp] theorem Vp.setReg_txOff (v : Vp) (a : Nat) (w : Word) : (v.setReg a w).txOff = v.txOff := rfl
@[simp] theorem Vp.setReg_inbox (v : Vp) (a : Nat) (w : Word) : (v.setReg a w).inbox = v.inbox := rfl
@[simp] theorem Vp.setReg_evq (v : Vp) (a : Nat) (w : Word) : (v.setReg a w).evq = v.evq := rfl
@[simp] theorem Vp.setReg_evLost (v : Vp) (a : Nat) (w : Word) : (v.setReg a w).evLost = v.evLost := rfl
@[simp] theorem Vp.setReg_host (v : Vp) (a : Nat) (w : Word) : (v.setReg a w).host = v.host := rfl
@[simp] theorem Vp.setReg_adc (v : Vp) (a : Nat) (w : Word) : (v.setReg a w).adc = v.adc := rfl
@[simp] theorem Vp.setReg_grid (v : Vp) (a : Nat) (w : Word) : (v.setReg a w).grid = v.grid := rfl
@[simp] theorem Vp.setReg_acq (v : Vp) (a : Nat) (w : Word) : (v.setReg a w).acq = v.acq := rfl
@[simp] theorem Vp.setReg_clk (v : Vp) (a : Nat) (w : Word) : (v.setReg a w).clk = v.clk := rfl
@[simp] theorem Vp.setReg_boot (v : Vp) (a : Nat) (w : Word) : (v.setReg a w).boot = v.boot := rfl
@[simp] theorem Vp.setReg_lanes (v : Vp) (a : Nat) (w : Word) : (v.setReg a w).lanes = v.lanes := rfl
@[simp] theorem Vp.setReg_peer (v : Vp) (a : Nat) (w : Word) : (v.setReg a w).peer = v.peer := rfl
@[simp] theorem Vp.setReg_coreWrites (v : Vp) (a : Nat) (w : Word) : (v.setReg a w).coreWrites = v.coreWrites := rfl
@[simp] theorem Vp.setReg_free (v : Vp) (a : Nat) (w : Word) : (v.setReg a w).free = v.free := rfl

/-! ### State kept by number -/

@[simp] theorem Vp.arm_setArm_same (v : Vp) (k : Nat) (x : ArmSt) : (v.setArm k x).arm k = x := sget_sset_same _ _ k x
theorem Vp.arm_setArm_other (v : Vp) {k j : Nat} (x : ArmSt) (h : j ≠ k) : (v.setArm k x).arm j = v.arm j :=
  sget_sset_other _ _ x h
@[simp] theorem Vp.ring_setRing_same (v : Vp) (m : Nat) (x : RingSt) : (v.setRing m x).ring m = x := sget_sset_same _ _ m x
theorem Vp.ring_setRing_other (v : Vp) {m n : Nat} (x : RingSt) (h : n ≠ m) : (v.setRing m x).ring n = v.ring n :=
  sget_sset_other _ _ x h
@[simp] theorem Vp.port_setPort_same (v : Vp) (p : Nat) (x : PortSt) : (v.setPort p x).port p = x := sget_sset_same _ _ p x
theorem Vp.port_setPort_other (v : Vp) {p q : Nat} (x : PortSt) (h : q ≠ p) : (v.setPort p x).port q = v.port q :=
  sget_sset_other _ _ x h

@[simp] theorem Vp.setRing_regs (v : Vp) (m : Nat) (x : RingSt) : (v.setRing m x).regs = v.regs := rfl
@[simp] theorem Vp.setArm_regs (v : Vp) (k : Nat) (x : ArmSt) : (v.setArm k x).regs = v.regs := rfl
@[simp] theorem Vp.setPort_regs (v : Vp) (p : Nat) (x : PortSt) : (v.setPort p x).regs = v.regs := rfl
@[simp] theorem Vp.peerSend_regs (v : Vp) (m : PeerMsg) : (v.peerSend m).regs = v.regs := rfl
@[simp] theorem Vp.peerSend_launched (v : Vp) (m : PeerMsg) : (v.peerSend m).launched = v.launched := rfl
@[simp] theorem Vp.peerSend_decided (v : Vp) (m : PeerMsg) : (v.peerSend m).decided = v.decided := rfl

/-! ### The clock -/

/-- Ticks move the counters, the stream to the partner and the cores' busy times, and nothing else. -/
theorem Vp.ticks_shape (v : Vp) (n : Nat) : ∃ out busy, v.ticks n = { v with
    peer := { v.peer with out := out }, up := v.up + n, tai := v.tai + n * v.incr, frameOfs := v.frameOfs + n * v.incr
    sched := { v.sched with busy := busy } } := by
  unfold Vp.ticks Vp.peerTicks
  split
  · exact ⟨v.peer.out, _, rfl⟩
  · exact ⟨_, _, rfl⟩

/-- The same of the clock brought to an instant. -/
theorem Vp.advanceTo_shape (v : Vp) (t : Nat) : ∃ out up tai ofs busy, v.advanceTo t = { v with
    peer := { v.peer with out := out }, up := up, tai := tai, frameOfs := ofs, sched := { v.sched with busy := busy } } := by
  unfold Vp.advanceTo
  split
  · obtain ⟨out, busy, h⟩ := Vp.ticks_shape v ((t - v.tai) / max 1 v.incr)
    rw [h]
    exact ⟨out, _, _, _, busy, rfl⟩
  · exact ⟨v.peer.out, v.up, v.tai, v.frameOfs, v.sched.busy, rfl⟩

/-- The same of the clock brought to an instant of the frame. -/
theorem Vp.frameAt_shape (v : Vp) (d : Nat) : ∃ out up tai ofs busy, v.frameAt d = { v with
    peer := { v.peer with out := out }, up := up, tai := tai, frameOfs := ofs, sched := { v.sched with busy := busy } } := by
  unfold Vp.frameAt
  split
  · exact Vp.advanceTo_shape v _
  · exact ⟨v.peer.out, v.up, v.tai, v.frameOfs, v.sched.busy, rfl⟩

@[simp] theorem Vp.advanceTo_regs (v : Vp) (t : Nat) : (v.advanceTo t).regs = v.regs := by
  obtain ⟨_, _, _, _, _, h⟩ := Vp.advanceTo_shape v t
  rw [h]
@[simp] theorem Vp.advanceTo_launched (v : Vp) (t : Nat) : (v.advanceTo t).launched = v.launched := by
  obtain ⟨_, _, _, _, _, h⟩ := Vp.advanceTo_shape v t
  rw [h]
@[simp] theorem Vp.advanceTo_decided (v : Vp) (t : Nat) : (v.advanceTo t).decided = v.decided := by
  obtain ⟨_, _, _, _, _, h⟩ := Vp.advanceTo_shape v t
  rw [h]
@[simp] theorem Vp.advanceTo_time (v : Vp) (t : Nat) : (v.advanceTo t).time = v.time := by
  obtain ⟨_, _, _, _, _, h⟩ := Vp.advanceTo_shape v t
  rw [h]
@[simp] theorem Vp.advanceTo_loop (v : Vp) (t : Nat) : (v.advanceTo t).loop = v.loop := by
  obtain ⟨_, _, _, _, _, h⟩ := Vp.advanceTo_shape v t
  rw [h]
@[simp] theorem Vp.advanceTo_arms (v : Vp) (t : Nat) : (v.advanceTo t).arms = v.arms := by
  obtain ⟨_, _, _, _, _, h⟩ := Vp.advanceTo_shape v t
  rw [h]
@[simp] theorem Vp.advanceTo_rings (v : Vp) (t : Nat) : (v.advanceTo t).rings = v.rings := by
  obtain ⟨_, _, _, _, _, h⟩ := Vp.advanceTo_shape v t
  rw [h]
@[simp] theorem Vp.advanceTo_host (v : Vp) (t : Nat) : (v.advanceTo t).host = v.host := by
  obtain ⟨_, _, _, _, _, h⟩ := Vp.advanceTo_shape v t
  rw [h]
@[simp] theorem Vp.advanceTo_held (v : Vp) (t : Nat) : (v.advanceTo t).held = v.held := by
  obtain ⟨_, _, _, _, _, h⟩ := Vp.advanceTo_shape v t
  rw [h]
@[simp] theorem Vp.frameAt_regs (v : Vp) (t : Nat) : (v.frameAt t).regs = v.regs := by
  obtain ⟨_, _, _, _, _, h⟩ := Vp.frameAt_shape v t
  rw [h]
@[simp] theorem Vp.frameAt_launched (v : Vp) (t : Nat) : (v.frameAt t).launched = v.launched := by
  obtain ⟨_, _, _, _, _, h⟩ := Vp.frameAt_shape v t
  rw [h]
@[simp] theorem Vp.frameAt_decided (v : Vp) (t : Nat) : (v.frameAt t).decided = v.decided := by
  obtain ⟨_, _, _, _, _, h⟩ := Vp.frameAt_shape v t
  rw [h]
@[simp] theorem Vp.frameAt_time (v : Vp) (t : Nat) : (v.frameAt t).time = v.time := by
  obtain ⟨_, _, _, _, _, h⟩ := Vp.frameAt_shape v t
  rw [h]
@[simp] theorem Vp.frameAt_loop (v : Vp) (t : Nat) : (v.frameAt t).loop = v.loop := by
  obtain ⟨_, _, _, _, _, h⟩ := Vp.frameAt_shape v t
  rw [h]
@[simp] theorem Vp.frameAt_arms (v : Vp) (t : Nat) : (v.frameAt t).arms = v.arms := by
  obtain ⟨_, _, _, _, _, h⟩ := Vp.frameAt_shape v t
  rw [h]
@[simp] theorem Vp.frameAt_rings (v : Vp) (t : Nat) : (v.frameAt t).rings = v.rings := by
  obtain ⟨_, _, _, _, _, h⟩ := Vp.frameAt_shape v t
  rw [h]
@[simp] theorem Vp.frameAt_host (v : Vp) (t : Nat) : (v.frameAt t).host = v.host := by
  obtain ⟨_, _, _, _, _, h⟩ := Vp.frameAt_shape v t
  rw [h]
@[simp] theorem Vp.frameAt_held (v : Vp) (t : Nat) : (v.frameAt t).held = v.held := by
  obtain ⟨_, _, _, _, _, h⟩ := Vp.frameAt_shape v t
  rw [h]

end Sys2Proof.Machine
end

