-- ==== Sys2Proof/Laws/Write.lean ====
section
/-!
SUPPORT. What an accepted write is at each register of the valve processor that a command names: its row, and the operation
that R7 and the block's own rules give it.
-/

namespace Sys2Proof.Machine

theorem Vp.written_row {v : Vp} {m a : Nat} {w : Word} {r : RegRow} (h : regRow a = some r) :
    v.written m a w = v.effect m a r w := by
  unfold Vp.written
  rw [h]

/-- The register at `a` has a row of access code `c`. -/
def hasAcc (a : Nat) (c : Acc) : Bool :=
  match regRow a with
  | some r => r.acc == c
  | none => false

theorem hasAcc_row {a : Nat} {c : Acc} (h : hasAcc a c = true) : ∃ r, regRow a = some r ∧ r.acc = c := by
  unfold hasAcc at h
  cases hr : regRow a with
  | none => rw [hr] at h; cases h
  | some r => rw [hr] at h; exact ⟨r, rfl, by simpa using h⟩

/-- The block's own operation, for a register that is written by masters and is no flag or acknowledge register. -/
theorem Vp.effect_block {v : Vp} {m a : Nat} {w : Word} {r : RegRow} (h1 : r.acc = .rw ∨ r.acc = .wo ∨ r.acc = .rws)
    (h2 : a % 0x10000 < 0xFF00) (h3 : stickyClr a = false ∧ wideBelow a = false ∧ wideLower a = []) :
    v.effect m a r w = (match a / 0x10000 % 16 with
      | 0 => if a % 0x10000 = 0x10 then v.pwrWrite w else v.store a r.mask w
      | 1 => if a % 0x10000 = 4 ∨ 0x40 ≤ a % 0x10000 then v.rampWrite (fun v => v.store a r.mask w) else v.store a r.mask w
      | 2 => v.wTime a (a % 0x10000) r.mask w
      | 3 => v.wSched m a (a % 0x10000) r.mask w
      | 4 => v.wLoop a (a % 0x10000) r.mask w
      | 5 => v.wArm a (a % 0x10000) r.mask w
      | 6 => v.wRing a (a % 0x10000) r.mask w
      | 7 => v.wLane a (a % 0x10000) r.mask w
      | 8 => v.wAdc a (a % 0x10000) r.mask w
      | 9 => v.wAcq a (a % 0x10000) r.mask w
      | 11 => v.wHost a (a % 0x10000) r.mask w
      | 12 => (v.store a r.mask w).ackShort
      | 13 => if a % 0x10000 = 0x28 then v.retClr w else v.store a r.mask w
      | _ => v.store a r.mask w) := by
  unfold Vp.effect
  have hf : ¬ 0xFF00 ≤ a % 0x10000 := by omega
  have ht : v.wideTake a = v := by unfold Vp.wideTake; rw [h3.2.2]; rfl
  obtain h | h | h := h1 <;> (simp only [h, if_neg hf, h3.1, h3.2.1, ht, Bool.false_eq_true, if_false]; try rfl)

theorem Vp.written_SYS_PWR_CFG (v : Vp) (m : Nat) (w : Word) : v.written m Reg.SYS_PWR_CFG w = v.pwrWrite w := by
  obtain ⟨r, hr, ha⟩ := hasAcc_row (a := Reg.SYS_PWR_CFG) (c := .rws) (by decide)
  rw [Vp.written_row hr, Vp.effect_block (by simp [ha]) (by decide) (by decide)]
  rfl

theorem Vp.written_BOOT_RETCLR (v : Vp) (m : Nat) (w : Word) : v.written m Reg.BOOT_RETCLR w = v.retClr w := by
  obtain ⟨r, hr, ha⟩ := hasAcc_row (a := Reg.BOOT_RETCLR) (c := .wo) (by decide)
  rw [Vp.written_row hr, Vp.effect_block (by simp [ha]) (by decide) (by decide)]
  rfl

theorem Vp.written_LOOP_E_TUNE_CTL (v : Vp) (m : Nat) (w : Word) {i : Nat} (hi : i < 32) :
    v.written m (Reg.LOOP_E_TUNE_CTL i) w = v.tuneCtl i w := by
  have hall : ∀ i < 32, hasAcc (Reg.LOOP_E_TUNE_CTL i) .rws = true ∧ Reg.LOOP_E_TUNE_CTL i % 0x10000 < 0xFF00 ∧ stickyClr (Reg.LOOP_E_TUNE_CTL i) = false ∧ wideBelow (Reg.LOOP_E_TUNE_CTL i) = false ∧ wideLower (Reg.LOOP_E_TUNE_CTL i) = [] := by
    decide
  obtain ⟨h1, h2, h3⟩ := hall i hi
  obtain ⟨r, hr, ha⟩ := hasAcc_row h1
  rw [Vp.written_row hr, Vp.effect_block (by simp [ha]) h2 h3]
  have e1 : Reg.LOOP_E_TUNE_CTL i / 0x10000 % 16 = 4 := by unfold Reg.LOOP_E_TUNE_CTL; omega
  have e2 : Reg.LOOP_E_TUNE_CTL i % 0x10000 = 57360 + i * 64 := by unfold Reg.LOOP_E_TUNE_CTL; omega
  simp only [e1, e2]
  unfold Vp.wLoop
  rw [if_neg (by omega), if_neg (by omega), if_pos (by omega)]
  have e3 : (57360 + i * 64 - 57344) / 64 = i := by omega
  have e4 : (57360 + i * 64) % 64 = 16 := by omega
  simp only [e3, e4]

theorem Vp.written_LOOP_E_SWAP (v : Vp) (m : Nat) (w : Word) {i : Nat} (hi : i < 32) :
    v.written m (Reg.LOOP_E_SWAP i) w = v.engSwap i w := by
  have hall : ∀ i < 32, hasAcc (Reg.LOOP_E_SWAP i) .wo = true ∧ Reg.LOOP_E_SWAP i % 0x10000 < 0xFF00 ∧ stickyClr (Reg.LOOP_E_SWAP i) = false ∧ wideBelow (Reg.LOOP_E_SWAP i) = false ∧ wideLower (Reg.LOOP_E_SWAP i) = [] := by
    decide
  obtain ⟨h1, h2, h3⟩ := hall i hi
  obtain ⟨r, hr, ha⟩ := hasAcc_row h1
  rw [Vp.written_row hr, Vp.effect_block (by simp [ha]) h2 h3]
  have e1 : Reg.LOOP_E_SWAP i / 0x10000 % 16 = 4 := by unfold Reg.LOOP_E_SWAP; omega
  have e2 : Reg.LOOP_E_SWAP i % 0x10000 = 57348 + i * 64 := by unfold Reg.LOOP_E_SWAP; omega
  simp only [e1, e2]
  unfold Vp.wLoop
  rw [if_neg (by omega), if_neg (by omega), if_pos (by omega)]
  have e3 : (57348 + i * 64 - 57344) / 64 = i := by omega
  have e4 : (57348 + i * 64) % 64 = 4 := by omega
  simp only [e3, e4]

theorem Vp.written_LOOP_SWAP (v : Vp) (m : Nat) (w : Word) : v.written m Reg.LOOP_SWAP w = v.allSwap w := by
  obtain ⟨r, hr, ha⟩ := hasAcc_row (a := Reg.LOOP_SWAP) (c := .wo) (by decide)
  rw [Vp.written_row hr, Vp.effect_block (by simp [ha]) (by decide) (by decide)]
  rfl

theorem Vp.written_ARM_OVR (v : Vp) (m : Nat) (w : Word) {i : Nat} (hi : i < 64) :
    v.written m (Reg.ARM_OVR i) w = v.ovrWrite i w := by
  have hall : ∀ i < 64, hasAcc (Reg.ARM_OVR i) .rws = true ∧ Reg.ARM_OVR i % 0x10000 < 0xFF00 ∧ stickyClr (Reg.ARM_OVR i) = false ∧ wideBelow (Reg.ARM_OVR i) = false ∧ wideLower (Reg.ARM_OVR i) = [] := by
    decide
  obtain ⟨h1, h2, h3⟩ := hall i hi
  obtain ⟨r, hr, ha⟩ := hasAcc_row h1
  rw [Vp.written_row hr, Vp.effect_block (by simp [ha]) h2 h3]
  have e1 : Reg.ARM_OVR i / 0x10000 % 16 = 5 := by unfold Reg.ARM_OVR; omega
  have e2 : Reg.ARM_OVR i % 0x10000 = 4352 + i * 4 := by unfold Reg.ARM_OVR; omega
  simp only [e1, e2]
  unfold Vp.wArm
  rw [if_neg (by omega), if_neg (by omega), if_pos (by omega)]
  have e3 : (4352 + i * 4 - 4352) / 4 = i := by omega
  rw [e3]

theorem Vp.written_ARM_DEC_TIME_CLR (v : Vp) (m : Nat) (w : Word) : v.written m Reg.ARM_DEC_TIME_CLR w = v.setReg Reg.ARM_DEC_TIME 0 := by
  obtain ⟨r, hr, ha⟩ := hasAcc_row (a := Reg.ARM_DEC_TIME_CLR) (c := .wo) (by decide)
  rw [Vp.written_row hr, Vp.effect_block (by simp [ha]) (by decide) (by decide)]
  rfl

theorem Vp.written_RING_MG_GO (v : Vp) (m : Nat) (w : Word) : v.written m Reg.RING_MG_GO w = v.mgGo := by
  obtain ⟨r, hr, ha⟩ := hasAcc_row (a := Reg.RING_MG_GO) (c := .wo) (by decide)
  rw [Vp.written_row hr, Vp.effect_block (by simp [ha]) (by decide) (by decide)]
  rfl

theorem Vp.written_RING_URG_CMD (v : Vp) (m : Nat) (w : Word) : v.written m Reg.RING_URG_CMD w = v.urgCmd w := by
  obtain ⟨r, hr, ha⟩ := hasAcc_row (a := Reg.RING_URG_CMD) (c := .wo) (by decide)
  rw [Vp.written_row hr, Vp.effect_block (by simp [ha]) (by decide) (by decide)]
  rfl

theorem Vp.written_RING_CTL (v : Vp) (m : Nat) (w : Word) {i : Nat} (hi : i < 16) :
    v.written m (Reg.RING_CTL i) w = (let u := if Machine.bit w 0 then v.retrainNow i else v; if Machine.bit w 1 then u.closeNow i else u) := by
  have hall : ∀ i < 16, hasAcc (Reg.RING_CTL i) .rws = true ∧ Reg.RING_CTL i % 0x10000 < 0xFF00 ∧ stickyClr (Reg.RING_CTL i) = false ∧ wideBelow (Reg.RING_CTL i) = false ∧ wideLower (Reg.RING_CTL i) = [] := by
    decide
  obtain ⟨h1, h2, h3⟩ := hall i hi
  obtain ⟨r, hr, ha⟩ := hasAcc_row h1
  rw [Vp.written_row hr, Vp.effect_block (by simp [ha]) h2 h3]
  have e1 : Reg.RING_CTL i / 0x10000 % 16 = 6 := by unfold Reg.RING_CTL; omega
  have e2 : Reg.RING_CTL i % 0x10000 = 4152 + i * 256 := by unfold Reg.RING_CTL; omega
  simp only [e1, e2]
  unfold Vp.wRing
  have e3 : (4152 + i * 256 - 4096) / 256 = i := by omega
  have e4 : 4096 ≤ 4152 + i * 256 ∧ (4152 + i * 256) % 256 = 56 := by omega
  split
  all_goals first | omega | skip
  rw [if_pos e4, e3]

theorem Vp.written_LANE_PWR (v : Vp) (m : Nat) (w : Word) {i : Nat} (hi : i < 40) :
    v.written m (Reg.LANE_PWR i) w = v.lanePwr i w := by
  have hall : ∀ i < 40, hasAcc (Reg.LANE_PWR i) .rws = true ∧ Reg.LANE_PWR i % 0x10000 < 0xFF00 ∧ stickyClr (Reg.LANE_PWR i) = false ∧ wideBelow (Reg.LANE_PWR i) = false ∧ wideLower (Reg.LANE_PWR i) = [] := by
    decide
  obtain ⟨h1, h2, h3⟩ := hall i hi
  obtain ⟨r, hr, ha⟩ := hasAcc_row h1
  rw [Vp.written_row hr, Vp.effect_block (by simp [ha]) h2 h3]
  have e1 : Reg.LANE_PWR i / 0x10000 % 16 = 7 := by unfold Reg.LANE_PWR; omega
  have e2 : Reg.LANE_PWR i % 0x10000 = 4132 + i * 256 := by unfold Reg.LANE_PWR; omega
  simp only [e1, e2]
  unfold Vp.wLane
  have e3 : (4132 + i * 256 - 4096) / 256 = i := by omega
  have e4 : (4132 + i * 256) % 256 = 36 := by omega
  rw [if_neg (by omega), if_neg (by omega), if_neg (by omega)]
  simp only [e3, e4]

/-- The highest word of a measurement takes the low word that waits with it (R8, R200). -/
theorem Vp.written_TIME_PTP_MEAS1 (v : Vp) (m : Nat) (w : Word) : v.written m Reg.TIME_PTP_MEAS1 w =
    (v.wideTake Reg.TIME_PTP_MEAS1).ptpMeas ((v.wideTake Reg.TIME_PTP_MEAS1).reg Reg.TIME_PTP_MEAS0) w := by
  obtain ⟨r, hr, ha⟩ := hasAcc_row (a := Reg.TIME_PTP_MEAS1) (c := .rw) (by decide)
  rw [Vp.written_row hr]
  unfold Vp.effect
  have h1 : wideBelow Reg.TIME_PTP_MEAS1 = false := by decide
  have h2 : stickyClr Reg.TIME_PTP_MEAS1 = false := by decide
  have e1 : Reg.TIME_PTP_MEAS1 / 0x10000 % 16 = 2 := by decide
  have e2 : Reg.TIME_PTP_MEAS1 % 0x10000 = 76 := by decide
  simp only [ha, h1, h2, e1, e2, Bool.false_eq_true, if_false]
  rw [if_neg (by decide)]
  unfold Vp.wTime
  simp only

theorem Vp.written_TIME_SET_CMD (v : Vp) (m : Nat) (w : Word) : v.written m Reg.TIME_SET_CMD w = v.timeSetGo w := by
  obtain ⟨r, hr, ha⟩ := hasAcc_row (a := Reg.TIME_SET_CMD) (c := .wo) (by decide)
  rw [Vp.written_row hr, Vp.effect_block (by simp [ha]) (by decide) (by decide)]
  have e1 : Reg.TIME_SET_CMD / 0x10000 % 16 = 2 := by decide
  have e2 : Reg.TIME_SET_CMD % 0x10000 = 144 := by decide
  simp only [e1, e2]
  unfold Vp.wTime
  simp only

theorem Vp.written_ADC_INJ_REQ (v : Vp) (m : Nat) (w : Word) : v.written m Reg.ADC_INJ_REQ w = v.injReq w := by
  obtain ⟨r, hr, ha⟩ := hasAcc_row (a := Reg.ADC_INJ_REQ) (c := .wo) (by decide)
  rw [Vp.written_row hr, Vp.effect_block (by simp [ha]) (by decide) (by decide)]
  rfl

theorem Vp.written_ADC_CAL_CMD (v : Vp) (m : Nat) (w : Word) : v.written m Reg.ADC_CAL_CMD w = v.calCmd w := by
  obtain ⟨r, hr, ha⟩ := hasAcc_row (a := Reg.ADC_CAL_CMD) (c := .wo) (by decide)
  rw [Vp.written_row hr, Vp.effect_block (by simp [ha]) (by decide) (by decide)]
  rfl

theorem Vp.written_ACQ_P_FREE (v : Vp) (m : Nat) (w : Word) {i : Nat} (hi : i < 16) :
    v.written m (Reg.ACQ_P_FREE i) w = v.pFree i w := by
  have hall : ∀ i < 16, hasAcc (Reg.ACQ_P_FREE i) .wo = true ∧ Reg.ACQ_P_FREE i % 0x10000 < 0xFF00 ∧ stickyClr (Reg.ACQ_P_FREE i) = false ∧ wideBelow (Reg.ACQ_P_FREE i) = false ∧ wideLower (Reg.ACQ_P_FREE i) = [] := by
    decide
  obtain ⟨h1, h2, h3⟩ := hall i hi
  obtain ⟨r, hr, ha⟩ := hasAcc_row h1
  rw [Vp.written_row hr, Vp.effect_block (by simp [ha]) h2 h3]
  have e1 : Reg.ACQ_P_FREE i / 0x10000 % 16 = 9 := by unfold Reg.ACQ_P_FREE; omega
  have e2 : Reg.ACQ_P_FREE i % 0x10000 = 1568 + i * 64 := by unfold Reg.ACQ_P_FREE; omega
  simp only [e1, e2]
  unfold Vp.wAcq
  have e3 : (1568 + i * 64 - 1536) / 64 = i := by omega
  have e4 : (1568 + i * 64) % 64 = 32 := by omega
  rw [if_neg (by omega), if_pos (by omega)]
  simp only [e3, e4]

theorem Vp.written_HOST_P_MSG_ACK (v : Vp) (m : Nat) (w : Word) {i : Nat} (hi : i < 4) :
    v.written m (Reg.HOST_P_MSG_ACK i) w = v.setBit (Reg.HOST_P_MSG_STAT i) 11 false := by
  have hall : ∀ i < 4, hasAcc (Reg.HOST_P_MSG_ACK i) .wo = true ∧ Reg.HOST_P_MSG_ACK i % 0x10000 < 0xFF00 ∧ stickyClr (Reg.HOST_P_MSG_ACK i) = false ∧ wideBelow (Reg.HOST_P_MSG_ACK i) = false ∧ wideLower (Reg.HOST_P_MSG_ACK i) = [] := by
    decide
  obtain ⟨h1, h2, h3⟩ := hall i hi
  obtain ⟨r, hr, ha⟩ := hasAcc_row h1
  rw [Vp.written_row hr, Vp.effect_block (by simp [ha]) h2 h3]
  have e1 : Reg.HOST_P_MSG_ACK i / 0x10000 % 16 = 11 := by unfold Reg.HOST_P_MSG_ACK; omega
  have e2 : Reg.HOST_P_MSG_ACK i % 0x10000 = 296 + i * 64 := by unfold Reg.HOST_P_MSG_ACK; omega
  simp only [e1, e2]
  unfold Vp.wHost
  have e3 : (296 + i * 64 - 256) / 64 = i := by omega
  have e4 : (296 + i * 64) % 64 = 40 := by omega
  rw [if_pos (by omega)]
  simp only [e3, e4]

theorem Vp.written_SCHED_POST (v : Vp) (m : Nat) (w : Word) : v.written m Reg.SCHED_POST w = (if m ≤ 16 then v.post (.post m (Machine.fld w 0 12)) else v) := by
  obtain ⟨r, hr, ha⟩ := hasAcc_row (a := Reg.SCHED_POST) (c := .wo) (by decide)
  rw [Vp.written_row hr, Vp.effect_block (by simp [ha]) (by decide) (by decide)]
  rfl

theorem Vp.written_SCHED_SELF_DONE (v : Vp) (m : Nat) (w : Word) : v.written m Reg.SCHED_SELF_DONE w = (if m < 16 then v.post (.complete m) else v) := by
  obtain ⟨r, hr, ha⟩ := hasAcc_row (a := Reg.SCHED_SELF_DONE) (c := .wo) (by decide)
  rw [Vp.written_row hr, Vp.effect_block (by simp [ha]) (by decide) (by decide)]
  rfl

end Sys2Proof.Machine
end

