-- ==== Sys2Proof/WellFormed.lean ====
section
/-!
DEFINITION. Commands whose operands name something: numbers of cells, lanes, engines and the like within the ranges of the
part, and values that hold the bits by which a row with a register of its own is that row.
-/

namespace Sys2Proof

/-- A raw output lies within its span (R292). -/
def rawOk (r : Int) : Bool := decide (-8704 ≤ r) && decide (r ≤ 8703)

/-- A conversion: raw outputs within their span, and a crossfade's step at most 768 (R292, R303). -/
def Machine.RawConv.ok (x : Machine.RawConv) : Bool := rawOk x.raw && rawOk x.rawIn && decide (x.k ≤ 768)

open Machine

/-- A control core, or 16 for the MC (R401). -/
def masterOk (m : Nat) : Bool := decide (m ≤ 16)

/-- A ring and a position in it (R118, R120). -/
def CellRef.wf (c : CellRef) : Bool := decide (c.ring < 16) && decide (c.pos < 256)

/-- One of the ten quads (R159). -/
def PllRef.wf : PllRef → Bool
  | .root => true
  | .quad q => decide (q < 10)
  | .cell c => c.wf

/-- One of 40 lanes of the VP, or one of two of a cell (R158, R161). -/
def LaneRef.wf : LaneRef → Bool
  | .vp l => decide (l < 40)
  | .cell c i => c.wf && decide (i < 2)

/-- A port with a TAG of 16 bits and a MAC of 48 (R360 to R362). -/
def HostHdr.wf (h : HostHdr) : Bool :=
  decide (h.port < 4) && decide (h.tag < 2 ^ 16) && decide (h.src < 2 ^ 48) && decide (h.vlan < 2 ^ 32)

/-- A hop of a ring (R119). -/
def hopOk (m h : Nat) : Bool := decide (m < 16) && decide (h ≤ 256)

/-- A key of 0x00A5 with bit `i` set (R116, R155, R228). -/
def keyed (w : Word) (i : Nat) : Bool := bit w i && fld w 16 16 == 0xA5

/-- The operands of a command name something (log entry 18). -/
def Instr.wf : Instr → Bool
  | .pllLossOfLock p _ | .pllRelock p _ _ => p.wf
  | .quadPllRelockTimeout q => decide (q < 10)
  | .sysPwrCfgWrite m _ | .bootRetclr m _ | .loopSwap m _ | .armDecTimeClr m _ | .mgRequestGo m _ | .ptpMeasSubmit m _
  | .schedPost m _ | .adcInjReq m _ | .locRemoteSubmit m _ | .timeTsqPop m | .wideValueReadLatch m _ | .gridPqPop m
  | .stickyClr m _ _ | .w1cClear m _ _ => masterOk m
  | .frameBoundary fs errs => fs.all (fun f => decide (f.ch < 16) && f.raws.all RawConv.ok) && errs.all MemErr.ok
  | .loopLatch ain errs => decide (ain.length ≤ 16) && ain.all (fun xs => xs.all RawConv.ok) && errs.all MemErr.ok
  | .decisionInstant errs => errs.all MemErr.ok
  | .domainReady d => decide (d < 16)
  | .cnPowerOnReset c _ | .laneWatchdog c | .cellConfigTimeout c | .sampleInstant c _ _ _ | .reportAssembled c
  | .applyInstant c | .gateEdgeDue c | .trimCarrierStart c | .refreshLimitReached c | .cnThetaUpdate c | .mgRead c _
  | .mgWrite c _ | .mgConfig c _ | .mgConfigEnd c _ | .mgReset c _ | .mgReservedOpcode c _ | .cnCalibrationDone c
  | .cnAdcCal c | .cnRecalStageDone c | .pwmCommit c | .clearParityCause c | .cnFreeze c _ | .cnFreezeExit c
  | .desatTrip c _ _ | .overVoltageTrip c _ | .gateSupplyLost c _ | .gateSupplyRestored c | .configParityError c
  | .bypFastAssert c | .bypMechAssert c | .delayLineCalibration c _ | .overrideAtBoundary c | .closeAtBoundary c
  | .timeChangeAtBoundary c | .cellLossOfSignal c _ | .orphanTimeout c _ | .mboxInWrite c _ | .mboxOutWrite c _
  | .hkMemoryError c | .capacitorHigh c _ => c.wf
  | .trainReceived c x => c.wf && decide (x.rx < 2)
  | .urgentBlockReceived c rx _ => c.wf && decide (rx < 2)
  | .cnRetireCommand c w => c.wf && keyed w 0
  | .auxResult c ch raws => c.wf && decide (ch < 4) && raws.length == 64
  | .cnChatterCleared c pin => c.wf && decide (pin < 3)
  | .enumerationEnd r | .mgPacketReturn r _ _ _ _ _ _ | .mgRetryTimeout r _ | .rfhReceived r _ _ _ _ | .rfhDeadline r _
  | .trainCopyReturn r _ _ _ _ _ _ _ _ => decide (r < 16)
  | .reportReceived r p _ _ _ _ => decide (r < 16) && decide (p < 256)
  | .loopSlotWaitResume e _ => decide (e < 32)
  | .tuneStart m e w => masterOk m && decide (e < 32) && bit w 8
  | .tuneStop m e w => masterOk m && decide (e < 32) && bit w 9
  | .loopESwap m e _ => masterOk m && decide (e < 32)
  | .loopSlotIntWrite m i _ => masterOk m && decide (i < 512)
  | .armRecordWritten k _ | .snapTimeout k => decide (k < 12)
  | .armOvrWrite m e _ => masterOk m && decide (e < 64)
  | .overrideConfirmTimeout e => decide (e < 128)
  | .retrainAttempt r h | .closeConfirmTimeout r h | .hopTrainStart r h _ | .hopConfirm r h _ _ | .hopTimeout r h => hopOk r h
  | .retrainNow m r w => masterOk m && decide (r < 16) && bit w 0
  | .closeNow m r w => masterOk m && decide (r < 16) && bit w 1
  | .ringUrgCmdSend m w | .timeSetGo m w => masterOk m && keyed w 0
  | .tripInputActive i | .tripInputRelease i => decide (i < 4)
  | .trainStageDone l _ _ _ _ | .lossOfSignal l | .lossOfClockLock l | .lossOfBlockLock l _ | .lossCleared l _ _
  | .highBitErrorRate l _ | .hiBerCleared l _ | .adaptWindow l _ _ _ | .eyeMeasurement l _ _ | .fastReadaptEnd l
  | .deepEntry l | .signalReturn l _ => l.wf
  | .lanePwrRequest m l _ => masterOk m && decide (l < 40)
  | .electricalIdleBurst l _ st => decide (l < 40) && decide (1 ≤ st) && decide (st ≤ 2)
  | .electricalIdleExit l _ | .eiLost l => decide (l < 40)
  | .timeMeasurement src _ | .sourceTimeout src => decide (src < 3)
  | .ptpEventMessage p _ _ _ _ _ _ => decide (p < 4)
  | .selfDone k | .coreException k _ _ _ | .debugHalt k | .debugResume k => decide (k < 16)
  | .itemWatchdogOverrun w => decide (w < 4096)
  | .schedLockRead m j | .schedLockWrite m j => masterOk m && decide (j < 64)
  | .wiCfgWrite m w _ _ => masterOk m && decide (w < 4096)
  | .injectedResult ch raw _ _ => decide (ch < 16) && rawOk raw
  | .streamLineWrite ch _ _ xs => decide (ch < 16) && xs.all RawConv.ok
  | .adcOverRange ch _ _ => decide (ch < 16)
  | .adcCalAll m w => masterOk m && bit w 0
  | .adcCalOne m w => masterOk m && bit w 1
  | .handoverStageEnd x ps => decide (x < 2) && (ps.isEmpty || decide (ps.length = 256))
      && ps.all (fun p => rawOk p.1 && rawOk p.2)
  | .triggerCrossing p _ _ raw | .tailComplete p _ raw _ =>
    decide (p < 16) && raw.all (fun c => decide (c.1 < 16) && c.2.all RawConv.ok)
  | .acqPFree m p _ => masterOk m && decide (p < 16)
  | .tliWordReceived j w => decide (j < 8) && decide (w < 2 ^ 64)
  | .tliCodeError j | .tliTimeout j => decide (j < 8)
  | .phasorEntryWritten k _ _ => decide (k < 4)
  | .hostFrameDropped p | .readDeferredStart p | .hostLinkLost p | .eventFrameSend p | .partnerConfirm p _
  | .partnerConfirmTimeout p _ => decide (p < 4)
  | .badFrame h _ | .read h _ | .write h _ _ | .tokenRequest h | .tokenRelease h | .cancel h _ | .post h _ | .msg h _ _
  | .imageRead h _ _ _ | .imageErase h _ _ | .imageProgram h _ _ _ | .imageCrc h _ _ _ | .trip h _ | .tripClear h _ => h.wf
  | .deblock h _ a _ | .block h _ a _ => h.wf && decide (a < 2 ^ 16)
  | .setpoint h _ j _ _ => h.wf && decide (j < 2 ^ 16)
  | .retire h _ c _ _ => h.wf && decide (c < 2 ^ 16)
  | .hostPMsgAck m p _ | .hostPMsgSend m p _ => masterOk m && decide (p < 4)
  | .fltAck m b _ => masterOk m && decide (b < 16)
  | .faultAutoAck b i => decide (b < 16) && decide (i < 256)
  | .snapApply x _ => decide (x.arm < 12)
  | .registerWrite (.vp m) _ _ _ => masterOk m
  | .registerWrite (.hk c) a _ _ => c.wf && decide (a < 2 ^ 16)
  | .tapInstructionLoad p _ => match p with
    | none => true
    | some c => c.wf
  | .powerOnReset _ | .warmReset | .rootPllLock | .syncInEdge _ _ | .flashDiscoveryDone _ _ _ _ _ _ | .imageLoadDone _
  | .firstFrameLaunch | .armingBound | .trackerPublish | .adcResultUpdate | .loopDone _
  | .loopOverrunDeadline _ | .decisionReserveExpiry | .timeChangeConfirmTimeout | .tripOutRelease
  | .partnerFailAssert | .dskMarkerSend | .dskMarkerReceived _ | .ptmSend _ | .ptmReceived _ _ | .ppsEdge _ _
  | .ppsMeasurementDelivered | .ppsOutPulse _ | .sliceCalibrationDone _ _ | .rotationStep | .lpBurstStart
  | .measurementComplete | .locatorSeDone | .tokenTimeout | .imageOpDone _ | .hostxReceived _ _ | .sealOpen | .sealClose
  | .sealPinChange _ _ _ | .dumpWritten | .cfgdReceived _ _ _ | .soloStart | .forwardedReportReceived _ _ _
  | .rtvReceived _ _ _ | .rtvWaitExpiry | .ackSetClose | .digReceived _ _ _ | .digestCompare | .pstReceived _ _
  | .pstMissing | .takeover | .join _ | .tripMessageReceived _ _ | .warmResetRelease | .sealChatterCleared
  | .depthRampDone => true

end Sys2Proof
end

