-- ==== Sys2Proof/Tests/Slice0.lean ====
section
/-!
SUPPORT. Tests of the model: numbers that the spec works, an ill-formed term for each check of WellFormed, single steps, and for
each statement a state and operands that meet its hypotheses, clause by clause.
-/

namespace Sys2Proof.Tests

open Sys2Proof Sys2Proof.Machine

set_option Elab.async false

/-! ### Numbers worked in the spec -/

/-- The example after R12: chip 5, RING3, position 200. -/
theorem test_node_id : nodeId 5 3 200 = 21448 := by decide
/-- The product worked after R54's table: RING4, position 130, in frame 360,000,012. -/
theorem test_hash : hash (nodeId 0 4 130) 360000012 = 0xA51D := by decide
/-- The record of the worked frame: W0, W1 and W2. -/
theorem test_record_words : recW0 0 false 0x264 0xBCF3 = 0x0264BCF3 ∧ recW1 0x0C 236 = 0x0C0000EC := by decide
/-- L = 236.375 with one cell held: K = 235 and d = 24,576. -/
theorem test_level_split : let v := levelOf 0x0EC6000 512 1 0 507 true false
    v.k = 235 ∧ v.d = 24576 ∧ v.short = false := by decide
/-- A slot output of -157/2048 with BIAS and SCALE 256.0. -/
theorem test_route_level : routeLevel 0x01000000 0x01000000 (sgn 32 0xFB180000) = (0x0EC6000, false) := by decide
/-- 2.8 kV: three conversions of 11,469 with CODE_BASE 0x24CD and CODE_GAIN 0x4000. -/
theorem test_decision_code : decisionCode 0x400024CD 11469 11469 11469 = 512 := by decide
/-- FIRST1 of the lane fault worked in the chapter on faults. -/
theorem test_first1 : first1 ⟨3, 1, 0, 4, 0x36⟩ 1 false false 4 = 0x03040C36 := by decide
/-- The example of R9 and R37: `RING_FLT_STAT` and `RING_FLT_ACK`. -/
theorem test_fault_addresses : Reg.FLT_STAT 6 = 0x1006FF00 ∧ Reg.FLT_ACK 6 = 0x1006FF14 := by decide
/-- Fs of the phasor streams (R353). -/
theorem test_rates : fsOf false 2 = 50 ∧ fsOf true 6 = 120 := by decide
/-- A mean is rounded to nearest, halves away from zero (R296). -/
theorem test_mean_away : meanAway 5 2 = 3 ∧ meanAway (-5) 2 = -3 ∧ meanAway 4 3 = 1 := by decide
/-- At equal codes the lower hash comes first; in the discharging direction the higher code does (R51). -/
theorem test_insertion_order : before false ⟨0, 5, 9⟩ ⟨1, 5, 10⟩ = true ∧ before true ⟨0, 6, 9⟩ ⟨1, 5, 1⟩ = true
    ∧ before false ⟨0, 6, 0⟩ ⟨1, 5, 9⟩ = false := by decide
/-- Little-endian bytes (R5). -/
theorem test_bytes : mget (msetW [] 0x01000000 0x11223344) 0x01000000 = 0x44 ∧ mgetW (msetW [] 0x01000000 0x11223344) 0x01000000
    = 0x11223344 := by decide
/-- Writing what an unlisted byte reads as lists nothing. -/
theorem test_memory_canonical : msetW (msetW [] 64 7) 64 0 = [] := by decide

/-! ### Well-formed commands: an ill-formed term for each check -/

theorem test_ill_formed_places : (Instr.domainReady 16).wf = false ∧ (Instr.quadPllRelockTimeout 10).wf = false
    ∧ (Instr.sampleInstant ⟨16, 0⟩ 0 0 0).wf = false ∧ (Instr.applyInstant ⟨0, 256⟩).wf = false
    ∧ (Instr.pllLossOfLock (.quad 10) false).wf = false ∧ (Instr.lossOfSignal (.vp 40)).wf = false
    ∧ (Instr.lossOfSignal (.cell ⟨0, 0⟩ 2)).wf = false ∧ (Instr.urgentBlockReceived ⟨0, 0⟩ 2 0).wf = false
    ∧ (Instr.auxResult ⟨0, 0⟩ 4 []).wf = false ∧ (Instr.cnChatterCleared ⟨0, 0⟩ 3).wf = false
    ∧ (Instr.enumerationEnd 16).wf = false ∧ (Instr.reportReceived 0 256 false false 0 0).wf = false
    ∧ (Instr.loopSlotWaitResume 32 0).wf = false ∧ (Instr.armRecordWritten 12 0).wf = false
    ∧ (Instr.overrideConfirmTimeout 128).wf = false ∧ (Instr.hopTimeout 0 257).wf = false
    ∧ (Instr.tripInputActive 4).wf = false ∧ (Instr.eiLost 40).wf = false ∧ (Instr.sourceTimeout 3).wf = false
    ∧ (Instr.debugHalt 16).wf = false ∧ (Instr.itemWatchdogOverrun 4096).wf = false
    ∧ (Instr.adcOverRange 16 true false).wf = false ∧ (Instr.handoverStageEnd 2 []).wf = false
    ∧ Instr.measurementComplete.wf = true ∧ (Instr.tliCodeError 8).wf = false ∧ (Instr.phasorEntryWritten 4 0 0).wf = false
    ∧ (Instr.hostFrameDropped 4).wf = false ∧ (Instr.faultAutoAck 16 0).wf = false ∧ (Instr.tailComplete 16 0 [] ⟨0, [], false, false⟩).wf
      = false := by decide
theorem test_ill_formed_writes : (Instr.schedPost 17 0).wf = false ∧ (Instr.tuneStart 0 0 0).wf = false
    ∧ (Instr.tuneStop 0 0 0).wf = false ∧ (Instr.loopSlotIntWrite 0 512 0).wf = false ∧ (Instr.armOvrWrite 0 64 0).wf = false
    ∧ (Instr.retrainNow 0 0 2).wf = false ∧ (Instr.closeNow 0 0 1).wf = false ∧ (Instr.ringUrgCmdSend 0 1).wf = false
    ∧ (Instr.timeSetGo 0 0xA50000).wf = false ∧ (Instr.cnRetireCommand ⟨0, 0⟩ 1).wf = false ∧ (Instr.lanePwrRequest 0 40 0).wf = false
    ∧ (Instr.electricalIdleBurst 0 false 3).wf = false ∧ (Instr.schedLockRead 0 64).wf = false
    ∧ (Instr.wiCfgWrite 0 4096 false 0).wf = false ∧ (Instr.adcCalAll 0 2).wf = false ∧ (Instr.adcCalOne 0 1).wf = false
    ∧ (Instr.acqPFree 0 16 0).wf = false ∧ (Instr.fltAck 0 16 0).wf = false ∧ (Instr.registerWrite (.vp 17) 0 0 false).wf = false
    ∧ (Instr.registerWrite (.hk ⟨0, 0⟩) 0x10000 0 false).wf = false ∧ (Instr.tripClear ⟨4, 0, 0, 0⟩ 0xA5).wf = false
    ∧ (Instr.post ⟨0, 65536, 0, 0⟩ 0).wf = false ∧ (Instr.block ⟨0, 0, 0, 0⟩ 0 65536 []).wf = false := by decide

/-! ### Steps on small states -/

/-- A valve processor that runs, every domain ready, with registers set. -/
def vpWith (l : List (Nat × Word)) : Vp :=
  l.foldl (fun v p => v.setReg p.1 p.2)
    (({ boot := { run := .on }, clk := { locked := true } } : Vp).setReg Reg.SYS_PWR_STAT 0xFFFF)

def vp0 : Vp := vpWith []
def st (v : Vp) : State := { pending := [], vp := v, cells := [] }
def k0 : CellRef := ⟨0, 0⟩
/-- One cell at the first place of RING0. -/
def cellSt (c : Cell) : State := { pending := [], vp := {}, cells := [(0, c)] }
/-- A cell in a state of R78, with registers set. -/
def cellWith (x : Nat) (l : List (Nat × Word)) : Cell := l.foldl (fun c p => c.setReg p.1 p.2) (({} : Cell).setSt x)

/-- The state that a command leads to. -/
def next (i : Instr) (s : State) : State :=
  match step { s with pending := [i] } with
  | .next t => t
  | _ => s

/-! ### What the statements assume can hold: a state and operands for each form -/

/-- With the seal open, and with frames running. -/
def vpSeal : Vp := vpWith [(Reg.HOST_SEAL, 1)]
def vpRun : Vp := { vp0 with launched := true }

theorem witness_StepRunsFront : State.reset.pending = [] := by decide
theorem witness_PartsApart : (Instr.mboxInWrite k0 1).target = .cell k0 ∧ (Instr.cnPowerOnReset k0 true).target = .cellAny k0
    ∧ Instr.sealOpen.target = .vp ∧ Instr.warmReset.target = .vpAny ∧ cellKey ⟨0, 1⟩ ≠ cellKey k0
    ∧ (∃ t, exec (.mboxInWrite k0 1) State.reset = .next t) ∧ ∃ t, exec .sealOpen State.reset = .next t :=
  ⟨by decide, by decide, by decide, by decide, by decide, ⟨_, rfl⟩, ⟨_, rfl⟩⟩
theorem witness_StoppedPartsStand : Instr.sealOpen.target = .vp ∧ State.reset.vp.runs = false
    ∧ (Instr.mboxInWrite k0 1).target = .cell k0 ∧ ((cellSt { clamped := true }).cell k0).clamped = true := by decide
theorem witness_StepKeepsSafe : State.reset.safe = true ∧ (cellSt (cellWith 2 [])).safe = true
    ∧ ∃ t, step State.reset = .next t := ⟨by decide, by decide, _, rfl⟩
theorem witness_RetiredUntilReset : (cellSt (cellWith stRetired [])).safe = true
    ∧ ((cellSt (cellWith stRetired [])).cell k0).st = stRetired ∧ (∃ t, exec (.bypFastAssert k0) (cellSt (cellWith stRetired [])) = .next t)
    ∧ ∀ d, (Instr.bypFastAssert k0).resets d = true → cellKey d ≠ cellKey k0 :=
  ⟨by decide, by decide, ⟨_, rfl⟩, fun _ h => Bool.noConfusion h⟩
theorem witness_MemoryWord : Memory.wf [] = true ∧ Memory.wf (msetW [] 8 0x01020304) = true := by decide
theorem witness_AccessCodes : (regRow Reg.TIME_STATE).map (·.acc) = some .ro ∧ (regRow Reg.ADC_RES_NEW).map (·.acc) = some .w1c
    ∧ hasAcc (Reg.TIME_SET 2) .rws = true ∧ wideBelow (Reg.TIME_SET 2) = true ∧ wideBelow (Reg.GRID_TR_CFG 0) = false
    ∧ wideLower (Reg.GRID_TR_CFG 0) = [] ∧ hasAcc (Reg.GRID_TR_CFG 0) .rws = true
    ∧ Reg.GRID_TR_CFG 0 / 0x10000 % 16 = 10 ∧ Reg.GRID_TR_CFG 0 % 0x10000 < 0xFF00 ∧ stickyClr (Reg.GRID_TR_CFG 0) = false := by
  decide
theorem witness_CoreWrites : vp0.runs = true ∧ vp0.masterActs 16 = true ∧ vp0.masterActs 15 = true
    ∧ vp0.accepts 16 (Reg.LOOP_SP 5) 0x20000000 = true ∧ busError 16 0x10000002 true = true ∧ busError 15 0x10000002 true = true
    ∧ (let v := vpWith [(Reg.SCHED_CORE_SPLIM 15, 0x06020000)]
       v.masterActs 15 = true ∧ busError 15 0x0601FFFC true = false ∧ 0x0601FFFC < (v.reg (Reg.SCHED_CORE_SPLIM 15)).toNat)
    ∧ busError 16 (Reg.LOOP_SP 5) true = false ∧ region 16 (Reg.LOOP_SP 5) = .reg ∧ staged (Reg.LOOP_SP 5) = false
    ∧ (let v := vpWith [(Reg.SYS_PWR_STAT, 0)]
       v.masterActs 16 = true ∧ v.domOn (accessDom 16 (Reg.LOOP_SP 5)) = false)
    ∧ busError 16 (Reg.TIME_APPLY 0) true = false ∧ region 16 (Reg.TIME_APPLY 0) = .reg ∧ vpRun.launched = true
    ∧ vpRun.masterActs 16 = true ∧ staged (Reg.TIME_APPLY 0) = true := by decide
theorem witness_ClearingWrites : vp0.accepts 16 Reg.SYS_STICKY_CLR 2 = true ∧ hasAcc Reg.SYS_STICKY_CLR .wo = true
    ∧ stickyClr Reg.SYS_STICKY_CLR = true ∧ bit 2 31 = false ∧ vp0.accepts 16 Reg.ADC_RES_NEW 1 = true
    ∧ hasAcc Reg.ADC_RES_NEW .w1c = true ∧ vp0.accepts 16 (Reg.FLT_ACK 15) 7 = true := by decide
theorem witness_WideReads : vp0.masterActs 16 = true ∧ busError 16 (Reg.TIME_NOW 0) false = false
    ∧ vp0.domOn (accessDom 16 (Reg.TIME_NOW 0)) = true ∧ busError 16 (Reg.TIME_TSQ 0) false = false
    ∧ vp0.domOn (accessDom 16 (Reg.TIME_TSQ 0)) = true ∧ busError 16 (Reg.GRID_PQ 0) false = false
    ∧ vp0.domOn (accessDom 16 (Reg.GRID_PQ 0)) = true ∧ vp0.time.tsq = [] ∧ vp0.grid.pq = []
    ∧ ({ vp0 with time := { tsq := [[1, 2, 3, 4]] } } : Vp).time.tsq = [[1, 2, 3, 4]]
    ∧ ({ vp0 with grid := { pq := [List.replicate 16 1] } } : Vp).grid.pq = [List.replicate 16 1]
    ∧ (let v := vpWith [(Reg.SYS_PWR_STAT, 0)]
       v.masterActs 16 = true ∧ v.domOn (accessDom 16 (Reg.TIME_TSQ 0)) = false ∧ v.domOn (accessDom 16 (Reg.GRID_PQ 0)) = false) := by
  decide +kernel
theorem witness_Escalation : vp0.isRemoved 15 255 = false ∧ vp0.escalate 15 255 3 = 3
    ∧ ({ vp0 with flt := { pend := [(0, 6)] } } : Vp).isRemoved 0 0 = false
    ∧ ({ vp0 with flt := { pend := [(0, 6)] } } : Vp).escalate 0 0 1 = 3 := by decide
theorem witness_FirstErrorCapture : vp0.isRemoved 15 255 = false ∧ vp0.bit (Reg.FLT_STAT 15) 5 = false
    ∧ (vpWith [(Reg.FLT_STAT 6, 32)]).bit (Reg.FLT_STAT 6) 5 = true ∧ (vpWith [(Reg.FLT_STAT 6, 32)]).escalate 6 0 1 = 1
    ∧ (vpWith [(Reg.FLT_STAT 6, 32)]).escalate 6 0 3 = 3 ∧ sget (fun _ => 0) [(6, 2)] 6 < 3
    ∧ sget (fun _ => 0) ({ vp0 with flt := { cap := [(6, 3)] } } : Vp).flt.cap 6 = 3
    ∧ deviceLevel 6 ((vpWith []).fld (Reg.FLT_FIRST 6 1) 16 8) = false := by decide
theorem witness_FaultRaised : ({ vp0 with flt := { removed := [6 * 256 + 4] } } : Vp).isRemoved 6 4 = true
    ∧ vp0.isRemoved 15 255 = false
    ∧ ∀ d ∈ [Cond.own 1 2 cor 0, Cond.own 2 3 unc 4, Cond.own 3 4 fat 8], 1 ≤ d.cls ∧ d.cls ≤ 3 := by decide
theorem witness_AutoAcknowledge : (vpWith [(Reg.SYS_FLT_AUTO, 0x8000)]).bit Reg.SYS_FLT_AUTO 15 = true
    ∧ ({ vp0 with flt := { pend := [(15 * 256 + 255, 2)] } } : Vp).pending 15 255 cor = true := by decide
theorem witness_FrameBoundary : vpRun.runs = true ∧ (vpRun.memErrors []).launched = true ∧ (vpRun.memErrors []).fatal = false
    ∧ vpRun.time.seqErr = 0 ∧ vpRun.time.slew = 0 := by decide +kernel
theorem witness_FirstFrame :
    (let v := vpWith [(Reg.TIME_STATE, 64), (Reg.BOOT_STAT, 0x40)]
     v.launched = false ∧ v.fatal = false ∧ v.ready = true ∧ v.phase = 4 ∧ v.peer.joining = false ∧ v.paired = false
       ∧ v.epochE < v.firstSecond)
    ∧ (let v := vpWith [(Reg.TIME_STATE, 64), (Reg.BOOT_STAT, 0x40), (Reg.PEER_CFG, 1), (Reg.PEER_STAT, 4)]
       v.ready = true ∧ v.phase = 4 ∧ v.paired = true ∧ v.bit Reg.PEER_STAT 2 = true) := by decide +kernel
theorem witness_LoopEvents : (vp0.memErrors []).loop.latched = false
    ∧ (let v : Vp := { vp0 with loop := { latched := true, at_ := [(31, 15)] } }
       v.loop.done = false ∧ v.engAt 31 < 16 ∧ v.isRemoved 4 31 = false)
    ∧ (let v : Vp := { vpWith [(Reg.LOOP_CFG, 0x10000)] with loop := { latched := true } }
       v.loop.done = false ∧ v.bit Reg.LOOP_CFG 16 = true ∧ v.enginesDone = true ∧ (v.loopDeadline 0).loop.done = true) := by
  decide +kernel
theorem witness_LoopControls : (vpWith [(Reg.HOST_SEAL, 1), (Reg.LOOP_SLOT_CFG 511, 1)]).accepts 16 (Reg.LOOP_E_TUNE_CTL 31) 0x10F = true
    ∧ vpSeal.accepts 16 (Reg.LOOP_E_TUNE_CTL 0) 0x200 = true
    ∧ vpSeal.accepts 16 (Reg.LOOP_E_SWAP 31) 0xFFFF = true ∧ vpSeal.accepts 0 Reg.LOOP_SWAP 0xFFFFFFFF = true
    ∧ vpSeal.accepts 16 (Reg.LOOP_SLOT_INT 511) 5 = true := by decide
theorem witness_LoopLimits : vp0.outLo 511 ≤ vp0.outHi 511 ∧ vp0.ilimLo 0 ≤ vp0.int (Reg.LOOP_SLOT_INT 0)
    ∧ vp0.int (Reg.LOOP_SLOT_INT 0) ≤ vp0.ilimHi 0 := by decide
theorem witness_ArmEvents :
    (let v := vpRun.memErrors []
     v.launched = true ∧ v.decided = false ∧ v.fatal = false)
    ∧ (let v := vp0.setArm 11 { busy := true }
       (v.arm 11).busy = true ∧ (v.arm 11).badHist = false ∧ armIds.any (fun k => (v.arm k).busy) = true)
    ∧ sget (fun _ => 0) ({ vp0 with ovrAt := [(127, 9)] } : Vp).ovrAt 127 ≠ 0 ∧ vp0.ovrGot.contains 127 = false
    ∧ ({ vp0 with timeAt := 9, timeNeed := 2, timeGot := 1 } : Vp).timeAt ≠ 0
    ∧ vp0.accepts 16 Reg.ARM_DEC_TIME_CLR 0 = true
    ∧ vpSeal.accepts 16 (Reg.ARM_OVR 63) 0xFFF = true ∧ fld 0xFFF 12 2 = 0 ∧ fld (vpSeal.reg (Reg.ARM_OVR 63)) 12 2 = 0
    ∧ vpSeal.accepts 16 (Reg.ARM_OVR 63) 0x10FF = true ∧ fld 0x10FF 12 2 ≠ 0
    ∧ (let v := vpWith [(Reg.HOST_SEAL, 1), (Reg.ARM_OVR 63, 0x20FF)]
       v.accepts 16 (Reg.ARM_OVR 63) 0 = true ∧ fld (v.reg (Reg.ARM_OVR 63)) 12 2 ≠ 0
         ∧ v.accepts 16 (Reg.ARM_OVR 63) 0x10FF = true ∧ fld (v.reg (Reg.ARM_OVR 63)) 0 12 = fld 0x10FF 0 12
         ∧ v.accepts 16 (Reg.ARM_OVR 63) 0x1000 = true ∧ fld (v.reg (Reg.ARM_OVR 63)) 0 12 ≠ fld 0x1000 0 12) := by
  decide +kernel
theorem witness_HashRule : (1154 : Nat) < 2 ^ 18 := by decide
theorem witness_HashesDistinct : ((15, 255) : Nat × Nat) ≠ (15, 254) := by decide
theorem witness_ExactCount : let cs : List Cand := [⟨0, 5, 65535⟩, ⟨1, 1023, 0⟩, ⟨2, 5, 1⟩]
    2 ≤ cs.length ∧ (cs.map (·.h)).Nodup ∧ ∀ c ∈ cs, c.code < 1024 ∧ c.h < 65536 := by decide
theorem witness_LevelSplit : (levelOf 0x0EC6000 512 1 0 507 true false).short = false ∧ 0x0EC6000 ≤ 512 * 65536
    ∧ 1 * 65536 + 0 ≤ 0x0EC6000 ∧ (0x0EC6000 - (1 * 65536 + 0)) / 65536 < 507 := by decide
theorem witness_SchedulerEvents : vp0.accepts 16 Reg.SCHED_POST 4095 = true ∧ vp0.accepts 15 Reg.SCHED_SELF_DONE 0 = true
    ∧ vp0.masterActs 15 = true ∧ ({ vp0 with sched := { coreStack := [(15, [7])] } } : Vp).stack 15 = [7]
    ∧ (let v : Vp := { vpWith [(Reg.SCHED_WI_CFG 4095, 0x20)] with sched := { coreStack := [(15, [4095])], wdogDue := [4095] } }
       v.sched.wdogDue.contains 4095 = true ∧ cores.any (fun k => (v.stack k).contains 4095) = true
         ∧ v.bit (Reg.SCHED_WI_CFG 4095) 5 = true)
    ∧ (let v : Vp := { vp0 with sched := { wdogDue := [4095] } }
       v.sched.wdogDue.contains 4095 = true ∧ v.bit (Reg.SCHED_WI_CFG 4095) 5 = false)
    ∧ vpSeal.debugOn = true ∧ vpSeal.sched.removed.testBit 15 = false
    ∧ ({ vpSeal with sched := { halted := 0x8000 } } : Vp).sched.halted.testBit 15 = true := by decide +kernel
/-- Writes of a descriptor: refused, and accepted with EN 1 and 0 in each state of its item. -/
theorem witness_SchedulerDescriptors : let v := fun (st : Nat) => vpWith [(Reg.HOST_SEAL, 1), (Reg.SCHED_WI_CFG 4095, 0x80000000), (Reg.SCHED_WI_STAT 4095, w32 st)]
    let e := (v 0).reg (Reg.SCHED_WI_ENTRY 4095)
    (v 0).masterActs 16 = true ∧ (v 0).sealOpen = true ∧ (v 0).launched = false
      ∧ (v 0).domOn (accessDom 16 (Reg.SCHED_WI_CFG 4095)) = true ∧ (v 0).domOn (accessDom 16 (Reg.SCHED_WI_ENTRY 4095)) = true
      ∧ (v 0).wiRefused 4095 0x80000740 e = true ∧ (v 0).wiRefused 4095 0x80000000 1 = true
      ∧ (v 0).accepts 16 (Reg.SCHED_WI_CFG 4095) 0x80000001 = true ∧ (v 0).accepts 16 (Reg.SCHED_WI_CFG 4095) 0x80000000 = true
      ∧ (v 0).wiRefused 4095 0x80000001 e = false ∧ (v 0).wiRefused 4095 0x80000000 e = false
      ∧ (v 0).wiState 4095 = 0 ∧ (v 1).wiState 4095 = 1 ∧ (v 2).wiState 4095 = 2 ∧ (v 3).wiState 4095 = 3 ∧ (v 4).wiState 4095 = 4
      ∧ (v 0).accepts 16 (Reg.SCHED_WI_ENTRY 4095) 0 = true := by decide +kernel
theorem witness_PostByState : vp0.bit (Reg.SCHED_WI_CFG 0) 0 = false
    ∧ (let v := vpWith [(Reg.SCHED_WI_CFG 4095, 1), (Reg.SCHED_WI_STAT 4095, 0)]
       let u := v.inc Reg.SCHED_POST_CNT
       u.bit (Reg.SCHED_WI_CFG 4095) 0 = true ∧ u.wiState 4095 = 0)
    ∧ (let v := vpWith [(Reg.SCHED_WI_CFG 4095, 1), (Reg.SCHED_WI_STAT 4095, 1)]
       (v.inc Reg.SCHED_POST_CNT).wiState 4095 = 1)
    ∧ (let v := vpWith [(Reg.SCHED_WI_CFG 4095, 1), (Reg.SCHED_WI_STAT 4095, 10)]
       let u := (v.inc Reg.SCHED_POST_CNT).coalesce 4095 0 0
       (v.inc Reg.SCHED_POST_CNT).wiState 4095 = 2 ∧ u.bit (Reg.SCHED_WI_STAT 4095) 3 = true
         ∧ u.bit (Reg.SCHED_WI_CFG 4095) 5 = false) := by decide
theorem witness_Placement :
    (let v := vpWith [(Reg.SCHED_CFG, 1), (Reg.SCHED_WI_CFG 4095, 0x80000001)]
     cores.find? (fun k => v.eligible 4095 k && (v.stack k).isEmpty) = some 15)
    ∧ (let v : Vp := { vpWith [(Reg.SCHED_CFG, 1), (Reg.SCHED_WI_CFG 4095, 0x80000001), (Reg.SCHED_WI_CFG 0, 0x8000000F)] with sched := { coreStack := [(15, [0])] } }
       cores.find? (fun k => v.eligible 4095 k && (v.stack k).isEmpty) = none ∧ v.victim 4095 = some 15) := by decide
/-- A running VP whose last ring is in service, with 255 cells and registers set. -/
def vpRing (l : List (Nat × Word)) : Vp :=
  vpWith ((Reg.RING_EN, 0x8000) :: (Reg.RING_STATE 15, 3) :: (Reg.RING_CFG 15, 255) :: l)
theorem witness_RingEvents :
    (let v := vpRing []
     v.ringUp 15 = true ∧ v.decided = false ∧ ({ v with decided := true } : Vp).decided = true ∧ 254 < v.ncell 15 ∧ v.pairMode = false)
    ∧ (let v := (vpRing []).updRing 15 (fun r => { r with seen := putBit r.seen 254 true })
       let slot := withCrc16 0 (nodeId v.chip 15 254) v.frameNo
       let u := (v.updRing 15 (fun r => { r with
         copyHeld := sset (fun _ => 0) r.copyHeld 0 (putBit (sget (fun _ => 0) r.copyHeld 0) 254 true) })).setCf (256 * 15 + 254) 8 0 1 1
       crc16Ok slot (nodeId v.chip 15 254) v.frameNo = true ∧ crc16Ok (slot + 1) (nodeId v.chip 15 254) v.frameNo = false
         ∧ u.holds (256 * 15 + 254) = false)
    ∧ (let h : Held := { val := 5 }
       let v : Vp := { vpRing [] with held := [(256 * 15 + 254, h)] }
       v.holds (256 * 15 + 254) = true ∧ (sget (fun _ => {}) v.held (256 * 15 + 254)).val = 5) := by decide +kernel
theorem witness_RingPackets :
    (let req : Word := w32 (15 + 254 * 2 ^ 4 + 2 ^ 13 + 0x300 * 2 ^ 16)
     let v := vpRing [(Reg.RING_MG_REQ0, req), (Reg.RING_MG_REQ1, 1)]
     let p : MgPkt := { dest := 254, bcast := false, opc := 1, addr := 0x300, words := [v.reg (Reg.RING_MG_BUF 0), v.reg (Reg.RING_MG_BUF 1)],
                        odd := false, first := false, use := .user }
     v.accepts 16 Reg.RING_MG_GO 1 = true ∧ v.bit Reg.RING_MG_STAT 0 = false ∧ p.dest < v.ncell 15 ∧ v.mgForward 15 p = true)
    ∧ (vpWith [(Reg.RING_MG_STAT, 1)]).bit Reg.RING_MG_STAT 0 = true ∧ vp0.fld Reg.RING_MG_REQ1 0 7 = 0
    ∧ (vp0.ring 15).mg.lookup (vp0.ring 15).mgTag = none
    ∧ (let v := (vpWith [(Reg.RING_MG_CFG, 2)]).updRing 15 (fun r => { r with mg := [(0, mgWrite 0 0x800 [0] .timeCancel)] })
       ((v.ring 15).mg.lookup (v.ring 15).mgTag).isSome = true)
    ∧ (let p : MgPkt := mgWrite 0 0x800 [0] .timeCancel
       let v := (vpWith [(Reg.RING_MG_CFG, 2)]).updRing 15 (fun r => { r with mg := [(255, p)] })
       (v.ring 15).mg.lookup 255 = some p ∧ p.await ≤ 1 ∧ p.status = 0 ∧ p.resp = 0 ∧ max p.status 1 ≠ 0 ∧ max p.status 1 ≠ 4
         ∧ max p.status 4 = 4 ∧ p.tries < v.fld Reg.RING_MG_CFG 0 3 ∧ v.fld Reg.RING_MG_CFG 0 3 ≤ ({ p with tries := 2 } : MgPkt).tries
         ∧ 1 < ({ p with await := 2 } : MgPkt).await ∧ (v.ring 15).mg.lookup 254 = none) := by decide +kernel
theorem witness_HopService :
    (let v := (vpWith [(Reg.RING_EN, 1), (Reg.RING_CFG 0, 1)]).updHop 0 1 (fun x => { x with broken := true })
     let x := v.hop 0 1
     x.broken = true ∧ x.started = false ∧ x.closeAt = 0 ∧ x.check = 0 ∧ v.mayTrain 0 = true ∧ 1 ≤ v.ncell 0)
    ∧ vpSeal.accepts 16 (Reg.RING_CTL 15) 3 = true
    ∧ (let v := vp0.updHop 0 1 (fun x => { x with closeAt := 9, need := 2, got := 1 })
       (v.hop 0 1).closeAt ≠ 0 ∧ (v.hop 0 1).got < (v.hop 0 1).need) := by decide +kernel
theorem witness_TripEvents : vp0.trip.pins.testBit 3 = false ∧ (vpWith [(Reg.RING_TRIP_EN, 8)]).bit Reg.RING_TRIP_EN 3 = true
    ∧ vp0.tripSrc = 0 ∧ vp0.fatal = false ∧ vp0.paired = false ∧ vp0.accepts 16 Reg.RING_URG_CMD 0xA50001 = true
    ∧ bit 0xA50001 0 = true ∧ fld 0xA50001 16 16 = 0xA5 := by decide
/-- All rings enabled, with registers set. -/
def vpLane (l : List (Nat × Word)) : Vp := vpWith ((Reg.RING_EN, 0xFFFF) :: (Reg.LANE_QPLL_STAT, 0x3FF) :: l)
/-- A receiver of the last ring lane in a state of its own. -/
def stLane (stat : Word) (l : List (Nat × Word)) : State :=
  st (vpLane ((Reg.LANE_STAT 31, stat) :: (Reg.LANE_PWR 31, 0) :: l))

theorem witness_LaneLosses :
    (let s := stLane 7 []
     let x := s.lane (.vp 31)
     s.laneOn (.vp 31) = true ∧ x.rx = 0 ∧ x.on 0 = true ∧ x.on 1 = true ∧ x.on 2 = true ∧ x.on 3 = false)
    ∧ (let s := stLane 0x50E []
       let x := s.lane (.vp 31)
       s.laneOn (.vp 31) = true ∧ x.rx = 0 ∧ x.good = false ∧ x.training = false ∧ x.on 3 = true)
    ∧ (let v := vpLane [(Reg.LANE_STAT 31, 0x100), (Reg.LANE_PWR 31, 0)]
       let s := st { v with lanes := { v.lanes with lanes := [(31, { back5 := true })] } }
       let x := s.lane (.vp 31)
       s.laneOn (.vp 31) = true ∧ x.rx = 0 ∧ x.good = false ∧ x.training = true ∧ x.st.back5 = true)
    ∧ (let s := cellSt (cellWith 2 [(Reg.CN_LANE_LSTAT 1, 7), (Reg.CN_LANE_PWR 1, 0)])
       s.laneOn (.cell k0 1) = true ∧ (s.lane (.cell k0 1)).rx = 0 ∧ (s.lane (.cell k0 1)).on 2 = true) := by decide +kernel
theorem witness_LaneAdapts :
    (let s := stLane 7 [(Reg.LANE_RXCFG 31, 0x101), (Reg.LANE_CFG 31, 0x80)]
     let x := s.lane (.vp 31)
     s.laneOn (.vp 31) = true ∧ x.rx = 0 ∧ x.trn = 0 ∧ bit x.cfg 7 = true ∧ 15 < 16 * fld x.rxcfg 8 8 ∧ 16 * fld x.rxcfg 8 8 ≤ 16
       ∧ bit x.rxcfg 0 = true ∧ x.on 7 = false ∧ fld (s.eyeCfg (.vp 31)) 0 8 < 255 ∧ fld (s.eyeCfg (.vp 31)) 8 8 < 255)
    ∧ (let v := vpLane [(Reg.LANE_STAT 31, 0x507), (Reg.LANE_PWR 31, 0), (Reg.LANE_EYE_CFG, 0x4040), (Reg.LANE_RXCFG 31, 0x100)]
       let s := st { v with lanes := { v.lanes with lanes := [(31, { low := 1 })] } }
       let x := s.lane (.vp 31)
       s.laneOn (.vp 31) = true ∧ x.rx = 0 ∧ x.trn = 5 ∧ bit x.rxcfg 0 = false ∧ 63 < fld (s.eyeCfg (.vp 31)) 0 8 ∧ 1 ≤ x.st.low
         ∧ x.on 7 = false) := by decide +kernel
theorem witness_LanePower :
    (let s := stLane 6 []
     let x := s.lane (.vp 31)
     s.laneOn (.vp 31) = true ∧ x.rx = 0 ∧ x.on 0 = false ∧ x.trn = 0)
    ∧ (let s := stLane 6 [(Reg.LANE_PWR 31, 0x40)]
       let x := s.lane (.vp 31)
       s.laneOn (.vp 31) = true ∧ x.rx = 1 ∧ x.on 0 = false ∧ x.rxReq ≠ 1)
    ∧ (let s := stLane 6 [(Reg.LANE_PWR 31, 0x90)]
       let x := s.lane (.vp 31)
       x.rx = 2 ∧ x.rxReq ≠ 2 ∧ x.tx = 1 ∧ x.txReq ≠ 1)
    ∧ (let v := vpWith [(Reg.HOST_SEAL, 1), (Reg.LANE_PEER_CFG, 8)]
       v.accepts 16 (Reg.LANE_PWR 39) 0 = true)
    ∧ (let x := (vpLane []).lane 31
       ({ x with pwr := 0xC } : Lane).rxReq = 3 ∧ ({ x with pwr := 0xC } : Lane).rx ≠ 3 ∧ ({ x with pwr := 8 } : Lane).rxReq = 2
         ∧ ({ x with pwr := 8 } : Lane).rx ≠ 2 ∧ ({ x with pwr := 1 } : Lane).txReq = 1 ∧ ({ x with pwr := 1 } : Lane).tx ≠ 1
         ∧ (vpLane []).quadOk 31 = true)
    ∧ vpSeal.masterActs 16 = true ∧ vpSeal.sealOpen = true ∧ vpSeal.launched = false
    ∧ vpSeal.domOn (accessDom 16 (Reg.LANE_PWR 39)) = true ∧ vpSeal.lanePwrRefused 39 0 = true := by decide +kernel
theorem witness_LaneStages :
    (let s := stLane 0x100 []
     s.laneOn (.vp 31) = true ∧ (s.vp.lane 31).rx ≠ 3 ∧ (s.vp.lane 31).trn = 1)
    ∧ ((stLane 0x200 []).vp.lane 31).trn = 2
    ∧ (let x := (stLane 0x300 [(Reg.LANE_RXCFG 31, 0)]).vp.lane 31
       x.trn = 3 ∧ bit x.rxcfg 1 = false)
    ∧ bit ((stLane 0x300 [(Reg.LANE_RXCFG 31, 2)]).vp.lane 31).rxcfg 1 = true
    ∧ ((stLane 0x500 []).vp.lane 31).trn = 5
    ∧ (let c := cellWith 0 [(Reg.CN_LANE_LSTAT 1, 0x100), (Reg.CN_LANE_PWR 1, 0)]
       let x := c.lane 1
       c.clamped = false ∧ x.rx ≠ 3 ∧ x.trn = 1 ∧ (((c.setLane 1 { (((x.setStat 0 true).setStat 1 true).setTrn 2).setRx 0 with
         st := { x.st with back5 := false } }).sync).lane 1).training = true) := by decide +kernel
theorem witness_PeerMarkers : (vpLane []).quadOk 36 = true ∧ vp0.quadOk 36 = false
    ∧ (vpWith [(Reg.LANE_PEER_CFG, 0xF), (Reg.LANE_STAT 39, 0x500)]).bundleUp 3 = true ∧ crc8Ok (withCrc8 3) = true
    ∧ withCrc8 3 % 4 = 3 := by decide +kernel
theorem witness_Hops :
    (let v := (vpLane [(Reg.RING_CFG 15, 255), (Reg.RING_STATE 15, 1)])
     let s : State := { st v with cells := [(256 * 15 + 253, cellWith 0 [(Reg.CN_LANE_LSTAT 1, 0x400)])] }
     let blk := withCrc8 0x24
     s.vp.runs = true ∧ s.vp.calm = true ∧ v.mayTrain 15 = true ∧ 254 < v.ncell 15 ∧ v.ringSt 15 ≠ 0
       ∧ (s.cell ⟨15, 253⟩).clamped = false ∧ (s.cell ⟨15, 254⟩).clamped = false
       ∧ (s.cell ⟨15, 253⟩).takesTrain true blk = true ∧ (s.cell ⟨15, 253⟩).trainGood true blk = true
       ∧ (v.hop 15 254).broken = false)
    ∧ (let v := (vpLane [(Reg.RING_CFG 15, 255)]).updHop 15 254 (fun x => { x with started := true })
       v.mayTrain 15 = true ∧ 254 < v.ncell 15 ∧ (v.hop 15 254).started = true ∧ (v.hop 15 254).trained = false)
    ∧ (let v := vpLane [(Reg.RING_STATE 15, 1), (Reg.LANE_STAT 31, 0x400)]
       let blk := withCrc8 0x34
       v.mayTrain 15 = true ∧ v.ringSt 15 ≠ 0 ∧ v.laneEn 31 = true ∧ v.quadOk 31 = true ∧ (v.lane 31).trn = 4
         ∧ blk.testBit 2 = true ∧ crc8Ok blk = true ∧ trainOk blk true true (some (15, v.chip)) = true ∧ (v.hop 15 0).broken = false
         ∧ crc8Ok (blk + 2) = false ∧ (withCrc8 4).testBit 2 = true ∧ crc8Ok (withCrc8 4) = true
         ∧ trainOk (withCrc8 4) true true (some (15, v.chip)) = false) := by decide +kernel
theorem witness_TimeSources :
    (let v := vpWith [(Reg.TIME_STATE, 0x22), (Reg.TIME_WIN_PEER, 100)]
     v.timeSrc = 2 ∧ v.timeState = 2 ∧ ((25600 : Int)).natAbs ≤ v.win 2 ∧ v.win 2 < ((-25601 : Int)).natAbs)
    ∧ (let v := vpWith [(Reg.TIME_STATE, 0x01), (Reg.TIME_WIN_PTP, 0)]
       v.timeSrc = 0 ∧ v.timeState = 1 ∧ v.win 0 < ((1 : Int)).natAbs)
    ∧ (vpWith [(Reg.TIME_PPS_CFG, 1)]).bit Reg.TIME_PPS_CFG 0 = true
    ∧ ({ vp0 with time := { ppsHeld := some 7 } } : Vp).time.ppsHeld = some 7
    ∧ (let v : Vp := { vpWith [(Reg.TIME_STATE, 0x22), (Reg.TIME_PPS_CFG, 0x104)] with time := { ppsOut := true, ppsRise := some 9 } }
       v.bit Reg.TIME_PPS_CFG 2 = true ∧ v.timeState ≠ 0 ∧ v.time.ppsOut = true ∧ v.time.ppsRise = some 9)
    ∧ vp0.bit Reg.TIME_PPS_CFG 2 = false ∧ (vpWith [(Reg.TIME_PPS_CFG, 4)]).timeState = 0
    ∧ (vpWith [(Reg.TIME_STATE, 0x32)]).timeSrc ≠ 2
    ∧ (let v := vpWith [(Reg.TIME_STATE, 0x22)]
       let u := { v with time := { v.time with alive := sset (fun _ => false) v.time.alive 2 false
                                               run := sset (fun _ => 0) v.time.run 2 0 } }
       v.timeSrc = 2 ∧ (u.selectSrc u.bestSrc).timeSrc = 3 ∧ (u.selectSrc u.bestSrc).timeState = 2) := by decide +kernel
theorem witness_TimeMarkers :
    (let v := vpWith [(Reg.TIME_PEER_CFG, 1), (Reg.TIME_STATE, 0x40), (Reg.LANE_PEER_STAT, 8)]
     v.bit Reg.TIME_PEER_CFG 0 = true ∧ v.txOff = false ∧ v.paired = false ∧ v.ready = true
       ∧ (v.fld Reg.LANE_PEER_STAT 0 4).testBit 3 = true ∧ ∀ j, j < 3 → (v.fld Reg.LANE_PEER_STAT 0 4).testBit j = false)
    ∧ (vpWith [(Reg.TIME_PEER_CFG, 3)]).bit Reg.TIME_PEER_CFG 1 = true ∧ vp0.fld Reg.LANE_PEER_STAT 0 4 = 0
    ∧ (let c := withCrc8 (999 + 31 * 2 ^ 10 + 127 * 2 ^ 16)
       let t := 1700000000 * 32 + 31
       crc8Ok c = true ∧ c % 1024 = 999 ∧ c / 2 ^ 10 % 32 = t % 32 ∧ c.testBit 15 = false
         ∧ t * 16000000000 + 999 * 16000000 ≤ t * 16000000000 + 999 * 16000000 - 15 * 16000000000 + 15 * 16000000000)
    ∧ vp0.accepts 16 Reg.TIME_PTP_MEAS1 0x80000000 = true := by decide +kernel
theorem witness_TimeStamps :
    (let v := vpWith [(Reg.TIME_PTP_CFG, 7)]
     v.bit Reg.TIME_PTP_CFG 2 = true ∧ v.fld Reg.TIME_PTP_CFG 0 2 = 3 ∧ v.bit Reg.TIME_PTP_CFG 3 = false ∧ v.time.tsq.length < 64)
    ∧ 64 ≤ ({ vp0 with time := { tsq := List.replicate 64 [] } } : Vp).time.tsq.length
    ∧ (let v : Vp := { vpWith [(Reg.TIME_PTP_CFG, 15)] with time := { pdelay := [(65535, 7)] } }
       v.bit Reg.TIME_PTP_CFG 2 = true ∧ v.bit Reg.TIME_PTP_CFG 3 = true ∧ v.time.pdelay.lookup (65535 % 65536) = some 7)
    ∧ vpSeal.accepts 16 Reg.TIME_SET_CMD 0xA50001 = true ∧ bit 0xA50001 0 = true ∧ fld 0xA50001 16 16 = 0xA5
    ∧ (vp0.reg (Reg.TIME_SET 1)).toNat ≤ 999999999
    ∧ (vpWith [(Reg.HOST_SEAL, 1), (Reg.TIME_SET 1, 1000000000)]).accepts 16 Reg.TIME_SET_CMD 0xA50001 = true
    ∧ 999999999 < ((vpWith [(Reg.HOST_SEAL, 1), (Reg.TIME_SET 1, 1000000000)]).reg (Reg.TIME_SET 1)).toNat := by decide +kernel
theorem witness_Resets : vp0.boot.run ≠ .warmHeld ∧ warmKept Reg.LOOP_SWAP = false
    ∧ (let v : Vp := { vp0 with boot := { run := .warmHeld } }
       v.boot.run = .warmHeld ∧ v.clk.locked = true ∧ v.clk.lost = false)
    ∧ State.reset.vp.clk.locked = false ∧ State.reset.vp.boot.run = .waitRoot := by decide
theorem witness_Clocks : vp0.clk.locked = true ∧ vp0.clk.lost = false
    ∧ (let v : Vp := { vp0 with clk := { locked := true, lost := true } }
       v.clk.lost = true ∧ v.boot.run = .on)
    ∧ vp0.bit Reg.LANE_QPLL_STAT 9 = false ∧ vp0.lanes.quadsGone.testBit 9 = false
    ∧ (let v : Vp := { vpWith [(Reg.CLK_SYNC_CFG, 1)] with up := 250, clk := { locked := true, syncAt := some 0 } }
       v.bit Reg.CLK_SYNC_CFG 1 = !true ∧ v.bit Reg.CLK_SYNC_CFG 0 = true ∧ ∀ t, v.clk.syncAt = some t → t + 250 ≤ v.up)
    ∧ (vpWith [(Reg.CLK_SYNC_CFG, 2)]).bit Reg.CLK_SYNC_CFG 1 = !false
    ∧ (vpWith [(Reg.CLK_SYNC_CFG, 2)]).bit Reg.CLK_SYNC_CFG 0 = false :=
  ⟨by decide, by decide, by decide, by decide, by decide, ⟨by decide, by decide, fun _ h => by cases h; decide⟩, by decide, by decide⟩
theorem witness_PowerAndTest : vpSeal.accepts 16 Reg.SYS_PWR_CFG 0xFFFF = true
    ∧ (let v := vpWith [(Reg.SYS_PWR_STAT, 0), (Reg.SYS_PWR_CFG, 0x8000)]
       v.bit Reg.SYS_PWR_CFG 15 = true ∧ v.domOn 15 = false)
    ∧ vpSeal.sealOpen = true ∧ vp0.sealOpen = false ∧ Tap.extest ≠ .debug := by decide +kernel
/-- Words of flash as its bytes. -/
def flashOf (ws : List (Nat × Nat)) : List Host.Cell :=
  ws.flatMap (fun p => (leBytes 4 p.2).mapIdx (fun i b => (p.1 + i, BitVec.ofNat 8 b)))
/-- An image of one retire-map section without cells in slot 0, its check as `crc` gives it. -/
def imgFlash : List Host.Cell :=
  flashOf [(8, 80), (16, 1), (20, 0), (24, 1), (28, 0), (56, crc32 (5 :: List.replicate 15 0)), (64, 5), (68, 0), (72, 0), (76, 0)]
def vpImg : Vp := { vpWith [(Reg.BOOT_STAT, 0x20)] with flash := imgFlash }
theorem witness_StartEvents :
    (let v := vpWith [(Reg.BOOT_STAT, 0x10)]
     v.runs = true ∧ v.phase = 1 ∧ v.bit Reg.BOOT_TRY 0 = false)
    ∧ (let v := vpImg
       v.phase = 2 ∧ v.imageCause 0 = 0
         ∧ (let q := useSections 0 ((v.sections 0).filter (·.type != 2))
             (((useSections 0 ((v.sections 0).filter (·.type == 2)) v).1.setPhase 3).headerCfg 0)
           q.2 = true ∧ q.1.timesOk (q.1.fld Reg.TIME_SLEAD 0 12) (fun k => q.1.fld (Reg.TIME_APPLY k) 0 16) = true))
    ∧ (let v := vp0.updRing 15 (fun r => { r with enumOn := true, enumFrames := 4 })
       (v.ring 15).enumOn = true ∧ 4 ≤ (v.ring 15).enumFrames)
    ∧ (let v := vp0.setCf (256 * 15 + 255) 2 24 1 1
       v.present' (256 * 15 + 255) = true ∧ (v.ring 15).cfgDone.contains 255 = false)
    ∧ (let v : Vp := { vpWith [(Reg.BOOT_STAT, 0x60), (Reg.TIME_STATE, 0x40)] with launched := true }
       v.launched = true ∧ v.ready = true ∧ v.phase = 6 ∧ v.bit Reg.BOOT_ARMED 16 = false)
    ∧ (let v : Vp := { vpSeal with retired := 2 ^ 4095 }
       v.accepts 16 Reg.BOOT_RETCLR 0xA50FFF = true ∧ v.sealOpen = true ∧ fld 0xA50FFF 16 16 = 0xA5
         ∧ v.isRetired (fld 0xA50FFF 0 12) = true)
    ∧ (let v := vpWith [(Reg.SYS_FATAL, 0x1)]
       v.fatal = true ∧ v.bit Reg.SYS_FATAL 13 = false ∧ v.bit Reg.SYS_FATAL 14 = false ∧ v.bit Reg.SYS_FATAL 15 = false
         ∧ v.dumpHeld = false)
    ∧ (vpWith [(Reg.SYS_FATAL, 0x1F)]).fld Reg.SYS_FATAL 1 4 ≠ 0 := by decide +kernel

/-- A paired VP, and one whose pair has formed. -/
def vpPaired (l : List (Nat × Word)) : Vp := vpWith ((Reg.PEER_CFG, 1) :: l)
def vpPair (l : List (Nat × Word)) : Vp := vpWith ((Reg.PEER_CFG, 1) :: (Reg.PEER_STAT, 4) :: l)
set_option maxRecDepth 100000 in
theorem witness_PairForms :
    (let v := vpPaired []
     v.runs = true ∧ v.paired = true ∧ v.peer.failed = false ∧ v.peer.cfgdIn = false ∧ v.peer.pstIn = none
       ∧ ((v.setReg Reg.PEER_DIG_P 0).setReg Reg.PEER_DIG (w32 v.pairDigest)).bit Reg.PEER_STAT 4 = false)
    ∧ (let v := vpPaired []
       v.pairDigest = v.pairDigest % 2 ^ 32 ∧ true ≠ v.isB ∧ v.pairDigest ≠ (v.pairDigest + 1) % 2 ^ 32)
    ∧ (vpPair []).pairMode = true
    ∧ (let v := vpPaired [(Reg.TIME_STATE, 0x40)]
       v.paired = true ∧ v.ready = true ∧ v.peer.cfgdIn = false ∧ v.peer.failed = false ∧ v.bit Reg.PEER_STAT 2 = false
         ∧ v.bit Reg.PEER_STAT 4 = false)
    ∧ (let v : Vp := { vpPaired [(Reg.PEER_STAT, 0x10)] with launched := true, peer := { joining := true } }
       v.peer.failed = false ∧ v.peer.joining = true ∧ v.bit Reg.PEER_STAT 4 = true ∧ v.launched = true ∧ v.peer.joinAt = none)
    ∧ (let v : Vp := { vpPaired [(Reg.TIME_STATE, 0x40)] with peer := { joining := true } }
       let snaps : List Snap := [⟨11, 9, false, []⟩]
       let u := snaps.foldl Vp.snapTake v
       let w := ({ u with peer := { u.peer with joining := false } }).setBit Reg.PEER_STAT 1 false
       v.bit Reg.PEER_STAT 4 = false ∧ v.launched = false
         ∧ (armIds.filter v.armOn).all (fun k => snaps.any (·.arm == k)) = true ∧ w.ready = true ∧ w.fatal = false) := by
  decide +kernel
theorem witness_PairFrame :
    (let v := vpPair [(Reg.RING_EN, 0x8000), (Reg.RING_STATE 15, 2)]
     v.runs = true ∧ v.pairMode = true ∧ (15 : Nat) < 16 ∧ 256 % 256 = v.frameNo % 256 ∧ v.txOff = false ∧ v.ringUp 15 = true
       ∧ (v.ring 15).copies = [] ∧ (v.ring 15).rfhOwn = [] ∧ v.active = false)
    ∧ (let v := vpPair [(Reg.RING_EN, 0x8000), (Reg.RING_STATE 15, 2), (Reg.RING_CFG 15, 255)]
       let blk := 5 + 254 * 2 ^ 48 + 15 * 2 ^ 56
       let cell := 256 * 15 + 254
       let slot := withCrc16 (blk % 2 ^ 48) (nodeId v.chip 15 254) v.frameNo
       let h : Held := { val := slot }
       let u : Vp := { v with held := [(cell, h)] }
       blk / 2 ^ 60 % 16 = v.frameNo % 16 ∧ blk / 2 ^ 56 % 16 = 15 ∧ blk / 2 ^ 48 % 256 = 254 ∧ v.ringUp 15 = true ∧ 254 < v.ncell 15
         ∧ (v.setCf cell 8 2 1 1).holds cell = false ∧ (u.setCf cell 8 2 1 1).holds cell = true
         ∧ (sget (fun _ => {}) (u.setCf cell 8 2 1 1).held cell).val = slot
         ∧ (sget (fun _ => {}) (u.setCf cell 8 2 1 1).held cell).val ≠ slot + 1 ∧ (vpPair []).ringUp 15 = false)
    ∧ (let v : Vp := { vpPair [] with decided := true }
       v.active = false ∧ v.decided = true ∧ v.peer.rtvGot = false ∧ v.fatal = false ∧ v.armDone = 0
         ∧ armIds.any (fun k => (v.arm k).busy) = false) := by decide +kernel
theorem witness_PeerStream : let q : List PeerOut := [⟨.trip 1, [.data 1], true⟩, ⟨.fwd 2, [.data 2], false⟩, ⟨.rtv [], [.data 3, .data 4], false⟩]
    streamOrdered q ∧ (⟨.trip 1, [.data 1], false⟩ : PeerOut).begun = false ∧ peerDrain q 3 ≠ [] := by
  unfold streamOrdered; decide +kernel
theorem witness_PairDigests :
    (let v := vpPair []
     v.runs = true ∧ v.pairMode = true ∧ 256 % 256 = v.frameNo % 256
       ∧ ((armIds.filter v.armOn).all (fun k => v.peer.digIn.lookup k == v.peer.digOut.lookup k)) = true)
    ∧ (let v := (vpPair []).setResync 11 (some ⟨64, none⟩)
       let x : Snap := ⟨11, 0, true, []⟩
       v.active = false ∧ (v.resyncOf x.arm).isSome = true ∧ x.at_ % 2 ^ 32 = v.frameNo % 2 ^ 32
         ∧ v.resyncOf 11 = some ⟨64, none⟩ ∧ 64 ≤ (⟨64, none⟩ : Resync).frames) := by decide +kernel
theorem witness_Takeover :
    (let x : Pst := ⟨255, 1, false, true, false, false, true, 0, []⟩
     (vpPair []).paired = true ∧ x.active = false ∧ x.formed = false ∧ x.frame ≠ (vpPair []).frameNo % 256)
    ∧ (vpPair []).pairMode = true ∧ (vpPair []).peer.pstGot = false
    ∧ (let v : Vp := { vpPair [] with peer := { takeAt := some 1 } }
       v.peer.takeAt = some 1 ∧ 1 ≤ v.frameNo + 1) := by decide +kernel
/-- A VP whose port 3 takes frames with the roles COMMAND, PROT and MESSAGE, while frames run, its token held by that port. -/
def vpHost (l : List (Nat × Word)) : Vp :=
  { vpWith ((Reg.HOST_P_CFG 3, 15) :: l) with launched := true, host := { token := some (3, false) } }
def hdr3 : HostHdr := ⟨3, 7, 1, 0⟩
theorem witness_HostRequests :
    (let v := vpHost []
     v.runs = true ∧ v.paired = false ∧ v.portFree hdr3.port hdr3.tag = true
       ∧ 32 + 8 * [(Reg.LOOP_SP 5, 1)].length + 4 * readWords [(Reg.LOOP_SP 5, 1)] ≤ 1500
       ∧ v.readCrosses [(Reg.LOOP_SP 5, 1)] = false ∧ v.hasCmd 3 = true ∧ v.host.token = some (3, false)
       ∧ v.bit (Reg.HOST_P_CFG 3) 3 = true ∧ v.bit (Reg.HOST_P_MSG_STAT 3) 11 = false)
    ∧ ({ vpHost [] with frameOfs := (vpHost []).fpU } : Vp).readCrosses [(Reg.LOOP_SP 5, 1)] = true
    ∧ ({ vpHost [] with host := {} } : Vp).host.token = none
    ∧ (let b : Bundle := { port := 3, tag := 9, target := 2, cmd := false, items := [], cmds := [] }
       let v : Vp := { vpHost [] with host := { token := some (3, false), staged := [b] } }
       v.host.staged.find? (fun b => b.own && b.port == 3 && b.tag == 9) = some b ∧ v.frameNo + 2 ≤ b.target) := by decide +kernel
/-- What lets a bundle of port 3 be staged. -/
def staysFor (body : HBody) : Bool :=
  let u := (vpHost []).arrived 3 (hostFrame hdr3 body)
  let b := mkBundle 3 (hostFrame hdr3 body) body
  (vpHost []).portFree 3 7 && u.bundleRole 3 b && u.bundleTest b 2 == stOk
theorem witness_HostBundles : staysFor (.write 2 [⟨Reg.LOOP_SP 5, 0, [1]⟩]) = true ∧ staysFor (.command 2 [⟨1, 0xFFF, 0⟩]) = true
    ∧ staysFor (.command 3 [⟨2, 0xFFF, 0⟩]) = true ∧ staysFor (.command 2 [⟨3, 511, 0x20000000⟩]) = true
    ∧ staysFor (.command 2 [⟨4, 4095, 0xA5⟩]) = true := by decide +kernel
theorem witness_HostTripImage :
    (let v := vpHost [(Reg.HOST_SEAL, 1)]
     v.portFree 3 7 = true ∧ v.hasProt 3 = true ∧ v.hasCmd 3 = true ∧ v.host.token = some (3, false) ∧ v.sealOpen = true
       ∧ v.host.image = none ∧ v.flashOn = true ∧ 1 ≠ v.runSlot' ∧ 8388608 - 1024 + 1024 ≤ 8388608)
    ∧ (let o : ImageOp := ⟨3, 2, 1, 0, 0, []⟩
       ({ vpHost [] with host := { image := some o } } : Vp).host.image = some o ∧ o.op = 2)
    ∧ (⟨3, 1, 1, 0, 4, []⟩ : ImageOp).op = 1 := by decide +kernel
theorem witness_HostEvents :
    (let f : HFrame := ⟨7, 1, 0, .read [(Reg.LOOP_SP 5, 1)]⟩
     let v := (vpHost []).setPort 3 { (vpHost []).port 3 with serving := some f }
     v.runs = true ∧ (v.port 3).serving = some f ∧ (v.port 3).queue = [] ∧ v.readCrosses [(Reg.LOOP_SP 5, 1)] = false)
    ∧ (let v := vpHost []
       v.paired = false ∧ v.host.token = some (3, false) ∧ v.bit (Reg.HOST_P_CFG 3) 4 = false
         ∧ v.accepts 16 (Reg.HOST_P_MSG_ACK 3) 1 = true ∧ v.portOn 3 = true)
    ∧ (let v := vpWith [(Reg.HOST_P_CFG 3, 15), (Reg.HOST_P_STAT 3, 4)]
       v.accepts 16 (Reg.HOST_P_MSG_SEND 3) 1024 = true ∧ v.bit (Reg.HOST_P_STAT 3) 2 = true)
    ∧ (let v : Vp := { vpHost [] with evq := [(3, [⟨1, 0, 0, 0, 0, 0⟩])] }
       (sget (fun _ => []) v.evq 3).isEmpty = false ∧ sget (fun _ => 0) v.evLost 3 = 0)
    ∧ (let f : HFrame := ⟨7, 1, 0, .write 2 []⟩
       let b : Bundle := { port := 3, tag := 7, target := 2, cmd := false, items := [], cmds := [], waiting := true }
       let w : Vp := { vpHost [] with host := { token := some (3, false), staged := [b] } }
       let v := w.setPort 3 { w.port 3 with serving := some f }
       v.waitingBundle 3 7 = some b ∧ (v.port 3).serving = some f ∧ f.tag = 7
         ∧ (let u : Vp := { v with host := { v.host with staged := v.host.staged.filter (· != b) } }
            let u := ((u.hostxSend (.withdraw 3 7)).timeDrop b).setBit Reg.HOST_STICKY 2 true
            (((u.hostInt 6).raise 11 3 3 cor (Reg.HOST_P_STAT 3)).port 3).serving = some f))
    ∧ (vpPair []).pairMode = true := by decide +kernel
theorem witness_SealEvents :
    (let v := vpWith [(Reg.HOST_SEAL, 2)]
     v.sealOpen = false ∧ v.bit Reg.HOST_SEAL 1 = true ∧ v.bit Reg.HOST_SEAL 2 = false ∧ v.bit Reg.HOST_SEAL 4 = false)
    ∧ (vpWith [(Reg.HOST_SEAL, 0x12)]).bit Reg.HOST_SEAL 4 = true ∧ (vpWith [(Reg.HOST_SEAL, 0x12)]).sealOpen = false
    ∧ (vpWith [(Reg.HOST_SEAL, 3)]).sealOpen = true ∧ (vpWith [(Reg.HOST_SEAL, 3)]).bit Reg.HOST_SEAL 1 = true
    ∧ (let v := vpWith [(Reg.HOST_SEAL, 7)]
       let u := ((v.setBit Reg.HOST_SEAL 0 false).sealChanged 5).releaseFreeze
       v.sealOpen = true ∧ v.sealPins = false ∧ ({ u with clk := { u.clk with tap := u.clk.tap.sealed } } : Vp).sealOpen = false) := by
  decide +kernel
theorem witness_AdcResults :
    (let v := vpWith [(Reg.ADC_CH_EN, 0x8000)]
     let f : FrameCodes := ⟨15, [(5, false), (6, false)], 0⟩
     v.chOn 15 = true ∧ v.bit Reg.ADC_RES_NEW 15 = false ∧ v.frameOf 15 = none
       ∧ ({ v with adc := { v.adc with frame := [f] } } : Vp).frameOf 15 = some f
       ∧ ({ v with adc := { v.adc with frame := [f] } } : Vp).frameOver f = false)
    ∧ vp0.accepts 16 Reg.ADC_INJ_REQ 0xFFFF = true
    ∧ (vpWith [(Reg.ADC_INJ_PEND, 0x8000)]).bit Reg.ADC_INJ_PEND 15 = true
    ∧ (let v := vpWith [(Reg.ADC_MODE, 0xF1)]
       v.lp = true ∧ v.calAllRun = false ∧ v.frameNo % max 1 (v.fld Reg.ADC_MODE 4 4) = 0)
    ∧ (let v := vpWith [(Reg.ADC_CH_EN, 0x8000)]
       v.chServed 15 = true ∧ v.calAllRun = false) := by decide +kernel
theorem witness_AdcEvents :
    (let v := vpWith [(Reg.HOST_SEAL, 1), (Reg.ADC_MODE, 0)]
     v.accepts 16 Reg.ADC_CAL_CMD 1 = true ∧ v.sealOpen = true ∧ armIds.any v.armRuns = false ∧ bit 1 0 = true ∧ v.nextAll 0 = some 0
       ∧ ({ v with adc := { v.adc with removed := 0x3FFFF } } : Vp).nextAll 0 = none
       ∧ v.accepts 16 Reg.ADC_CAL_CMD 0x1102 = true ∧ bit 0x1102 0 = false ∧ bit 0x1102 1 = true ∧ v.bit Reg.ADC_MODE 1 = false
       ∧ v.adc.kind = .none ∧ fld 0x1102 8 5 = 17 ∧ v.sliceGone 17 = false ∧ v.moonCh 1 = 31 ∧ v.viaMoon 17 = false ∧ v.lp = false
       ∧ v.canReady 17 = true ∧ v.accepts 16 Reg.ADC_CAL_CMD 0x1202 = true ∧ 18 ≤ fld 0x1202 8 5)
    ∧ (let v := vpWith [(Reg.HOST_SEAL, 1), (Reg.ADC_MODE, 0), (Reg.ADC_CH_EN, 0x8000)]
       v.accepts 16 Reg.ADC_CAL_CMD 0xF02 = true ∧ fld 0xF02 8 5 = 15 ∧ v.canReady 15 = true ∧ v.viaMoon 15 = true
         ∧ v.adc.onMoon.testBit 15 = false)
    ∧ (vpWith [(Reg.HOST_SEAL, 1), (Reg.ADC_MODE, 1)]).lp = true
    ∧ (let v : Vp := { vp0 with adc := { busy := true, kind := .one, slice := 17 } }
       v.adc.busy = true ∧ (v.takeFactors v.adc.slice 0 32768).adc.kind = .one)
    ∧ (let v : Vp := { vp0 with adc := { busy := true, kind := .rot, slice := 3 } }
       v.adc.busy = true ∧ (v.takeFactors v.adc.slice 0 32768).adc.kind = .rot)
    ∧ (let v : Vp := { vp0 with adc := { busy := true, kind := .all, slice := 16 } }
       let u := v.takeFactors v.adc.slice 0 32768
       u.adc.kind = .all ∧ u.nextAll (v.adc.slice + 1) = some 17)
    ∧ (let v : Vp := { vpWith [(Reg.ADC_MODE, 2), (Reg.ADC_CH_EN, 0x8000)] with adcDone := true, adc := { again := [15, 31] } }
       v.bit Reg.ADC_MODE 1 = true ∧ v.lp = false ∧ v.adcDone = true ∧ v.adc.next = none ∧ v.adc.kind = .none
         ∧ v.adc.again.filter (· != v.adc.slice) = 15 :: [] ∧ v.canReady 15 = true ∧ v.viaMoon 15 = true
         ∧ v.adc.onMoon.testBit 15 = false)
    ∧ (let v : Vp := { vpWith [(Reg.ADC_MODE, 2)] with adcDone := true, adc := { again := [15] } }
       v.adc.again.filter (· != v.adc.slice) = 15 :: [] ∧ v.canReady 15 = true ∧ v.viaMoon 15 = false)
    ∧ (let on := fun (h : Handover) => ({ vpWith [(Reg.ADC_ROT_CFG, 0x10000)] with adc := { ho := [(1, h)] } } : Vp)
       let h : Handover := ⟨15, 2, false⟩
       let pairs : List (Int × Int) := List.replicate 256 (0, 0)
       let apart : List (Int × Int) := List.replicate 256 (0, 100)
       (on ⟨15, 1, false⟩).hoOf 1 = some ⟨15, 1, false⟩ ∧ (on h).hoOf 1 = some h ∧ pairs.length = 256 ∧ apart.length = 256
         ∧ ((on h).compareSum h pairs).natAbs ≤ 256 * (on h).fld Reg.ADC_ROT_CFG 16 8
         ∧ 256 * (on h).fld Reg.ADC_ROT_CFG 16 8 < ((on h).compareSum h apart).natAbs
         ∧ (on ⟨15, 3, true⟩).hoOf 1 = some ⟨15, 3, true⟩) := by decide +kernel
theorem witness_StreamLines :
    (let v := vpWith [(Reg.ADC_CH_EN, 0x8000), (Reg.ADC_CH_CFG 15, 2)]
     v.chServed 15 = true ∧ v.bit (Reg.ADC_CH_CFG 15) 1 = true ∧ v.calAllRun = false ∧ v.bit (Reg.ADC_STR_CFG 15) 4 = false)
    ∧ (let v := vpWith [(Reg.ADC_CH_EN, 0x8000), (Reg.ADC_CH_CFG 15, 2), (Reg.ADC_STR_CFG 15, 0x10), (Reg.ADC_STR_RP 15, 64)]
       v.bit (Reg.ADC_STR_CFG 15) 4 = true
         ∧ (v.fld (Reg.ADC_STR_WP 15) 0 20 + 64) % v.strSize 15 = v.fld (Reg.ADC_STR_RP 15) 0 20)
    ∧ (vpWith [(Reg.ADC_STR_CFG 15, 0x10)]).fld (Reg.ADC_STR_RP 15) 0 20 ≠ 64
    ∧ (let xs : List RawConv := [⟨1, false, false, 0, 0, false⟩]
       1 ≤ xs.length ∧ xs.length ≤ 28) := by decide +kernel
/-- A record of one segment. -/
def rec1 : AcqRec :=
  { seg := 1023, seq := 0, head := 8, tail := 8, mask := 1, measCh := 31, base := 0, hv := 8, hwrap := 0, trigSrc := 0, lateSrc := 0,
    retrig := 0, ts := 5, falling := false, uofs := [], frame := 0, ofs := 0, tstate := 0, align := false, clamp := false, short := false }
theorem witness_AcqEvents :
    (let v : Vp := { vpWith [(Reg.ACQ_CFG, 1), (Reg.ACQ_TU_CFG 15, 0xF01), (Reg.ACQ_P_CFG 15, 1)] with launched := true }
     let raw : List (Nat × List RawConv) := [(0, [⟨0, false, false, 0, 0, false⟩, ⟨0, false, false, 0, 0, false⟩])]
     let x := fun i => v.smp (v.rawSmps raw) 0 24 (v.tuSrc 15) i
     let q := v.compare 15 (some (x 0)) (x 1)
     let t := q.1.taiAgo 28 - q.1.chDly (v.tuSrc 15)
     let r := q.1.crossings 15 0 28 (q.2.map (fun c => (c, q.1.crossTime c t)))
     v.runs = true ∧ v.groupOf 15 = [15] ∧ raw.foldl (fun n l => max n l.2.length) 0 = 1 + 1 ∧ ∀ d, d < 8 → r.dcOp d = 0)
    ∧ (vpWith [(Reg.ACQ_P_STAT 15, 1)]).poolSt 15 = 1 ∧ 3 ≤ (vpWith [(Reg.ACQ_P_STAT 15, 3)]).poolSt 15
    ∧ vp0.acq.cur.lookup 15 = none
    ∧ (let v : Vp := { vp0 with acq := { cur := [(15, rec1)] } }
       let raw : List (Nat × List RawConv) := [(0, List.replicate 17 ⟨0, false, false, 0, 0, false⟩)]
       v.acq.cur.lookup 15 = some rec1 ∧ rec1.hv + rec1.tail + 1 ≤ raw.foldl (fun n l => max n l.2.length) 0 ∧ 1 ≤ rec1.tail
         ∧ v.acq.queue.length < 16) := by decide +kernel
theorem witness_AcqRecords :
    (let on := fun (loc flags : Nat) => ({ vpWith [(Reg.ACQ_CFG, 1), (Reg.ACQ_LOC_CFG, w32 loc)] with
       acq := { queue := [(15, { rec1 with flags := flags })] } } : Vp)
     let loc := fun (v : Vp) => v.bit Reg.ACQ_LOC_CFG 0 && v.bit Reg.ACQ_CFG 0 && v.fld Reg.ACQ_LOC_CFG 2 4 == 15
     (on 0 0).acq.queue = [(15, { rec1 with flags := 0 })] ∧ loc (on 0 0) = false ∧ loc (on 0x3D 0) = true
       ∧ rec1.mask.testBit ((on 0x3D 0).fld Reg.ACQ_LOC_CFG 6 5) = true ∧ loc (on 0x7D 0) = true
       ∧ rec1.mask.testBit ((on 0x7D 0).fld Reg.ACQ_LOC_CFG 6 5) = false ∧ (1 : Nat) &&& 0x1C80 = 0 ∧ (0x81 : Nat) &&& 0x1C80 ≠ 0)
    ∧ (let v : Vp := { vpWith [(Reg.ACQ_P_CFG 15, 2), (Reg.ACQ_P_SEG 15, 0x103FF)] with acq := { complete := [1023] } }
       v.accepts 16 (Reg.ACQ_P_FREE 15) 1023 = true)
    ∧ vp0.masterActs 16 = true ∧ vp0.domOn (accessDom 16 (Reg.ACQ_P_FREE 15)) = true ∧ vp0.freeRefused 15 0 = true
    ∧ ({ vp0 with acq := { loc := [rec1] } } : Vp).acq.loc = [rec1]
    ∧ (let v := vpWith [(Reg.ACQ_CFG, 1), (Reg.ACQ_LOC_CFG, 2), (Reg.ACQ_LOC_REM 1, 1000000000)]
       v.accepts 16 (Reg.ACQ_LOC_REM 3) 0 = true ∧ v.bit Reg.ACQ_LOC_CFG 1 = true ∧ v.bit Reg.ACQ_CFG 0 = true
         ∧ 999999999 < (((v.wideTake (Reg.ACQ_LOC_REM 3)).setReg (Reg.ACQ_LOC_REM 3) 0).reg (Reg.ACQ_LOC_REM 1)).toNat) := by
  decide +kernel
theorem witness_GridEvents : vpRun.launched = true
    ∧ (let v := vpWith [(Reg.GRID_TLI_CFG 7, 1)]
       let w := 5 * 2 ^ 32 + tliCrc (5 * 2 ^ 32) * 2 ^ 48
       v.tliOn 7 = true ∧ w / 2 ^ 48 % 65536 = tliCrc w ∧ (w + 2 ^ 48) / 2 ^ 48 % 65536 ≠ tliCrc (w + 2 ^ 48)
         ∧ (v.tliRepeat 7 w).bit (Reg.GRID_TLI_CFG 7) 5 = false ∧ (v.tliRepeat 7 w).grid.lastSeq.lookup 7 = none ∧ w.testBit 44 = false)
    ∧ (vpWith [(Reg.GRID_TR_STAT 3, 1)]).fld (Reg.GRID_TR_STAT 3) 0 2 = 1 ∧ (vpWith [(Reg.GRID_TR_STAT 3, 2)]).fld (Reg.GRID_TR_STAT 3) 0 2 = 2
    ∧ vp0.isRemoved 10 3 = false ∧ vp0.fld (Reg.GRID_TR_STAT 3) 0 2 = 0
    ∧ (vpWith [(Reg.GRID_TLI_META 7, 0)]).bit (Reg.GRID_TLI_META 7) 13 = false
    ∧ (let v := (vpWith [(Reg.GRID_TR_CFG 3, 9)]).setTr 3 { sets := [⟨0, 0, 0, 0, 0, 0, 0, 0⟩] }
       v.bit (Reg.GRID_TR_CFG 3) 0 = true ∧ v.bit (Reg.GRID_TR_CFG 3) 3 = true ∧ v.isRemoved 10 3 = false
         ∧ 0 < fsOf (v.bit (Reg.GRID_TR_CFG 3) 1) (v.fld (Reg.GRID_TR_CFG 3) 20 3)
         ∧ setAt (v.tr 3).sets (0 * secUnit : Nat) = some ⟨0, 0, 0, 0, 0, 0, 0, 0⟩ ∧ v.grid.pq.length < 32) := by decide +kernel
/-- A configured cell that keeps time, in a state of R78, both receivers locked. -/
def cellUp (x : Nat) (l : List (Nat × Word)) : Cell :=
  { cellWith x ((Reg.CN_LANE_LSTAT 0, 0x507) :: (Reg.CN_LANE_LSTAT 1, 0x507) :: (Reg.CN_SYS_CFG_STAT, 1) :: l) with isSet := true, t := 5 }
theorem witness_CellSampleInstant : let c := cellUp 3 [(Reg.CN_PROT_FRZ, 0x10001)]
    c.clamped = false ∧ c.configured = true ∧ c.isSet = true := by decide +kernel
theorem witness_CellReportAssembled : let c : Cell := { cellUp 2 [] with latches := [⟨4, 512, 9⟩] }
    c.clamped = false ∧ c.configured = true ∧ c.isSet = true ∧ c.latches = [⟨4, 512, 9⟩] ∧ c.report.map (·.1) ≠ some 4 := by
  decide +kernel
theorem witness_CellApplyInstant : let c := cellUp 3 [(Reg.CN_SW_OVR, 3)]
    c.clamped = false ∧ c.configured = true ∧ c.isSet = true := by decide +kernel
theorem witness_CellTakesThreshold :
    let c := cellUp 2 [(Reg.CN_LANE_POS, 255), (Reg.CN_SYS_NODE, 0xFF)]
    let r : CnRec := ⟨5, 1, true, false, false, 0, 0, 0, 0, 2 ^ 255, 0⟩
    c.fld Reg.CN_SW_OVR 0 2 = 0 ∧ c.ackedBy r = true ∧ c.grantedBy r = false
      ∧ ¬ (w2TrimV r.w2 = true ∧ w2Idx r.w2 = c.idx) ∧ w0Mode r.w0 ≠ modeAll := by decide +kernel
theorem witness_CellSwitching :
    (let c : Cell := { cellUp 2 [] with al := { hi := true, pend := some (16, false) } }
     earliest c.dueTimes = some 16 ∧ (c.clkTo 16).dueTodo 16 = none)
    ∧ (let c : Cell := { cellUp 2 [] with todo := [(9, .back)], al := { hi := true, pend := some (16, false) } }
       earliest c.dueTimes = some 9 ∧ (c.clkTo 9).dueTodo 9 = some (9, .back))
    ∧ (let p : Pwm := ⟨3, 65535, 100, false⟩
       let c : Cell := { cellUp 2 [] with pwm := some p }
       c.pwm = some p ∧ p.isLocal = false)
    ∧ (⟨3, 65535, 100, true⟩ : Pwm).isLocal = true
    ∧ (((cellUp 2 []).setGst 1).timerRuns = true)
    ∧ (let c : Cell := { cellUp 2 [] with half0 := true, half1 := true }
       c.half0 = true ∧ c.commitRefused = false)
    ∧ (let c : Cell := { cellUp 2 [(Reg.CN_SW_PWM_STG0, 3)] with half0 := true }
       c.half0 = true ∧ c.commitRefused = true) := by decide +kernel
theorem witness_CarrierPulse : (65535 : Nat) ≠ 0 := by decide
/-- A train of frame `f` for ring 0 with EMPTY blocks only, its checks good. -/
def trainIn (f : Nat) : CnTrain :=
  let bs := f :: 0 :: 256 :: List.replicate 10 0
  { rx := 0, sot := withCrc8 0x140, blocks := bs ++ [trainCrc bs], slot := 0xFF00, data := false, errs := 0, urgent := false, k := f, ofs := 7,
    turn := 0 }
theorem witness_CellTrainReceived :
    let x := trainIn 5
    let c0 := cellUp 2 []
    let c := c0.passTo (x.k * c0.fpU + x.ofs * edgeU)
    let d := (if x.frame = 5 then c.heard (x.rx % 2) else c).stamp x 5 7
    c0.clamped = false ∧ (c0.lane (x.rx % 2)).good = true ∧ x.sotOk = true ∧ x.crcOk = true ∧ x.errs = 0 ∧ x.emptyOk = true
      ∧ c0.configured = true ∧ c0.isSet = true ∧ c.window x = some (5, 7) ∧ d.isSet = true ∧ d.configured = true := by decide +kernel
theorem witness_CellUrgentBlock : let c := cellUp 2 []
    c.clamped = false ∧ (c.lane 1).good = true ∧ crc8Ok (withCrc8 0x5A5A5A5A0000) = true ∧ urgentOk (withCrc8 0x5A5A5A5A0000) = true := by
  decide +kernel
theorem witness_CellBridges : (cellUp 2 []).clamped = false ∧ ((cellUp 2 []).lane (rxOf true)).good = true
    ∧ ({ cellUp 2 [] with trained := 2 } : Cell).trained.testBit (b2n true) = true := by decide +kernel
theorem witness_CellTime :
    (let c0 : Cell := { cellUp 2 [] with stamps := [⟨0, 5, 7, 5, 0, 256, 0⟩] }
     let g := c0.stamps
     let c := ({ c0 with stamps := [] }.showStamps g).noteN g
     c0.bit Reg.CN_SYS_CFG_STAT 0 = true ∧ c.isSet = true ∧ (c.renumber (g.filter (fun x => x.frame != x.k))).isNone = true
       ∧ (c.theta (g.filter (fun x => x.frame == x.k))).isSome = true)
    ∧ (let c0 := cellUp 2 []
       let g := c0.stamps
       let c := ({ c0 with stamps := [] }.showStamps g).noteN g
       c.isSet = true ∧ (c.renumber (g.filter (fun x => x.frame != x.k))).isNone = true
         ∧ (c.theta (g.filter (fun x => x.frame == x.k))).isNone = true)
    ∧ (let c0 : Cell := { cellUp 1 [] with isSet := false, stamps := [⟨1, 5, 7, 5, 0, 256, 0⟩] }
       let g := c0.stamps
       let c := ({ c0 with stamps := [] }.showStamps g).noteN g
       c0.bit Reg.CN_SYS_CFG_STAT 0 = true ∧ c.isSet = false ∧ (c.setter g).isSome = true)
    ∧ (let c0 : Cell := { cellUp 2 [(Reg.CN_TIME_WIN, 65535)] with stamps := [⟨0, 5, 7, 9, 0, 256, 0⟩] }
       let g := c0.stamps
       let c := ({ c0 with stamps := [] }.showStamps g).noteN g
       c0.bit Reg.CN_SYS_CFG_STAT 0 = true ∧ c.isSet = true
         ∧ (c.renumber (g.filter (fun x => x.frame != x.k))).map (fun q => (q.1, q.2.1)) = some (5, 9)) := by decide +kernel
theorem witness_CellBoundaries :
    (let c := cellUp 2 [(Reg.CN_SW_OVR_AT, 7)]
     c.isSet = true ∧ c.reg Reg.CN_SW_OVR_AT ≠ 0 ∧ ({ c with pendOvr := some 2 } : Cell).pendOvr = some 2
       ∧ ({ c with pendOvr := some 2 }.toBoundary Reg.CN_SW_OVR_AT).pendOvr = some 2)
    ∧ (let c := cellUp 2 [(Reg.CN_LANE_CLOSE_AT, 7), (Reg.CN_LANE_CLOSE_CTL, 2)]
       c.reg Reg.CN_LANE_CLOSE_AT ≠ 0 ∧ c.fld Reg.CN_LANE_CLOSE_CTL 0 2 ≠ 0
         ∧ (cellUp 2 [(Reg.CN_LANE_CLOSE_AT, 7)]).fld Reg.CN_LANE_CLOSE_CTL 0 2 = 0)
    ∧ (let c : Cell := { cellUp 2 [(Reg.CN_TIME_CHG_AT, 7)] with pendLead := some 4000, pendApply := some 65535 }
       c.reg Reg.CN_TIME_CHG_AT ≠ 0 ∧ (c.toBoundary Reg.CN_TIME_CHG_AT).pendLead = some 4000
         ∧ (c.toBoundary Reg.CN_TIME_CHG_AT).pendApply = some 65535) := by decide +kernel
/-- A packet that addresses position 0, with its checks good. -/
def pktIn (opc addr : Nat) (blocks : List Nat) : CnPkt :=
  { rx := 0, mgs := withCrc8 (opc * 2 ^ 9 + 2 ^ 13 + addr * 2 ^ 16 + 7 * 2 ^ 40), blocks := blocks, dcrc := crc32Words (blockWords blocks), mge := 0 }
/-- The checks that a packet of each kind passes at a cell. -/
def pktGood (c : Cell) (p : CnPkt) : Bool :=
  !c.clamped && (c.lane (p.rx % 2)).good && crc8Ok p.mgs && c.addressed p && p.dcrcOk && !c.repeated p && !c.opcRefused p
theorem witness_CellPackets :
    (let c := cellUp 1 [(Reg.CN_LANE_POS, 0)]
     pktGood c (pktIn 0 Reg.CN_SYS_STATE [0]) = true ∧ (pktIn 0 Reg.CN_SYS_STATE [0]).opc = 0
       ∧ (pktIn 0 Reg.CN_SYS_STATE [0]).addrs.all cnInMap = true
       ∧ pktGood c (pktIn 1 Reg.CN_SW_REFRESH [1000]) = true
       ∧ (pktIn 1 Reg.CN_SW_REFRESH [1000]).addrs.all cnInMap = true
       ∧ (pktIn 1 Reg.CN_SW_REFRESH [1000]).writes.any (c.wordRefused (pktIn 1 Reg.CN_SW_REFRESH [1000]).writes false) = false
       ∧ pktGood c (pktIn 4 0 [0xA5]) = true ∧ (pktIn 4 0 [0xA5]).addrs.all cnInMap = true
       ∧ (pktIn 4 0 [0xA5]).blocks.getD 0 0 % 2 ^ 32 = 0xA5)
    ∧ (let c : Cell := { cellUp 0 [(Reg.CN_SYS_CFG_STAT, 0)] with hopDn := some 0 }
       pktGood c (pktIn 2 Reg.CN_SW_REFRESH [1000]) = true ∧ (c.configIn (pktIn 2 Reg.CN_SW_REFRESH [1000])).1 = 1
         ∧ pktGood c (pktIn 3 0 [(c.reg Reg.CN_SYS_CFG_CRC).toNat]) = true) := by decide +kernel
theorem witness_CellPacketsTurnedAway :
    (let c := cellUp 1 [(Reg.CN_LANE_POS, 0)]
     let p := pktIn 1 Reg.CN_PROT_FRZ [1]
     c.clamped = false ∧ (c.lane (p.rx % 2)).good = true ∧ crc8Ok p.mgs = true
       ∧ crc8Ok (pktIn 7 0 []).mgs = true ∧ c.addressed (pktIn 7 0 []) = true ∧ 5 ≤ (pktIn 7 0 []).opc ∧ (pktIn 7 0 []).dcrcOk = true
       ∧ c.addressed p = true ∧ p.opc = 1 ∧ p.dcrcOk = true ∧ ({ p with dcrc := 1 } : CnPkt).dcrcOk = false
       ∧ ({ c with tag0 := some 7 } : Cell).repeated p = true ∧ c.repeated p = false ∧ c.configured = true
       ∧ p.addrs.all cnInMap = true ∧ p.writes.any (c.wordRefused p.writes false) = true
       ∧ (pktIn 1 0x3FFE [1]).addrs.any (fun a => !cnInMap a) = true
       ∧ (pktIn 4 0 [1]).addrs.all cnInMap = true ∧ (pktIn 4 0 [1]).blocks.getD 0 0 % 2 ^ 32 ≠ 0xA5)
    ∧ (let c : Cell := { cellUp 0 [(Reg.CN_SYS_CFG_STAT, 0)] with hopDn := some 0 }
       let p := pktIn 3 0 [1]
       c.configured = false ∧ c.repeated p = false ∧ c.addressed p = true ∧ p.dcrcOk = true
         ∧ p.blocks.getD 0 0 % 2 ^ 32 ≠ (c.reg Reg.CN_SYS_CFG_CRC).toNat)
    ∧ (cellUp 1 [(Reg.CN_LANE_POS, 255)]).addressed (pktIn 1 Reg.CN_SW_REFRESH [1000]) = false := by decide +kernel
theorem witness_CellHousekeeping : (cellUp 2 [(Reg.CN_SYS_PWR, 1)]).bit Reg.CN_SYS_PWR 0 = true
    ∧ (cellUp 2 [(Reg.CN_HK_STAT, 1)]).bit Reg.CN_HK_STAT 0 = true ∧ (0x4000 ≤ 0x7FFF ∧ 0x7FFF < 0x8000)
    ∧ (0x400 ≤ 0x17FF ∧ 0x17FF < 0x1800) := by decide +kernel
theorem witness_CellCalibration : ({ cellUp 0 [] with calib := true } : Cell).calib = true ∧ (cellUp 0 []).st = stUnconf
    ∧ (cellUp 1 []).st = stBlocked ∧ (cellUp 1 []).recal = 0 ∧ ({ cellUp 1 [] with recal := 2 } : Cell).recal = 2
    ∧ (cellUp 3 []).guarded = true ∧ ({ cellUp 1 [] with rewritten := true } : Cell).rewritten = true
    ∧ ((cellUp 4 []).setReg Reg.CN_ADC_CAP (w32 (clamp14 16383))).guarded = false
    ∧ (let c := (cellUp 3 [(Reg.CN_PROT_OV, 100), (Reg.CN_PROT_CFG0, 0x30000000)]).setReg Reg.CN_ADC_CAP (w32 (clamp14 100))
       let y := c.warning 0 3 (decide (c.fld Reg.CN_PROT_OV 16 14 < clamp14 100)) (decide (clamp14 100 < c.fld Reg.CN_PROT_OV 16 14))
       c.guarded = true ∧ clamp14 100 ≤ y.fld Reg.CN_PROT_OV 0 14 ∧ 0 < y.fld Reg.CN_PROT_CFG0 28 2
         ∧ y.fld Reg.CN_PROT_OV 0 14 < clamp14 101) := by decide +kernel
theorem witness_CellRetires :
    (cellUp 3 []).guarded = true ∧ (cellUp 3 []).isSet = true
    ∧ (let x := (List.replicate 2 16383).foldl Cell.capConv (cellUp 1 [(Reg.CN_PROT_OV, 100), (Reg.CN_PROT_CFG0, 0x30000000)])
       x.guarded = true ∧ x.fld Reg.CN_PROT_OV 0 14 < clamp14 101 ∧ x.fld Reg.CN_PROT_CFG0 28 2 ≤ x.ovRun + 1)
    ∧ (cellUp 4 []).st = stRetired ∧ (cellUp 4 []).fast = false
    ∧ ({ cellUp 4 [] with fast := true } : Cell).mech = false := by decide +kernel
theorem witness_RetiredCell : (cellWith 3 []).safe = true ∧ (7 : Nat) < 8 := by decide
theorem witness_ProtectiveTurnOff : (cellWith 3 []).safe = true ∧ (cellWith 3 []).guarded = true ∧ (cellWith 3 []).st = stFrozen
    ∧ (7 : Nat) ≤ 7 := by decide
theorem witness_CellFreezes : let c := cellUp 2 [(Reg.CN_ADC_CODE, 5)]
    let f := cellUp 3 [(Reg.CN_ADC_CODE, 5)]
    c.st = stActive ∧ bit 0x60001 0 = true ∧ c.code < fld 0x60001 16 10 ∧ f.st = stFrozen ∧ f.code < fld 0x60001 16 10
      ∧ ¬ ((f.st = stActive ∨ f.st = stBlocked ∨ f.st = stFrozen) ∧ f.code < fld 0x50001 16 10)
      ∧ (cellUp 4 []).st = stRetired := by decide +kernel
theorem witness_CellBlockCauses : (cellUp 3 []).guarded = true
    ∧ (let raws : List Int := List.replicate 64 16383
       let y := (divAny 57 ((raws.drop 32).foldl (fun s r => s + (clamp14 r : Int)) 0) 32).toNat
       let c : Cell := { (cellUp 2 [(Reg.CN_PROT_TEMP, 0)]).setReg (Reg.CN_ADC_AUX 0) (w32 y) with auxNext := 1 }
       (cellUp 2 []).calib = false ∧ (cellUp 2 []).recal = 0 ∧ (cellUp 2 []).auxNext = 0 ∧ raws.length = 64 ∧ raws.any over14 = false
         ∧ c.guarded = true ∧ c.fld Reg.CN_PROT_TEMP 16 14 < y ∧ c.fld Reg.CN_PROT_TEMP 0 14 < y) := by decide +kernel
theorem witness_CellResets : State.reset.safe = true ∧ ({} : Cell).clamped = false ∧ ({ clamped := true } : Cell).clamped = true
    ∧ (let y : Cell := { cellUp 2 [] with clamped := true }
       y.configured = true ∧ y.tap ≠ .extest ∧ y.bit Reg.CN_SW_CFG 2 = false) ∧ Tap.extest ≠ .extestPulse := by decide +kernel

/-! ### Single steps -/

/-- A reset part that has nothing to do stays safe while its clock ticks (log entry 1). -/
theorem test_step_idle : (match step State.reset with
    | .next t => t.safe && t.pending.isEmpty
    | _ => false) = true := by decide
/-- A recognised trip drives `TRIP_OUT_N` low (R142). -/
theorem test_step_trip : (next (.tripInputActive 0) (st (vpWith [(Reg.RING_TRIP_EN, 1)]))).vp.trip.out = true := by decide +kernel
/-- An input that RING_TRIP_EN does not name trips nothing (R415). -/
theorem test_step_trip_off : (next (.tripInputActive 0) (st (vpWith [(Reg.RING_TRIP_EN, 2)]))).vp.trip.out = false := by decide +kernel
/-- A read of a lock answers what it was and takes it (R278). -/
theorem test_step_lock : let t := next (.schedLockRead 3 63) (st vp0)
    t.vp.lastRead = 0 ∧ (next (.schedLockRead 4 63) t).vp.lastRead = 1
      ∧ (next (.schedLockRead 4 63) (next (.schedLockWrite 3 63) t)).vp.lastRead = 0 := by decide +kernel
/-- A desaturation in leg B retires an active cell with cause 2 (R100, R102). -/
theorem test_step_desat : let c := (next (.desatTrip k0 true false) (cellSt (cellWith stActive []))).cell k0
    c.st = stRetired ∧ c.fld Reg.CN_SYS_STATE 17 3 = 2 ∧ c.stageOff = true := by decide +kernel
/-- A freeze below its safe code is taken, one at it is refused (R107). -/
theorem test_step_freeze : let s := cellSt (cellWith stBlocked [(Reg.CN_ADC_CODE, 5)])
    ((next (.cnFreeze k0 0x60001) s).cell k0).st = stFrozen ∧ ((next (.cnFreeze k0 0x50001) s).cell k0).st = stBlocked
      ∧ ((next (.cnFreeze k0 0x50001) s).cell k0).bit Reg.CN_PROT_STAT 11 = true := by decide +kernel
/-- A reset leads a retired cell into Unconfigured (R474). -/
theorem test_step_reset : ((next (.cnPowerOnReset k0 false) (cellSt (cellWith stRetired []))).cell k0).st = stUnconf := by
  decide +kernel
/-- A frame of the right key trips, one of a wrong key is answered KEY (R381). -/
theorem test_step_host_trip : (next (.trip hdr3 0xA5) (st (vpHost []))).vp.trip.host = true
    ∧ (next (.trip hdr3 0x5A) (st (vpHost []))).vp.trip.host = false
    ∧ (((next (.trip hdr3 0x5A) (st (vpHost []))).vp.port 3).sent.map (·.status)) = some stKey := by decide +kernel
/-- The token goes to the port that asks for it (R368). -/
theorem test_step_token : (next (.tokenRequest hdr3) (st { vpHost [] with host := {} })).vp.host.token = some (3, false) := by
  decide +kernel
/-- A core's write to an unaligned register address is a bus error: an uncorrected SYS fault against it (R38, R396). -/
theorem test_step_bus_error : (next (.registerWrite (.vp 2) 0x10000002 0 false) (st vp0)).vp.pending 0 2 unc = true := by decide +kernel
/-- A second pending fault of a class raises the next class (R405). -/
theorem test_step_escalates : let s := next (.registerWrite (.vp 2) 0x10000002 0 false) (st vp0)
    (next (.registerWrite (.vp 2) 0x10000002 0 false) s).vp.pending 0 2 fat = true := by decide +kernel
/-- The mailbox raises the housekeeping core's interrupt (R116). -/
theorem test_step_mailbox : ((next (.mboxInWrite k0 9) (cellSt {})).cell k0).hkIrq = true := by decide +kernel

end Sys2Proof.Tests
end

section
/-!
PROOFS. The hash of a cell (R53) and that the hashes of the cells of one chip index are distinct (R54).

The three operations of R53 lose nothing of a node identifier's low 16 bits: the exclusive or with the seed, the product with
an odd number and the fold of x with x >> 7 can each be undone. Cells of one chip index differ in those bits (R12).
-/

namespace Sys2Proof.Proofs

open Sys2Proof Sys2Proof.Machine

/-! ### The hash bit for bit -/

theorem hashSeed_eq_toNat (frame : Nat) :
    hashSeed frame = (BitVec.ofNat 18 frame ^^^ BitVec.ofNat 18 (frame / 2 ^ 18)).toNat := by
  simp only [hashSeed, BitVec.toNat_xor, BitVec.toNat_ofNat]

/-- R53 on machine words: the seed and the identifier have 18 bits, x and the hash have 16. -/
theorem hash_eq_toNat {node : Nat} (hn : node < 2 ^ 18) (frame : Nat) :
    let s := BitVec.ofNat 18 frame ^^^ BitVec.ofNat 18 (frame / 2 ^ 18)
    let x := BitVec.ofNat 16 ((BitVec.ofNat 18 node ^^^ s).toNat * 40503)
    hash node frame = (x ^^^ (x >>> 7)).toNat := by
  intro s x
  have hx : x.toNat = (node ^^^ hashSeed frame) * 40503 % 2 ^ 16 := by
    simp only [x, s, hashSeed_eq_toNat, BitVec.toNat_ofNat, BitVec.toNat_xor, Nat.mod_eq_of_lt hn]
  have hfold : (x >>> 7).toNat = x.toNat / 2 ^ 7 := by
    rw [BitVec.toNat_ushiftRight, Nat.shiftRight_eq_div_pow]
  rw [BitVec.toNat_xor, hfold, hx]
  rfl

/-! ### Each operation can be undone -/

/-- With the two results equal, the difference z = x XOR y meets z = z / 128, which only 0 does. -/
theorem xor_div_128_injective : Function.Injective fun x : Nat => x ^^^ x / 2 ^ 7 := by
  intro x y h
  have h0 : (x ^^^ y) ^^^ (x ^^^ y) / 2 ^ 7 = 0 :=
    calc (x ^^^ y) ^^^ (x ^^^ y) / 2 ^ 7 = (x ^^^ x / 2 ^ 7) ^^^ (y ^^^ y / 2 ^ 7) := by
          rw [Nat.xor_div_two_pow]
          ac_rfl
      _ = 0 := Nat.xor_eq_zero_iff.mpr h
  have hz : x ^^^ y = (x ^^^ y) / 2 ^ 7 := Nat.xor_eq_zero_iff.mp h0
  exact Nat.xor_eq_zero_iff.mp (by omega)

/-- 40,503 is odd, so that the product loses none of the low 16 bits. -/
theorem mod_eq_of_mul_40503_mod_eq {a b : Nat} (h : a * 40503 % 2 ^ 16 = b * 40503 % 2 ^ 16) :
    a % 2 ^ 16 = b % 2 ^ 16 :=
  Nat.ModEq.cancel_right_of_coprime (by decide) h

theorem mod_eq_of_xor_mod_eq {a b s k : Nat} (h : (a ^^^ s) % 2 ^ k = (b ^^^ s) % 2 ^ k) : a % 2 ^ k = b % 2 ^ k := by
  rw [Nat.xor_mod_two_pow, Nat.xor_mod_two_pow] at h
  exact Nat.xor_left_inj.mp h

/-! ### Distinct hashes -/

/-- Equal hashes in one frame come from identifiers with the same low 16 bits. -/
theorem mod_eq_of_hash_eq {a b frame : Nat} (h : hash a frame = hash b frame) : a % 2 ^ 16 = b % 2 ^ 16 :=
  mod_eq_of_xor_mod_eq (mod_eq_of_mul_40503_mod_eq (xor_div_128_injective h))

/-- The low 16 bits of an identifier hold the cell's ring and position (R12). -/
theorem ring_pos_eq_of_nodeId_mod_eq {chip m p n q : Nat} (hm : m < 16) (hn : n < 16) (hp : p < 256) (hq : q < 256)
    (h : nodeId chip m p % 2 ^ 16 = nodeId chip n q % 2 ^ 16) : (m, p) = (n, q) := by
  simp only [nodeId] at h
  ext <;> omega

/-- Settles O17: the model's arithmetic is R53's on words of 18 and 16 bits, and equal hashes force equal rings and positions. -/
theorem cellHashes : Obligations.CellHashes :=
  ⟨fun _ frame hn => hash_eq_toNat hn frame,
    fun _ _ _ _ _ _ hm hn hp hq hne h => hne (ring_pos_eq_of_nodeId_mod_eq hm hn hp hq (mod_eq_of_hash_eq h))⟩

end Sys2Proof.Proofs
end

section
/-!
PROOFS. Faults of a block: the escalation rule (R405), the first-error capture (R400, R402), one fault for the conditions of
one scope found together (R397 to R399), and what an acknowledgement (R403) and a reset leave of a capture.

Raising a fault marks it pending, writes the block's status, fills the capture, and reports the fault. The report writes no
register but the counters of lost host entries, so that each statement is read off the first three operations.
-/

namespace Sys2Proof.Proofs

open Sys2Proof Sys2Proof.Machine

/-! ### Addresses of the fault registers -/

theorem FLT_FIRST_ne_FLT_STAT (b i : Nat) : Reg.FLT_FIRST b i ≠ Reg.FLT_STAT b := by
  unfold Reg.FLT_FIRST Reg.FLT_STAT; omega

theorem FLT_FIRST_inj (b i j : Nat) : Reg.FLT_FIRST b i = Reg.FLT_FIRST b j ↔ i = j := by
  unfold Reg.FLT_FIRST; omega

theorem FLT_STAT_ne_HOST_P_EV_CNT (b p : Nat) : Reg.FLT_STAT b ≠ Reg.HOST_P_EV_CNT p := by
  unfold Reg.FLT_STAT Reg.blockBase Reg.HOST_P_EV_CNT; omega

theorem FLT_FIRST_ne_HOST_P_EV_CNT (b : Nat) {i : Nat} (hi : i < 4) (p : Nat) :
    Reg.FLT_FIRST b i ≠ Reg.HOST_P_EV_CNT p := by
  unfold Reg.FLT_FIRST Reg.blockBase Reg.HOST_P_EV_CNT; omega

/-! ### Bits and fields of one register -/

theorem reg_setReg (v : Vp) (a b : Nat) (w : Word) : (v.setReg a w).reg b = if b = a then w else v.reg b := by
  split
  · next h => rw [h, Vp.reg_setReg_same]
  · next h => exact Vp.reg_setReg_other v w h

theorem bit_setBit (v : Vp) (a : Nat) {i : Nat} (hi : i < 32) (j : Nat) (b : Bool) :
    (v.setBit a i b).bit a j = if j = i then b else v.bit a j := by
  split
  · next h => rw [h, Vp.bit_setBit_same v a hi]
  · next h => exact Vp.bit_setBit_other v a hi h b

theorem fld_setBit_above (v : Vp) (a : Nat) {i lo : Nat} (hi : i < 32) (h : i < lo) (b : Bool) (len : Nat) :
    (v.setBit a i b).fld a lo len = v.fld a lo len :=
  Vp.fld_setFld_above v a (by omega) _ (by omega)

theorem bit_satFld_below (v : Vp) (a : Nat) {lo len j : Nat} (h : lo + len ≤ 32) (hj : j < lo) :
    (v.satFld a lo len).bit a j = v.bit a j := by
  rw [Vp.bit_eq_fld, Vp.bit_eq_fld, Vp.satFld, Vp.fld_setFld_below v a h _ (by omega)]

theorem fld_satFld_same (v : Vp) (a : Nat) {lo len : Nat} (h : lo + len ≤ 32) :
    (v.satFld a lo len).fld a lo len = min (v.fld a lo len + 1) (2 ^ len - 1) := by
  have := Nat.two_pow_pos len
  rw [Vp.satFld, Vp.fld_setFld_same v a h, Nat.mod_eq_of_lt (by omega)]

theorem setReg_sec (v : Vp) (a : Nat) (w : Word) : (v.setReg a w).sec = v.sec := by
  rw [Vp.sec, Vp.setReg_tai, Vp.sec]

theorem setReg_ns (v : Vp) (a : Nat) (w : Word) : (v.setReg a w).ns = v.ns := by
  rw [Vp.ns, Vp.setReg_tai, Vp.ns]

@[simp] theorem setBit_flt (v : Vp) (a i : Nat) (b : Bool) : (v.setBit a i b).flt = v.flt := Vp.setReg_flt v a _

@[simp] theorem setBit_tai (v : Vp) (a i : Nat) (b : Bool) : (v.setBit a i b).tai = v.tai := Vp.setReg_tai v a _

@[simp] theorem satFld_flt (v : Vp) (a lo len : Nat) : (v.satFld a lo len).flt = v.flt := Vp.setReg_flt v a _

@[simp] theorem satFld_tai (v : Vp) (a lo len : Nat) : (v.satFld a lo len).tai = v.tai := Vp.setReg_tai v a _

/-! ### The report of a fault -/

/-- `u` is `v` after a report: the pending marks, the captures and every register but the counters of lost entries are as
they were, and nothing queued is lost. -/
structure Reports (v u : Vp) : Prop where
  pend : u.flt.pend = v.flt.pend
  cap : u.flt.cap = v.flt.cap
  inbox : v.inbox ⊆ u.inbox
  reg : ∀ a, (∀ p, a ≠ Reg.HOST_P_EV_CNT p) → u.reg a = v.reg a

namespace Reports

theorem refl (v : Vp) : Reports v v := ⟨rfl, rfl, fun _ h => h, fun _ _ => rfl⟩

theorem trans {v u w : Vp} (h : Reports v u) (g : Reports u w) : Reports v w :=
  ⟨g.pend.trans h.pend, g.cap.trans h.cap, fun _ m => g.inbox (h.inbox m), fun a ha => (g.reg a ha).trans (h.reg a ha)⟩

theorem post (v : Vp) (i : Input) : Reports v (v.post i) :=
  ⟨rfl, rfl, fun _ h => List.mem_append_left _ h, fun _ _ => rfl⟩

theorem setReg (v : Vp) (p : Nat) (w : Word) : Reports v (v.setReg (Reg.HOST_P_EV_CNT p) w) :=
  ⟨rfl, rfl, fun _ h => h, fun _ ha => Vp.reg_setReg_other v w (ha p)⟩

theorem portEntry (v : Vp) (p : Nat) (e : EvEntry) : Reports v (v.portEntry p e) := by
  have queued (u : Vp) (q : List (Nat × List EvEntry)) : Reports u { u with evq := q } :=
    ⟨rfl, rfl, fun _ h => h, fun _ _ => rfl⟩
  have lost (u : Vp) (l : List (Nat × Nat)) : Reports u { u with evLost := l } :=
    ⟨rfl, rfl, fun _ h => h, fun _ _ => rfl⟩
  have counted : Reports v (v.addFld (Reg.HOST_P_EV_CNT p) 16 16 1) := setReg v p _
  unfold Vp.portEntry
  dsimp only
  split
  · split
    · exact queued v _
    · split
      · exact (counted.trans (post _ _)).trans (lost _ _)
      · exact counted.trans (lost _ _)
  · exact refl v

theorem hostEntry (v : Vp) (code src data : Nat) : Reports v (v.hostEntry code src data) := by
  unfold Vp.hostEntry
  refine List.foldlRecOn (motive := Reports v) _ _ (refl v) fun u h p _ => ?_
  split
  · exact h.trans (portEntry u p _)
  · exact h

theorem fatalInput (v : Vp) (blk inst : Nat) : Reports v (v.fatalInput blk inst) := by
  unfold Vp.fatalInput
  split
  · exact post v _
  · exact Reports.trans (u := { v with flt := { v.flt with removed := v.flt.removed ++ [blk * 256 + inst] } })
      ⟨rfl, rfl, fun _ h => h, fun _ _ => rfl⟩ (post _ _)

theorem reg_FLT_STAT {v u : Vp} (h : Reports v u) (blk : Nat) : u.reg (Reg.FLT_STAT blk) = v.reg (Reg.FLT_STAT blk) :=
  h.reg _ (FLT_STAT_ne_HOST_P_EV_CNT blk)

theorem bit_FLT_STAT {v u : Vp} (h : Reports v u) (blk j : Nat) :
    u.bit (Reg.FLT_STAT blk) j = v.bit (Reg.FLT_STAT blk) j := by
  unfold Vp.bit; rw [h.reg_FLT_STAT]

theorem fld_FLT_STAT {v u : Vp} (h : Reports v u) (blk lo len : Nat) :
    u.fld (Reg.FLT_STAT blk) lo len = v.fld (Reg.FLT_STAT blk) lo len := by
  unfold Vp.fld; rw [h.reg_FLT_STAT]

theorem reg_FLT_FIRST {v u : Vp} (h : Reports v u) (blk : Nat) {i : Nat} (hi : i < 4) :
    u.reg (Reg.FLT_FIRST blk i) = v.reg (Reg.FLT_FIRST blk i) :=
  h.reg _ (FLT_FIRST_ne_HOST_P_EV_CNT blk hi)

end Reports

/-! ### The status of a block -/

/-- The pending mark and the note of the block's last fault that raising a fault makes. -/
def markFault (v : Vp) (blk inst cls : Nat) : Vp :=
  let key := blk * 256 + inst
  { v with flt := { v.flt with
    pend := sset (fun _ => 0) v.flt.pend key (sget (fun _ => 0) v.flt.pend key ||| 2 ^ cls)
    last := sset (fun _ => 0) v.flt.last blk (cls + 4 * (inst % 256)) } }

/-- The status bits and the count that raising a fault sets (R399). -/
def statFault (v : Vp) (blk inst cls : Nat) (esc : Bool) : Vp :=
  let st := Reg.FLT_STAT blk
  let u := (v.setBit st (cls - 1) true).setBit st 3 esc
  let u := if cls == 3 && deviceLevel blk inst then u.setBit st 4 true else u
  u.satFld st (8 * cls) 8

theorem markFault_pending_same (v : Vp) (blk inst cls : Nat) : (markFault v blk inst cls).pending blk inst cls = true := by
  simp [Vp.pending, markFault, sget_sset_same, Nat.testBit_or]

theorem markFault_pending_other (v : Vp) {blk inst cls b i j : Nat} (hinst : inst < 256) (hi : i < 256)
    (h : (b, i, j) ≠ (blk, inst, cls)) : (markFault v blk inst cls).pending b i j = v.pending b i j := by
  unfold Vp.pending markFault
  by_cases hk : b * 256 + i = blk * 256 + inst
  · have hj : cls ≠ j := by
      rintro rfl
      obtain ⟨rfl, rfl⟩ : b = blk ∧ i = inst := by omega
      exact h rfl
    rw [hk, sget_sset_same, Nat.testBit_or, Nat.testBit_two_pow_of_ne hj, Bool.or_false]
  · rw [sget_sset_other _ _ _ hk]

section
variable (v : Vp) (blk inst : Nat) {cls : Nat} (esc : Bool)

theorem statFault_flt : (statFault v blk inst cls esc).flt = v.flt := by
  unfold statFault
  dsimp only
  split <;> simp only [satFld_flt, setBit_flt]

theorem statFault_tai : (statFault v blk inst cls esc).tai = v.tai := by
  unfold statFault
  dsimp only
  split <;> simp only [satFld_tai, setBit_tai]

theorem statFault_reg_other {a : Nat} (h : a ≠ Reg.FLT_STAT blk) : (statFault v blk inst cls esc).reg a = v.reg a := by
  unfold statFault Vp.satFld
  dsimp only
  split <;> simp only [Vp.reg_setFld_other, Vp.reg_setBit_other, h, ne_eq, not_false_eq_true]

theorem statFault_bit (h1 : 1 ≤ cls) (h3 : cls ≤ 3) {j : Nat} (hj : j < 8) (h4 : j ≠ 4) :
    (statFault v blk inst cls esc).bit (Reg.FLT_STAT blk) j
      = if j = 3 then esc else if j = cls - 1 then true else v.bit (Reg.FLT_STAT blk) j := by
  unfold statFault
  dsimp only
  rw [bit_satFld_below _ _ (by omega) (by omega)]
  split <;> simp only [bit_setBit, h4, if_false, show (3 : Nat) < 32 by omega, show (4 : Nat) < 32 by omega,
    show cls - 1 < 32 by omega]

theorem statFault_count (h1 : 1 ≤ cls) (h3 : cls ≤ 3) : (statFault v blk inst cls esc).fld (Reg.FLT_STAT blk) (8 * cls) 8
    = min (v.fld (Reg.FLT_STAT blk) (8 * cls) 8 + 1) 255 := by
  have below : cls - 1 < 8 * cls ∧ 3 < 8 * cls ∧ 4 < 8 * cls ∧ cls - 1 < 32 := by omega
  unfold statFault
  dsimp only
  rw [fld_satFld_same _ _ (by omega)]
  split <;> simp only [fld_setBit_above, below, show (3 : Nat) < 32 by omega, show (4 : Nat) < 32 by omega,
    show 2 ^ 8 - 1 = 255 from rfl]

end

/-! ### The capture -/

/-- The registers of a capture, with CAP_V (R400). -/
def captureRegs (v : Vp) (blk inst : Nat) (c : Cond) (cls : Nat) (esc : Bool) : Vp :=
  let u := v.setReg (Reg.FLT_FIRST blk 0) (w32 c.addr)
  let u := u.setReg (Reg.FLT_FIRST blk 1) (w32 (first1 c cls esc (v.bit (Reg.FLT_STAT blk) 5) inst))
  let u := u.setReg (Reg.FLT_FIRST blk 2) (w32 u.sec)
  let u := u.setReg (Reg.FLT_FIRST blk 3) (w32 u.ns)
  u.setBit (Reg.FLT_STAT blk) 5 true

/-- The class that a block's capture holds. -/
def setCap (v : Vp) (blk cls : Nat) : Vp := { v with flt := { v.flt with cap := sset (fun _ => 0) v.flt.cap blk cls } }

@[simp] theorem setCap_reg (v : Vp) (blk cls a : Nat) : (setCap v blk cls).reg a = v.reg a := rfl

@[simp] theorem setCap_pend (v : Vp) (blk cls : Nat) : (setCap v blk cls).flt.pend = v.flt.pend := rfl

@[simp] theorem setCap_cap (v : Vp) (blk cls : Nat) : sget (fun _ => 0) (setCap v blk cls).flt.cap blk = cls :=
  sget_sset_same _ _ _ _

/-- The capture of a fault taken whatever stood in it. -/
def fillCapture (v : Vp) (blk inst : Nat) (c : Cond) (cls : Nat) (esc : Bool) : Vp :=
  setCap (captureRegs v blk inst c cls esc) blk cls

section
variable (v : Vp) (blk inst : Nat) (c : Cond) (cls : Nat) (esc : Bool)

theorem capture_eq : v.capture blk inst c cls esc =
    if !v.bit (Reg.FLT_STAT blk) 5 || (cls == 3 && decide (sget (fun _ => 0) v.flt.cap blk < 3))
    then fillCapture v blk inst c cls esc else v := rfl

theorem capture_free_or_fatal (h : v.bit (Reg.FLT_STAT blk) 5 = false ∨ (cls = 3 ∧ sget (fun _ => 0) v.flt.cap blk < 3)) :
    v.capture blk inst c cls esc = fillCapture v blk inst c cls esc := by
  rw [capture_eq, if_pos]
  simpa using h

theorem capture_held (h5 : v.bit (Reg.FLT_STAT blk) 5 = true) (h : ¬ (cls = 3 ∧ sget (fun _ => 0) v.flt.cap blk < 3)) :
    v.capture blk inst c cls esc = v := by
  rw [capture_eq, if_neg]
  simpa [h5] using h

theorem capture_cases : v.capture blk inst c cls esc = fillCapture v blk inst c cls esc ∨ v.capture blk inst c cls esc = v := by
  rw [capture_eq]
  split
  · exact .inl rfl
  · exact .inr rfl

theorem captureRegs_flt : (captureRegs v blk inst c cls esc).flt = v.flt := by
  unfold captureRegs Vp.setBit Vp.setFld
  rw [Vp.setReg_flt, Vp.setReg_flt, Vp.setReg_flt, Vp.setReg_flt, Vp.setReg_flt]

theorem fillCapture_pend : (fillCapture v blk inst c cls esc).flt.pend = v.flt.pend := by
  rw [fillCapture, setCap_pend, captureRegs_flt]

theorem capture_pend : (v.capture blk inst c cls esc).flt.pend = v.flt.pend := by
  rcases capture_cases v blk inst c cls esc with h | h <;> rw [h]
  exact fillCapture_pend v blk inst c cls esc

theorem fillCapture_FLT_STAT : (fillCapture v blk inst c cls esc).reg (Reg.FLT_STAT blk)
    = (v.setBit (Reg.FLT_STAT blk) 5 true).reg (Reg.FLT_STAT blk) := by
  rw [fillCapture, setCap_reg]
  simp only [captureRegs, Vp.setBit, Vp.setFld, reg_setReg, (FLT_FIRST_ne_FLT_STAT _ _).symm, if_true, if_false]

theorem fillCapture_bit (j : Nat) : (fillCapture v blk inst c cls esc).bit (Reg.FLT_STAT blk) j
    = if j = 5 then true else v.bit (Reg.FLT_STAT blk) j := by
  rw [← bit_setBit v _ (by decide)]
  unfold Vp.bit
  rw [fillCapture_FLT_STAT]

theorem fillCapture_fld_above {lo : Nat} (hlo : 5 < lo) (len : Nat) :
    (fillCapture v blk inst c cls esc).fld (Reg.FLT_STAT blk) lo len = v.fld (Reg.FLT_STAT blk) lo len := by
  rw [← fld_setBit_above v _ (by decide) hlo true]
  unfold Vp.fld
  rw [fillCapture_FLT_STAT]

theorem capture_bit_other {j : Nat} (hj : j ≠ 5) :
    (v.capture blk inst c cls esc).bit (Reg.FLT_STAT blk) j = v.bit (Reg.FLT_STAT blk) j := by
  rcases capture_cases v blk inst c cls esc with h | h <;> rw [h]
  rw [fillCapture_bit, if_neg hj]

theorem capture_fld_above {lo : Nat} (hlo : 5 < lo) (len : Nat) :
    (v.capture blk inst c cls esc).fld (Reg.FLT_STAT blk) lo len = v.fld (Reg.FLT_STAT blk) lo len := by
  rcases capture_cases v blk inst c cls esc with h | h <;> rw [h]
  exact fillCapture_fld_above v blk inst c cls esc hlo len

/-- FIRST0 to FIRST3 of a capture filled now. -/
theorem fillCapture_FLT_FIRST :
    let u := fillCapture v blk inst c cls esc
    u.reg (Reg.FLT_FIRST blk 0) = w32 c.addr
    ∧ u.reg (Reg.FLT_FIRST blk 1) = w32 (first1 c cls esc (v.bit (Reg.FLT_STAT blk) 5) inst)
    ∧ u.reg (Reg.FLT_FIRST blk 2) = w32 v.sec ∧ u.reg (Reg.FLT_FIRST blk 3) = w32 v.ns := by
  intro u
  have first (i : Nat) : u.reg (Reg.FLT_FIRST blk i) = if i = 3 then w32 v.ns else if i = 2 then w32 v.sec
      else if i = 1 then w32 (first1 c cls esc (v.bit (Reg.FLT_STAT blk) 5) inst) else if i = 0 then w32 c.addr
      else v.reg (Reg.FLT_FIRST blk i) := by
    unfold u
    rw [fillCapture, setCap_reg]
    simp only [captureRegs, Vp.setBit, Vp.setFld, reg_setReg, setReg_sec, setReg_ns, FLT_FIRST_inj, FLT_FIRST_ne_FLT_STAT,
      if_false]
  exact ⟨first 0, first 1, first 2, first 3⟩

end

theorem b2n_lt_two (b : Bool) : b2n b < 2 := by cases b <;> decide

theorem decide_b2n_eq_one (b : Bool) : decide (b2n b = 1) = b := by cases b <;> rfl

/-- The fields of FIRST1 (R400). -/
theorem first1_fields {c : Cond} {cls inst : Nat} (esc repl : Bool) (hm : c.master < 256) (ha : c.access < 8) (hk : cls < 4)
    (hi : inst < 256) (hc : c.cause < 256) :
    let w := w32 (first1 c cls esc repl inst)
    fld w 0 8 = c.master ∧ fld w 8 3 = c.access ∧ fld w 11 2 = cls ∧ Machine.bit w 13 = esc ∧ Machine.bit w 14 = repl
    ∧ fld w 16 8 = inst ∧ fld w 24 8 = c.cause := by
  intro w
  have he : b2n esc < 2 := b2n_lt_two esc
  have hr : b2n repl < 2 := b2n_lt_two repl
  have value : w.toNat = c.master + c.access * 2 ^ 8 + cls * 2 ^ 11 + b2n esc * 2 ^ 13 + b2n repl * 2 ^ 14 + inst * 2 ^ 16
      + c.cause * 2 ^ 24 := by
    unfold w w32 first1
    rw [BitVec.toNat_ofNat, Nat.mod_eq_of_lt hm, Nat.mod_eq_of_lt ha, Nat.mod_eq_of_lt hi, Nat.mod_eq_of_lt hc]
    omega
  have hesc : fld w 13 1 = b2n esc := by unfold fld; omega
  have hrepl : fld w 14 1 = b2n repl := by unfold fld; omega
  rw [Machine.bit_eq_fld, Machine.bit_eq_fld, hesc, hrepl, decide_b2n_eq_one, decide_b2n_eq_one]
  unfold fld
  refine ⟨?_, ?_, ?_, rfl, rfl, ?_, ?_⟩ <;> omega

/-! ### Raising a fault -/

/-- What raising a fault writes before it is reported. -/
def recordFault (v : Vp) (blk inst : Nat) (c : Cond) (cls : Nat) (esc : Bool) : Vp :=
  (statFault (markFault v blk inst cls) blk inst cls esc).capture blk inst c cls esc

section
variable (v : Vp) (blk inst : Nat) (c : Cond) (cls : Nat) (esc : Bool)

/-- A fault is recorded, then posted to the cores, entered for the hosts and, if fatal, acted on. -/
theorem raiseAs_eq : v.raiseAs blk inst c cls esc =
    (let u := (recordFault v blk inst c cls esc).post (.event (32 + blk))
     let u := u.hostEntry 2 blk (u.reg (Reg.FLT_STAT blk)).toNat
     if cls = 3 then u.fatalInput blk inst else u) := rfl

theorem posted_reports_raiseAs :
    Reports ((recordFault v blk inst c cls esc).post (.event (32 + blk))) (v.raiseAs blk inst c cls esc) := by
  rw [raiseAs_eq]
  dsimp only
  split
  · exact (Reports.hostEntry _ _ _ _).trans (Reports.fatalInput _ _ _)
  · exact Reports.hostEntry _ _ _ _

theorem record_reports_raiseAs : Reports (recordFault v blk inst c cls esc) (v.raiseAs blk inst c cls esc) :=
  (Reports.post _ _).trans (posted_reports_raiseAs v blk inst c cls esc)

theorem raiseAs_event : Input.event (32 + blk) ∈ (v.raiseAs blk inst c cls esc).inbox :=
  (posted_reports_raiseAs v blk inst c cls esc).inbox (List.mem_append_right _ (List.mem_singleton_self _))

theorem raiseAs_pend : (v.raiseAs blk inst c cls esc).flt.pend = (markFault v blk inst cls).flt.pend := by
  rw [(record_reports_raiseAs v blk inst c cls esc).pend, recordFault, capture_pend, statFault_flt]

theorem raiseAs_pending (b i j : Nat) :
    (v.raiseAs blk inst c cls esc).pending b i j = (markFault v blk inst cls).pending b i j := by
  unfold Vp.pending
  rw [raiseAs_pend]

variable {cls} (h1 : 1 ≤ cls) (h3 : cls ≤ 3)
include h1 h3

/-- The class bits and ESC of the status after a fault. -/
theorem raiseAs_bit {j : Nat} (hj : j < 4) : (v.raiseAs blk inst c cls esc).bit (Reg.FLT_STAT blk) j
    = if j = 3 then esc else if j = cls - 1 then true else v.bit (Reg.FLT_STAT blk) j := by
  rw [(record_reports_raiseAs v blk inst c cls esc).bit_FLT_STAT, recordFault, capture_bit_other _ _ _ _ _ _ (by omega),
    statFault_bit _ _ _ _ h1 h3 (by omega) (by omega)]
  rfl

theorem raiseAs_count : (v.raiseAs blk inst c cls esc).fld (Reg.FLT_STAT blk) (8 * cls) 8
    = min (v.fld (Reg.FLT_STAT blk) (8 * cls) 8 + 1) 255 := by
  rw [(record_reports_raiseAs v blk inst c cls esc).fld_FLT_STAT, recordFault, capture_fld_above _ _ _ _ _ _ (by omega),
    statFault_count _ _ _ _ h1 h3]
  rfl

/-- The status operations leave CAP_V. -/
theorem statFault_markFault_CAP_V : (statFault (markFault v blk inst cls) blk inst cls esc).bit (Reg.FLT_STAT blk) 5
    = v.bit (Reg.FLT_STAT blk) 5 := by
  rw [statFault_bit _ _ _ _ h1 h3 (by omega) (by omega), if_neg (by omega), if_neg (by omega)]
  rfl

omit h1 h3 in
theorem statFault_markFault_cap : (statFault (markFault v blk inst cls) blk inst cls esc).flt.cap = v.flt.cap := by
  rw [statFault_flt]
  rfl

omit h1 h3 in
theorem statFault_markFault_tai : (statFault (markFault v blk inst cls) blk inst cls esc).tai = v.tai := by
  rw [statFault_tai]
  rfl

/-- The first fault, and a fatal one over a lower class, fills the capture (R402). -/
theorem raiseAs_fills (h : v.bit (Reg.FLT_STAT blk) 5 = false ∨ (cls = 3 ∧ sget (fun _ => 0) v.flt.cap blk < 3)) :
    let u := v.raiseAs blk inst c cls esc
    u.bit (Reg.FLT_STAT blk) 5 = true ∧ sget (fun _ => 0) u.flt.cap blk = cls
    ∧ u.reg (Reg.FLT_FIRST blk 0) = w32 c.addr
    ∧ u.reg (Reg.FLT_FIRST blk 1) = w32 (first1 c cls esc (v.bit (Reg.FLT_STAT blk) 5) inst)
    ∧ u.reg (Reg.FLT_FIRST blk 2) = w32 v.sec ∧ u.reg (Reg.FLT_FIRST blk 3) = w32 v.ns := by
  have hr := record_reports_raiseAs v blk inst c cls esc
  have hCapV := statFault_markFault_CAP_V v blk inst esc h1 h3
  have hcap := statFault_markFault_cap v blk inst (cls := cls) esc
  have htai := statFault_markFault_tai v blk inst (cls := cls) esc
  have hfill : recordFault v blk inst c cls esc
      = fillCapture (statFault (markFault v blk inst cls) blk inst cls esc) blk inst c cls esc :=
    capture_free_or_fatal _ _ _ _ _ _ (by rwa [hCapV, hcap])
  obtain ⟨f0, f1, f2, f3⟩ := fillCapture_FLT_FIRST (statFault (markFault v blk inst cls) blk inst cls esc) blk inst c cls esc
  intro u
  refine ⟨?_, ?_, ?_, ?_, ?_, ?_⟩
  · rw [hr.bit_FLT_STAT, hfill, fillCapture_bit, if_pos rfl]
  · rw [hr.cap, hfill, fillCapture, setCap_cap]
  · rw [hr.reg_FLT_FIRST blk (by decide), hfill, f0]
  · rw [hr.reg_FLT_FIRST blk (by decide), hfill, f1, hCapV]
  · rw [hr.reg_FLT_FIRST blk (by decide), hfill, f2, Vp.sec, htai, Vp.sec]
  · rw [hr.reg_FLT_FIRST blk (by decide), hfill, f3, Vp.ns, htai, Vp.ns]

/-- Any other fault leaves a capture that holds one (R402). -/
theorem raiseAs_keeps (h5 : v.bit (Reg.FLT_STAT blk) 5 = true) (h : ¬ (cls = 3 ∧ sget (fun _ => 0) v.flt.cap blk < 3)) :
    let u := v.raiseAs blk inst c cls esc
    u.bit (Reg.FLT_STAT blk) 5 = true ∧ u.flt.cap = v.flt.cap
    ∧ ∀ i, i < 4 → u.reg (Reg.FLT_FIRST blk i) = v.reg (Reg.FLT_FIRST blk i) := by
  have hr := record_reports_raiseAs v blk inst c cls esc
  have hCapV := statFault_markFault_CAP_V v blk inst esc h1 h3
  have hcap := statFault_markFault_cap v blk inst (cls := cls) esc
  have hheld : recordFault v blk inst c cls esc = statFault (markFault v blk inst cls) blk inst cls esc :=
    capture_held _ _ _ _ _ _ (by rwa [hCapV]) (by rwa [hcap])
  intro u
  refine ⟨?_, ?_, fun i hi => ?_⟩
  · rw [hr.bit_FLT_STAT, hheld, hCapV, h5]
  · rw [hr.cap, hheld, hcap]
  · rw [hr.reg_FLT_FIRST blk hi, hheld, statFault_reg_other _ _ _ _ (FLT_FIRST_ne_FLT_STAT blk i)]
    rfl

end

/-! ### Escalation -/

section
variable (v : Vp) (blk inst : Nat) {k : Nat}

theorem le_escalate : k ≤ v.escalate blk inst k := by
  unfold Vp.escalate
  split_ifs <;> omega

theorem escalate_le_three (h3 : k ≤ 3) : v.escalate blk inst k ≤ 3 := by
  unfold Vp.escalate
  split_ifs <;> omega

/-- Each class that a fault passes is pending. -/
theorem pending_of_lt_escalate {j : Nat} (hkj : k ≤ j) (hj : j < v.escalate blk inst k) : v.pending blk inst j = true := by
  unfold Vp.escalate at hj
  split_ifs at hj with h1 h2 h2
  · obtain ⟨rfl, hp⟩ := h1
    obtain rfl | rfl : j = 1 ∨ j = 2 := by omega
    · exact hp
    · exact h2
  · obtain ⟨rfl, hp⟩ := h1
    obtain rfl : j = 1 := by omega
    exact hp
  · obtain ⟨rfl, hp⟩ := h2
    obtain rfl : j = 2 := by omega
    exact hp
  · omega

/-- A fault rises until it is fatal or its class is not pending. -/
theorem escalate_eq_three_or_not_pending (h1 : 1 ≤ k) (h3 : k ≤ 3) :
    v.escalate blk inst k = 3 ∨ v.pending blk inst (v.escalate blk inst k) = false := by
  obtain rfl | rfl | rfl : k = 1 ∨ k = 2 ∨ k = 3 := by omega
  · cases hp1 : v.pending blk inst 1
    · simp [Vp.escalate, hp1]
    · cases hp2 : v.pending blk inst 2 <;> simp [Vp.escalate, hp1, hp2]
  · cases hp2 : v.pending blk inst 2 <;> simp [Vp.escalate, hp2]
  · simp [Vp.escalate]

end

/-! ### One fault for the conditions found together -/

/-- The class of the fault that conditions of one scope are: the highest that any has after escalation (R397). -/
def topClass (v : Vp) (blk inst : Nat) (cs : List Cond) : Nat := cs.foldl (fun k d => max k (v.escalate blk inst d.cls)) 0

/-- Did a condition rise to that class? -/
def topRose (v : Vp) (blk inst : Nat) (cs : List Cond) : Bool :=
  cs.any (fun d => v.escalate blk inst d.cls == topClass v blk inst cs && decide (d.cls < topClass v blk inst cs))

theorem topClass_le_three (v : Vp) (blk inst : Nat) {cs : List Cond} (h : ∀ d ∈ cs, d.cls ≤ 3) :
    topClass v blk inst cs ≤ 3 :=
  List.foldlRecOn (motive := (· ≤ 3)) _ _ (by decide) fun _ hk d hd => max_le hk (escalate_le_three v blk inst (h d hd))

theorem one_le_topClass (v : Vp) (blk inst : Nat) {c : Cond} (cs : List Cond) (h : 1 ≤ c.cls) :
    1 ≤ topClass v blk inst (c :: cs) :=
  List.foldlRecOn (motive := (1 ≤ ·)) cs _ (le_max_of_le_right (h.trans (le_escalate v blk inst)))
    fun _ hk _ _ => le_max_of_le_left hk

/-- The conditions found together are one fault, with the lowest row (R397). -/
theorem raiseAll_eq_raiseAs {v : Vp} {blk inst : Nat} (h : v.isRemoved blk inst = false) (c : Cond) (cs : List Cond) :
    v.raiseAll blk inst (c :: cs) = v.raiseAs blk inst (cs.foldl (fun c d => if d.cause < c.cause then d else c) c)
      (topClass v blk inst (c :: cs)) (topRose v blk inst (c :: cs)) := by
  rw [Vp.raiseAll, h, if_neg Bool.false_ne_true]
  rfl

/-- A removed scope raises no fault (R407). -/
theorem raiseAll_removed {v : Vp} {blk inst : Nat} (h : v.isRemoved blk inst = true) (c : Cond) (cs : List Cond) :
    v.raiseAll blk inst (c :: cs) = v := by
  rw [Vp.raiseAll, if_pos h]

theorem topClass_singleton (v : Vp) (blk inst : Nat) (c : Cond) : topClass v blk inst [c] = v.escalate blk inst c.cls :=
  Nat.zero_max _

theorem topRose_singleton (v : Vp) (blk inst : Nat) (c : Cond) :
    topRose v blk inst [c] = decide (c.cls < v.escalate blk inst c.cls) := by
  simp [topRose, topClass_singleton]

theorem raise_eq_raiseAs {v : Vp} {blk inst : Nat} (h : v.isRemoved blk inst = false) (cause k addr : Nat) :
    v.raise blk inst cause k addr = v.raiseAs blk inst (Cond.own blk cause k addr) (v.escalate blk inst k)
      (decide (k < v.escalate blk inst k)) := by
  rw [Vp.raise, raiseAll_eq_raiseAs h, topClass_singleton, topRose_singleton]
  rfl

/-! ### Acknowledgement -/

/-- What an acknowledgement writes beside the capture (R403). -/
def ackStatus (v : Vp) (blk k : Nat) (sel : Nat → Bool) : Vp :=
  let clr := fun (p : Nat × Nat) =>
    if p.1 / 256 == blk && sel (p.1 % 256) && !(k == 3 && deviceLevel blk (p.1 % 256)) then (p.1, putBit p.2 k false)
    else p
  let u := { v with flt := { v.flt with pend := (v.flt.pend.map clr).filter (fun p => p.2 != 0) } }
  let u := u.setBit (Reg.FLT_STAT blk) (k - 1) (u.anyPending blk k)
  let l := sget (fun _ => 0) u.flt.last blk
  if l % 4 = k ∧ (sel (l / 4) && !(k == 3 && deviceLevel blk (l / 4))) then u.setBit (Reg.FLT_STAT blk) 3 false else u

/-- An empty capture. -/
def clearCapture (v : Vp) (blk : Nat) : Vp :=
  [0, 1, 2, 3].foldl (fun v i => v.setReg (Reg.FLT_FIRST blk i) 0) ((setCap v blk 0).setBit (Reg.FLT_STAT blk) 5 false)

theorem ackClass_eq (v : Vp) (blk k : Nat) (sel : Nat → Bool) : v.ackClass blk k sel =
    (let u := ackStatus v blk k sel
     let inst := u.fld (Reg.FLT_FIRST blk 1) 16 8
     if sget (fun _ => 0) u.flt.cap blk = k ∧ (sel inst && !(k == 3 && deviceLevel blk inst)) then clearCapture u blk
     else u) := rfl

theorem ackStatus_cap (v : Vp) (blk k : Nat) (sel : Nat → Bool) : (ackStatus v blk k sel).flt.cap = v.flt.cap := by
  unfold ackStatus
  dsimp only
  split <;> simp only [setBit_flt]

theorem ackStatus_reg_other (v : Vp) {blk a : Nat} (k : Nat) (sel : Nat → Bool) (h : a ≠ Reg.FLT_STAT blk) :
    (ackStatus v blk k sel).reg a = v.reg a := by
  unfold ackStatus
  dsimp only
  split
  · rw [Vp.reg_setBit_other _ _ _ h, Vp.reg_setBit_other _ _ _ h]
    rfl
  · rw [Vp.reg_setBit_other _ _ _ h]
    rfl

theorem clearCapture_cap (v : Vp) (blk : Nat) : sget (fun _ => 0) (clearCapture v blk).flt.cap blk = 0 := by
  have hflt : (clearCapture v blk).flt = (setCap v blk 0).flt :=
    List.foldlRecOn (motive := fun u => u.flt = (setCap v blk 0).flt) _ _ (setBit_flt _ _ _ _)
      fun u hu i _ => (Vp.setReg_flt u _ _).trans hu
  rw [hflt, setCap_cap]

theorem clearCapture_CAP_V (v : Vp) (blk : Nat) : (clearCapture v blk).bit (Reg.FLT_STAT blk) 5 = false := by
  refine List.foldlRecOn (motive := fun u : Vp => u.bit (Reg.FLT_STAT blk) 5 = false) _ _ ?_ fun u hu i _ => ?_
  · exact Vp.bit_setBit_same _ _ (by decide) false
  · rwa [Vp.bit, Vp.reg_setReg_other u 0 (FLT_FIRST_ne_FLT_STAT blk i).symm]

theorem clearCapture_FLT_FIRST (v : Vp) (blk : Nat) {i : Nat} (hi : i < 4) :
    (clearCapture v blk).reg (Reg.FLT_FIRST blk i) = 0 := by
  simp only [clearCapture, List.foldl, reg_setReg, FLT_FIRST_inj]
  interval_cases i <;> rfl

/-- An acknowledgement for every scope clears a capture of its class, but for a device-level fatal fault (R402, R403). -/
theorem ackClass_clears_capture (v : Vp) (blk k : Nat) (hcap : sget (fun _ => 0) v.flt.cap blk = k)
    (hdev : k = 3 → deviceLevel blk (v.fld (Reg.FLT_FIRST blk 1) 16 8) = false) :
    v.ackClass blk k (fun _ => true) = clearCapture (ackStatus v blk k fun _ => true) blk := by
  rw [ackClass_eq]
  dsimp only
  rw [if_pos]
  have hinst : (ackStatus v blk k fun _ => true).fld (Reg.FLT_FIRST blk 1) 16 8 = v.fld (Reg.FLT_FIRST blk 1) 16 8 := by
    rw [Vp.fld, ackStatus_reg_other v k _ (FLT_FIRST_ne_FLT_STAT blk 1), Vp.fld]
  rw [ackStatus_cap, hinst]
  exact ⟨hcap, by simpa [imp_iff_not_or] using hdev⟩

/-! ### Resets -/

theorem sget_filter_dropped {α : Type} (d : Nat → α) (m : List (Nat × α)) (p : Nat × α → Bool) (k : Nat)
    (h : ∀ a, p (k, a) = false) : sget d (m.filter p) k = d k := by
  induction m with
  | nil => rfl
  | cons q m ih =>
    obtain ⟨k', a⟩ := q
    by_cases hp : p (k', a) = true
    · have hk : k' ≠ k := by rintro rfl; rw [h] at hp; cases hp
      rw [List.filter_cons_of_pos hp, sget, if_neg hk, ih]
    · rw [List.filter_cons_of_neg hp, ih]

theorem reg_of_regs_nil {v : Vp} (hv : v.regs = []) (a : Nat) : v.reg a = regReset a := by
  rw [Vp.reg, hv, sget]

theorem reg_of_regs_filter {v : Vp} {m : List (Nat × Word)} {p : Nat × Word → Bool} (hv : v.regs = m.filter p) {a : Nat}
    (h : ∀ w, p (a, w) = false) : v.reg a = regReset a := by
  rw [Vp.reg, hv, sget_filter_dropped _ _ _ _ h]

theorem regReset_FLT_STAT {b : Nat} (hb : b < 16) : regReset (Reg.FLT_STAT b) = 0 := by
  revert b
  decide

theorem warmKept_FLT_STAT {b : Nat} (hb : b < 16) : warmKept (Reg.FLT_STAT b) = false := by
  revert b
  decide

/-- FLT_STAT stands at offset 0xFF00 of its block (R9). -/
theorem FLT_STAT_ne (b : Nat) {a : Nat} (h : a % 0x10000 ≠ 0xFF00) : Reg.FLT_STAT b ≠ a := by
  unfold Reg.FLT_STAT Reg.blockBase
  omega

theorem powerOn_FLT_STAT (v : Vp) (role : Bool) {b : Nat} (hb : b < 16) : (v.powerOn role).reg (Reg.FLT_STAT b) = 0 := by
  unfold Vp.powerOn
  dsimp only
  rw [Vp.reg_setReg_other _ _ (FLT_STAT_ne b (by decide)), Vp.reg_setReg_other _ _ (FLT_STAT_ne b (by decide))]
  exact (reg_of_regs_nil rfl _).trans (regReset_FLT_STAT hb)

theorem powerOn_cap (v : Vp) (role : Bool) : (v.powerOn role).flt.cap = [] := by
  unfold Vp.powerOn
  dsimp only
  rw [Vp.setReg_flt, Vp.setReg_flt]

theorem warmed_FLT_STAT (v : Vp) {b : Nat} (hb : b < 16) : v.warmed.reg (Reg.FLT_STAT b) = 0 := by
  unfold Vp.warmed
  dsimp only
  rw [Vp.reg_setReg_other _ _ (FLT_STAT_ne b (by decide)), Vp.reg_setFld_other _ _ _ _ (FLT_STAT_ne b (by decide)),
    Vp.reg_setFld_other _ _ _ _ (FLT_STAT_ne b (by decide)), Vp.reg_setFld_other _ _ _ _ (FLT_STAT_ne b (by decide)),
    Vp.reg_setReg_other _ _ (FLT_STAT_ne b (by decide))]
  refine (reg_of_regs_filter (m := v.regs) (p := fun q => warmKept q.1) (a := Reg.FLT_STAT b) ?_ fun _ => ?_).trans
    (regReset_FLT_STAT hb)
  · rfl
  · exact warmKept_FLT_STAT hb

theorem warmed_cap (v : Vp) : v.warmed.flt.cap = [] := by
  unfold Vp.warmed Vp.setFld
  dsimp only
  rw [Vp.setReg_flt, Vp.setReg_flt, Vp.setReg_flt, Vp.setReg_flt, Vp.setReg_flt]

/-! ### The statements -/

/-- Settles O11: the fault is raised as `Vp.escalate` says, which is R405's procedure, and marks that class alone. -/
theorem escalation : Obligations.Escalation := by
  intro v blk inst cause k addr h1 h3 _ hinst hlive e u
  have hu : u = v.raiseAs blk inst (Cond.own blk cause k addr) e (decide (k < e)) := raise_eq_raiseAs hlive cause k addr
  have he1 : 1 ≤ e := h1.trans (le_escalate v blk inst)
  have he3 : e ≤ 3 := escalate_le_three v blk inst h3
  refine ⟨le_escalate v blk inst, he3, fun j => pending_of_lt_escalate v blk inst,
    escalate_eq_three_or_not_pending v blk inst h1 h3, ?_, fun b i j hi hne => ?_, ?_⟩
  · rw [hu, raiseAs_pending, markFault_pending_same]
  · rw [hu, raiseAs_pending, markFault_pending_other v hinst hi hne]
  · rw [hu, raiseAs_bit _ _ _ _ _ he1 he3 (by decide), if_pos rfl]

/-- The capture that a fault found by a block's own logic fills (R400). -/
theorem raise_fills_capture {v : Vp} {blk inst cause k addr : Nat} (h1 : 1 ≤ k) (h3 : k ≤ 3) (hblk : blk < 16)
    (hinst : inst < 256) (hcause : cause < 256) (hlive : v.isRemoved blk inst = false)
    (h : v.bit (Reg.FLT_STAT blk) 5 = false ∨ (v.escalate blk inst k = 3 ∧ sget (fun _ => 0) v.flt.cap blk < 3)) :
    let e := v.escalate blk inst k
    let u := v.raise blk inst cause k addr
    u.bit (Reg.FLT_STAT blk) 5 = true ∧ sget (fun _ => 0) u.flt.cap blk = e
    ∧ u.reg (Reg.FLT_FIRST blk 0) = w32 addr
    ∧ u.fld (Reg.FLT_FIRST blk 1) 0 8 = 0x30 + blk ∧ u.fld (Reg.FLT_FIRST blk 1) 8 3 = 5
    ∧ u.fld (Reg.FLT_FIRST blk 1) 11 2 = e ∧ u.bit (Reg.FLT_FIRST blk 1) 13 = decide (k < e)
    ∧ u.bit (Reg.FLT_FIRST blk 1) 14 = v.bit (Reg.FLT_STAT blk) 5 ∧ u.fld (Reg.FLT_FIRST blk 1) 16 8 = inst
    ∧ u.fld (Reg.FLT_FIRST blk 1) 24 8 = cause
    ∧ u.reg (Reg.FLT_FIRST blk 2) = w32 v.sec ∧ u.reg (Reg.FLT_FIRST blk 3) = w32 v.ns := by
  intro e u
  have hu : u = v.raiseAs blk inst (Cond.own blk cause k addr) e (decide (k < e)) := raise_eq_raiseAs hlive cause k addr
  have he3 : e ≤ 3 := escalate_le_three v blk inst h3
  obtain ⟨hfull, hcap, f0, f1, f2, f3⟩ := raiseAs_fills v blk inst (Cond.own blk cause k addr) (decide (k < e))
    (h1.trans (le_escalate v blk inst)) he3 h
  obtain ⟨hmaster, haccess, hcls, hesc, hrepl, hscope, hrow⟩ := first1_fields (c := Cond.own blk cause k addr)
    (decide (k < e)) (v.bit (Reg.FLT_STAT blk) 5) (show 0x30 + blk < 256 by omega) (show 5 < 8 by decide)
    (show e < 4 by omega) hinst hcause
  rw [← hu] at hfull hcap f0 f1 f2 f3
  simp only [Vp.fld, Vp.bit, f1]
  exact ⟨hfull, hcap, f0, hmaster, haccess, hcls, hesc, hrepl, hscope, hrow, f2, f3⟩

/-- Settles O12: raising a fault as an operation on the pending marks, the status and the capture gives the capture's clauses
and those of conditions found together; an acknowledgement and a reset leave the capture empty. -/
theorem firstErrorCapture : Obligations.FirstErrorCapture := by
  refine ⟨⟨?raise, ?ack, ?reset⟩, ?together⟩
  case raise =>
    intro v blk inst cause k addr h1 h3 hblk hinst hcause hlive e u full held
    refine ⟨raise_fills_capture h1 h3 hblk hinst hcause hlive, fun hfull hnot => ?_⟩
    have hu : u = v.raiseAs blk inst (Cond.own blk cause k addr) e (decide (k < e)) := raise_eq_raiseAs hlive cause k addr
    obtain ⟨hCapV, hcap, hfirst⟩ := raiseAs_keeps v blk inst (Cond.own blk cause k addr) (decide (k < e))
      (h1.trans (le_escalate v blk inst)) (escalate_le_three v blk inst h3) hfull hnot
    rw [← hu] at hCapV hcap hfirst
    exact ⟨hCapV, by rw [hcap], hfirst⟩
  case ack =>
    intro v blk k _ _ _ hcap hdev u
    have hu : u = clearCapture (ackStatus v blk k fun _ => true) blk := ackClass_clears_capture v blk k hcap hdev
    rw [hu]
    exact ⟨clearCapture_CAP_V _ blk, clearCapture_cap _ blk, fun i => clearCapture_FLT_FIRST _ blk⟩
  case reset =>
    intro v blk role hblk
    refine ⟨?_, powerOn_cap v role, ?_, warmed_cap v⟩
    · rw [Vp.bit, powerOn_FLT_STAT v role hblk]
      rfl
    · rw [Vp.bit, warmed_FLT_STAT v hblk]
      rfl
  case together =>
    intro v blk inst c cs
    refine ⟨fun h => raiseAll_removed h c cs, ?_⟩
    intro hlive _ _ hcls k u
    have hu : u = v.raiseAs blk inst _ k (topRose v blk inst (c :: cs)) := raiseAll_eq_raiseAs hlive c cs
    have hk1 : 1 ≤ k := one_le_topClass v blk inst cs (hcls c (List.mem_cons_self ..)).1
    have hk3 : k ≤ 3 := topClass_le_three v blk inst fun d hd => (hcls d hd).2
    rw [hu]
    refine ⟨hk1, hk3, ?_, ?_, raiseAs_count _ _ _ _ _ hk1 hk3, ?_, raiseAs_event _ _ _ _ _ _⟩
    · rw [raiseAs_pending, markFault_pending_same]
    · rw [raiseAs_bit _ _ _ _ _ hk1 hk3 (by omega), if_neg (by omega), if_pos rfl]
    · rw [raiseAs_bit _ _ _ _ _ hk1 hk3 (by decide), if_pos rfl]
      rfl

end Sys2Proof.Proofs
end

section
/-!
PROOFS. Where each command acts (R457, R460, R471), and what every command keeps: the queue, the parts that it does not
name, the safety of the cells (R78, R85, R86), and Retired until a reset (R104).
-/

namespace Sys2Proof.Proofs

open Sys2Proof Sys2Proof.Machine

/-! ### A Retired cell -/

/-- The cell is Retired, its registers in their canonical form. -/
structure InRetired (c : Cell) : Prop where
  wf : swf cnReset c.regs = true
  st : c.st = stRetired

namespace InRetired

variable {c d : Cell}

theorem base (h : InRetired c) (b : Cell.Base c d) : InRetired d := ⟨b.wf h.wf, (b.st h.wf).trans h.st⟩

theorem frame (h : InRetired c) (f : Cell.Frame c d) : InRetired d := h.base (Cell.Base.of f)

theorem not_guarded (h : InRetired c) : c.guarded = false := by
  simp [Cell.guarded, h.st]

theorem st_ne (h : InRetired c) {x : Nat} (hx : stRetired ≠ x) : c.st ≠ x := h.st ▸ hx

theorem blockNow (h : InRetired c) (i : Nat) : c.blockNow i = c := by
  simp [Cell.blockNow, h.not_guarded]

theorem blockSoft (h : InRetired c) (i dec : Nat) : c.blockSoft i dec = c :=
  if_neg (not_or.mpr ⟨h.st_ne (by decide), h.st_ne (by decide)⟩)

theorem freezeExit (h : InRetired c) : c.freezeExit = c := if_neg (h.st_ne (by decide))

theorem retireNow (h : InRetired c) (cause : Nat) : c.retireNow cause = c := by
  simp [Cell.retireNow, h.not_guarded]

theorem supplyBlock (h : InRetired c) : c.supplyBlock = c := by
  simp [Cell.supplyBlock, h.not_guarded]

theorem ite {e : Cell} {p : Prop} [Decidable p] (h : p → InRetired d) (k : ¬ p → InRetired e) :
    InRetired (if p then d else e) := by
  split
  · exact h ‹_›
  · exact k ‹_›

theorem foldl {α : Type} (f : Cell → α → Cell) (hf : ∀ c a, InRetired c → InRetired (f c a)) (l : List α)
    (h : InRetired c) : InRetired (l.foldl f c) := by
  induction l generalizing c with
  | nil => exact h
  | cons a l ih => exact ih (hf c a h)

/-! Protection leaves a Retired cell its state (R100: it is not watched). -/

theorem desat (h : InRetired c) (b chat : Bool) : InRetired (c.desat b chat) := by
  have s : InRetired (if chat then c.setChatter (b2n b) true else c) :=
    ite (fun _ => h.frame (Cell.Frame.setChatter c _ _)) fun _ => h
  unfold Cell.desat
  rwa [s.retireNow]

theorem supplyLost (h : InRetired c) (chat : Bool) : InRetired (c.supplyLost chat) := by
  have s : InRetired (if chat then c.setChatter 2 true else { c with gsup := false }) :=
    ite (fun _ => h.frame (Cell.Frame.setChatter c _ _)) fun _ => ⟨h.wf, h.st⟩
  unfold Cell.supplyLost
  rwa [s.supplyBlock]

theorem parityError (h : InRetired c) : InRetired c.parityError := by
  simpa [Cell.parityError, h.not_guarded] using h

theorem capConv (h : InRetired c) (raw : Int) : InRetired (c.capConv raw) := by
  unfold Cell.capConv
  extract_lets y o d1 d2
  have s1 : InRetired d1 := h.frame (Cell.Frame.setReg c (by decide) _)
  have s2 : InRetired d2 := ite (fun _ => s1.frame (Cell.Frame.setBit d1 (by decide) _ _)) fun _ => s1
  rw [if_neg (by simp [s2.not_guarded])]
  exact ⟨s2.wf, s2.st⟩

theorem overVoltage (h : InRetired c) (raws : List Int) : InRetired (c.overVoltage raws) :=
  h.foldl _ (fun _ _ s => s.capConv _) raws

theorem auxResult (h : InRetired c) (ch : Nat) (raws : List Int) : InRetired (c.auxResult ch raws) := by
  unfold Cell.auxResult
  extract_lets sum y src d1 d2 hot d3 d4 ins
  have s1 : InRetired d1 := h.frame (Cell.Frame.lit (Cell.Frame.setReg c (by unfold Reg.CN_ADC_AUX Reg.CN_SYS_STATE; omega) _))
  have s2 : InRetired d2 := ite (fun _ => s1.frame (Cell.Frame.setBit d1 (by decide) _ _)) fun _ => s1
  refine ite (fun _ => h) fun _ => ?_
  rw [if_pos (by simp [s2.not_guarded])]
  exact s2

theorem freezeWrite (h : InRetired c) (w : Word) : InRetired (c.freezeWrite w) := by
  have n : (c.st == stActive || c.st == stBlocked || c.st == stFrozen) = false := by rw [h.st]; decide
  unfold Cell.freezeWrite Cell.freezeRefused
  rw [n]
  extract_lets fz d
  have s : InRetired d := h.frame (Cell.Frame.setReg c (by decide) _)
  by_cases hw : Machine.bit w 0 = true
  · rw [if_pos (by simp [hw])]
    exact h.frame (Cell.Frame.setBit c (by decide) _ _)
  · rw [if_neg (by simp [hw]), if_neg hw, s.freezeExit]
    exact s

theorem calDone (h : InRetired c) : InRetired c.calDone := by
  unfold Cell.calDone
  rw [if_neg fun e => h.st_ne (by decide) e.2]
  exact h

/-! The frame passes a Retired cell without a change of state (R59). -/

theorem sample (h : InRetired c) (r0 r1 r2 : Int) : InRetired (c.sample r0 r1 r2) := by
  unfold Cell.sample
  extract_lets n d1 d2 code uv d3 d4 d5
  have s1 : InRetired d1 := h.frame (Cell.Frame.passTo c _)
  have s2 : InRetired d2 := ((s1.capConv _).capConv _).capConv _
  have s3 : InRetired d3 := ite (fun _ => s2.frame (Cell.Frame.warning d2 _ _ _ _)) fun _ => s2
  have s5 : InRetired d5 := s3.frame (Cell.Frame.lit (Cell.Frame.setReg d3 (by decide) _))
  refine ite (fun _ => h) fun _ => ite (fun _ => ?_) fun _ => s5
  rw [s5.freezeExit]
  exact s5

theorem takeRecord (h : InRetired c) (r : CnRec) (l : Latch) (dec : Nat) : InRetired (c.takeRecord r l dec) := by
  unfold Cell.takeRecord
  extract_lets d1 d2
  have s : InRetired d2 := h.frame
    (Cell.Frame.lit ((Cell.Frame.setCause c (by decide) _).trans (Cell.Frame.setCause _ (by decide) _)))
  rw [if_pos s.st]
  exact s

theorem missRecord (h : InRetired c) : InRetired c.missRecord := by
  unfold Cell.missRecord
  extract_lets limit d1 d2
  have s : InRetired d2 := h.frame (Cell.Frame.lit (Cell.Frame.inc c (by decide)))
  rw [if_pos s.st]
  exact s

theorem act (h : InRetired c) (f : Nat) : InRetired (c.act f) := by
  unfold Cell.act
  split
  · exact h.missRecord
  · exact ite (fun e => absurd e (h.st_ne (by decide))) fun _ => ite (fun _ => h) fun _ => h.takeRecord _ _ _

/-- What waits for an apply instant is configuration (R115), which the state is not. -/
theorem applyCfg (h : InRetired c) (hc : c.Sound) : InRetired c.applyCfg := by
  have go : ∀ l : List (Nat × Word), (∀ p ∈ l, 0x800 ≤ p.1) → ∀ c, InRetired c →
      InRetired (l.foldl (fun c p => c.setReg p.1 p.2) c) := by
    intro l hl
    induction l with
    | nil => exact fun c h => h
    | cons p l ih =>
      have hp : p.1 ≠ Reg.CN_SYS_STATE := by
        have := hl p (List.mem_cons_self ..)
        unfold Reg.CN_SYS_STATE
        omega
      exact fun c h => ih (fun q hq => hl q (List.mem_cons_of_mem _ hq)) _ (h.frame (Cell.Frame.setReg c hp p.2))
  have s := go c.pendCfg (fun p hp => (hc.cfg p hp).1) c h
  exact ⟨s.wf, s.st⟩

theorem forceBlocked (h : InRetired c) : InRetired c.forceBlocked := by
  unfold Cell.forceBlocked
  rw [if_neg (h.st_ne (by decide)), h.blockSoft]
  exact ite (fun _ => h) fun _ => h

theorem localAgain (h : InRetired c) : InRetired c.localAgain := by
  unfold Cell.localAgain
  split
  · exact ite (fun _ => ⟨h.wf, h.st⟩) fun _ => h
  · exact h

theorem ownRefresh (h : InRetired c) (f : Nat) : InRetired (c.ownRefresh f) := by
  unfold Cell.ownRefresh
  split
  · exact ite (fun e => absurd e.2.1 (h.st_ne (by decide))) fun _ => h
  · exact h

theorem apply (h : InRetired c) (hc : c.Sound) : InRetired c.apply := by
  unfold Cell.apply
  extract_lets f d1 d2 d3 d4
  have s1 : InRetired d1 := (h.frame (Cell.Frame.passTo c _)).applyCfg (hc.frame (Cell.Frame.passTo c _))
  have s2 : InRetired d2 := ite (fun _ => (s1.retireNow 4).symm ▸ s1) fun _ => s1
  have s4 : InRetired d4 := (s2.forceBlocked.localAgain.act f).ownRefresh f
  exact ite (fun _ => h) fun _ => ⟨s4.wf, s4.st⟩

theorem retireWrite (h : InRetired c) (w : Word) : InRetired (c.retireWrite w) := by
  have s := h.frame (Cell.Frame.protCmd c false w)
  have t := s.frame (Cell.Frame.passTo _ ((c.protCmd false w).applyFrame * (c.protCmd false w).fpU + (c.protCmd false w).applyU))
  exact ite (fun _ => (t.retireNow 4).symm ▸ t) fun _ => s

theorem urgentIn (h : InRetired c) (rx content : Nat) : InRetired (c.urgentIn rx content) := by
  unfold Cell.urgentIn
  extract_lets d1 d2 d3
  have s1 : InRetired d1 := h.foldl _ (fun d o s => s.frame (Cell.Frame.send d _ _)) _
  have s2 : InRetired d2 := s1.frame ((Cell.Frame.inc d1 (by decide)).trans (Cell.Frame.setBit _ (by decide) _ _))
  refine ite (fun _ => h) fun _ => ite (fun _ => s1.frame (Cell.Frame.blockErrs d1 _ _)) fun _ => ite (fun _ => s1) fun _ => ?_
  rw [if_neg (by simp [s2.not_guarded])]
  exact s2

/-! Packets (R138): a Retired cell takes no configuration. -/

theorem plainWrite (h : InRetired c) (cfg : Bool) (a : Nat) (w : Word) : InRetired (c.plainWrite cfg a w) := by
  unfold Cell.plainWrite
  split
  · rename_i r e
    exact ite (fun k => ite (fun _ => ⟨h.wf, h.st⟩) fun _ => h.frame (Cell.Frame.setReg c (Cell.Frame.writable_ne e k) _))
      fun _ => h
  · exact h

theorem wordIn (h : InRetired c) (cfg : Bool) (x : Nat × Word) : InRetired (Cell.wordIn cfg c x) := by
  unfold Cell.wordIn
  obtain ⟨a, w⟩ := x
  dsimp only
  refine ite (fun _ => ite (fun _ => ⟨h.wf, h.st⟩) fun _ => h) fun _ => ite (fun e => ?boundary) fun _ => ?_
  case boundary =>
    refine h.frame (Cell.Frame.boundaryWrite c cfg a w ?_)
    rintro rfl
    exact absurd e (by decide)
  refine ite (fun _ => h.frame (Cell.Frame.setReg c (by decide) _)) fun _ => ?_
  refine ite (fun _ => h.frame (Cell.Frame.setReg c (by decide) _)) fun _ => ?_
  refine ite (fun _ => h.frame (Cell.Frame.setReg c (by decide) _)) fun _ => ?_
  refine ite (fun _ => h.frame (Cell.Frame.setReg c (by decide) _)) fun _ => ?_
  refine ite (fun e => h.frame (Cell.Frame.setReg c (e ▸ by decide) _)) fun _ => ?_
  refine ite (fun e => h.frame (Cell.Frame.lit (Cell.Frame.setReg c (e ▸ by decide) _))) fun _ => ?_
  refine ite (fun e => h.frame (Cell.Frame.lit (Cell.Frame.setReg c (e ▸ by decide) _))) fun _ => ?_
  refine ite (fun _ => h.frame (Cell.Frame.pwmCommit c)) fun _ => ?_
  refine ite (fun _ => h.frame (Cell.Frame.protCmd c _ _)) fun _ => ?_
  refine ite (fun _ => h.freezeWrite w) fun _ => ?_
  refine ite (fun _ => h.frame (Cell.Frame.adcCal c)) fun _ => ?_
  refine ite (fun _ => (h.plainWrite _ _ _).frame (Cell.Frame.hkSync _)) fun _ => ?_
  refine ite (fun _ => h.frame (Cell.Frame.mboxIn c w)) fun _ => ?_
  refine ite (fun _ => h.frame (Cell.Frame.mboxOut c w)) fun _ => ?_
  refine ite (fun _ => h.frame (Cell.Frame.rxcfgWrite c _ w)) fun _ => ?_
  exact ite (fun _ => h.frame (Cell.Frame.rxcfgWrite c _ w)) fun _ => h.plainWrite _ _ _

theorem wordsIn (h : InRetired c) (p : CnPkt) (cfg : Bool) : InRetired (c.wordsIn p cfg).2 := by
  unfold Cell.wordsIn
  dsimp only
  split
  · exact h
  · split
    · exact h.foldl _ (fun d x s => s.frame (Cell.Frame.flagRefused d _ _ x)) _
    · exact h.foldl _ (fun d x s => s.wordIn cfg x) _

/-- A configured cell performs a WRITE, or only looks at a RESET's key. -/
theorem perform (h : InRetired c) {p : CnPkt} (hp : c.opcRefused p = false) : InRetired (c.perform p).2 := by
  have hc : c.configured = true := by simp [Cell.configured, h.st, stRetired, stUnconf]
  unfold Cell.opcRefused at hp
  simp only [hc, if_true, Bool.or_eq_false_iff, beq_eq_false_iff_ne] at hp
  unfold Cell.perform
  split
  · exact h.wordsIn p false
  · exact absurd ‹_› hp.2.1
  · exact absurd ‹_› hp.2.2
  · split
    · exact h
    · split <;> exact h

theorem takePacket (h : InRetired c) {p : CnPkt} (hp : p.opc ≠ 4) : InRetired (c.takePacket p) := by
  unfold Cell.takePacket
  extract_lets ws
  refine ite (fun _ => h.frame (Cell.Frame.answer c _ _ _ _)) fun _ => ite (fun _ => h.frame (Cell.Frame.answer c _ _ _ _))
    fun _ => ite (fun _ => h.frame (Cell.Frame.answer c _ _ _ _)) fun hr => ite (fun _ => h.frame (Cell.Frame.readPacket c p))
      fun _ => ?_
  split
  rename_i st d e
  have s : InRetired d := by
    have := h.perform (Bool.not_eq_true _ ▸ hr)
    rwa [e] at this
  extract_lets d1 d2 d3
  have s1 : InRetired d1 := ite (fun _ => s.frame (Cell.Frame.keepTag d p)) fun _ => s
  rw [if_neg fun e => hp e.1]
  exact s1.frame (Cell.Frame.answer d1 _ _ _ _)

theorem packetIn (h : InRetired c) {ops : Nat → Bool} (hops : ops 4 = false) (p : CnPkt) : InRetired (c.packetIn ops p) := by
  unfold Cell.packetIn
  refine ite (fun _ => h) fun ho => ite
    (fun _ => h.frame ((Cell.Frame.blockErrs c _ _).trans (Cell.Frame.passPacket _ _ _ _ _))) fun _ =>
    ite (fun _ => h.takePacket fun e => ho ?_) fun _ => h.frame (Cell.Frame.passPacket c _ _ _ _)
  simp [e, hops]

end InRetired

/-! ### The operations that reach a cell -/

/-- An operation on cells keeps a cell safe; and a Retired one Retired, unless it is a reset. -/
structure Keeps (isReset : Bool) (f : Cell → Cell) : Prop where
  sound : ∀ c, c.Sound → (f c).Sound
  retired : isReset = false → ∀ c, c.Sound → InRetired c → InRetired (f c)

namespace Keeps

theorem of {f : Cell → Cell} (hs : ∀ c, c.Sound → (f c).Sound) (hr : ∀ c, InRetired c → InRetired (f c)) (b : Bool) :
    Keeps b f := ⟨hs, fun _ c _ => hr c⟩

theorem frame {f : Cell → Cell} (h : ∀ c, Cell.Frame c (f c)) (b : Bool) : Keeps b f :=
  of (fun c s => s.frame (h c)) (fun c s => s.frame (h c)) b

theorem base {f : Cell → Cell} (hs : ∀ c, c.Sound → (f c).Sound) (h : ∀ c, Cell.Base c (f c)) (b : Bool) : Keeps b f :=
  of hs (fun c s => s.base (h c)) b

theorem reset {f : Cell → Cell} (hs : ∀ c, c.Sound → (f c).Sound) : Keeps true f := ⟨hs, fun h => Bool.noConfusion h⟩

end Keeps

/-- A command to the valve processor acts while its clocks run. -/
theorem exec_vp (s : State) {i : Instr} (h : i.target = .vp) : ∃ f, exec i s = .next (s.onVp f) := by
  cases i with
  | trainStageDone l | lossOfSignal l | lossOfClockLock l | lossOfBlockLock l | lossCleared l | highBitErrorRate l
  | adaptWindow l | eyeMeasurement l | fastReadaptEnd l | deepEntry l | signalReturn l | hiBerCleared l
  | pllLossOfLock l | pllRelock l | registerWrite l | tapInstructionLoad l =>
    cases l <;> simp only [Instr.target, reduceCtorEq] at h <;> exact ⟨_, rfl⟩
  | _ => simp only [Instr.target, reduceCtorEq] at h <;> exact ⟨_, rfl⟩

/-- A reset, a clock or the test port of the valve processor needs no running clock. -/
theorem exec_vpAny (s : State) {i : Instr} (h : i.target = .vpAny) : ∃ f, exec i s = .next (s.vpAny f) := by
  cases i with
  | trainStageDone l | lossOfSignal l | lossOfClockLock l | lossOfBlockLock l | lossCleared l | highBitErrorRate l
  | adaptWindow l | eyeMeasurement l | fastReadaptEnd l | deepEntry l | signalReturn l | hiBerCleared l
  | pllLossOfLock l | pllRelock l | registerWrite l | tapInstructionLoad l =>
    cases l <;> simp only [Instr.target, reduceCtorEq] at h <;> exact ⟨_, rfl⟩
  | _ => simp only [Instr.target, reduceCtorEq] at h <;> exact ⟨_, rfl⟩

/-- An operation on a lane of a cell. -/
theorem keeps_onLane (i : Nat) (f : Lane → Lane × List Nat) (b : Bool) : Keeps b (fun c => c.onLane i f) :=
  .frame (fun c => Cell.Frame.onLane c i f) b

theorem keeps_onLaneLat (i ps : Nat) (took : Lane → Lane → Bool) (f : Word → Lane → Lane × List Nat) (b : Bool) :
    Keeps b (fun c => c.onLaneLat i ps took f) := .frame (fun c => Cell.Frame.onLaneLat c i ps took f) b

/-- A command to a cell acts while its clock runs. -/
theorem exec_cell (s : State) {i : Instr} {k : CellRef} (h : i.target = .cell k) :
    ∃ f, exec i s = .next (s.onCell k f) ∧ Keeps (i.resets k) f := by
  cases i with
  | reportAssembled c => cases h; exact ⟨_, rfl, .frame Cell.Frame.assemble _⟩
  | refreshLimitReached c => cases h; exact ⟨_, rfl, .frame Cell.Frame.refreshReached _⟩
  | trainReceived c x => cases h; exact ⟨_, rfl, .frame (fun y => Cell.Frame.trainIn y x) _⟩
  | cnThetaUpdate c => cases h; exact ⟨_, rfl, .frame Cell.Frame.timeUpdate _⟩
  | cnAdcCal c => cases h; exact ⟨_, rfl, .frame Cell.Frame.adcCal _⟩
  | cnRecalStageDone c => cases h; exact ⟨_, rfl, .frame Cell.Frame.recalStage _⟩
  | pwmCommit c => cases h; exact ⟨_, rfl, .frame Cell.Frame.pwmCommit _⟩
  | clearParityCause c => cases h; exact ⟨_, rfl, .frame Cell.Frame.parityClear _⟩
  | gateSupplyRestored c => cases h; exact ⟨_, rfl, .frame Cell.Frame.supplyBack _⟩
  | cnChatterCleared c pin => cases h; exact ⟨_, rfl, .frame (fun y => Cell.Frame.chatterOff y pin) _⟩
  | bypFastAssert c => cases h; exact ⟨_, rfl, .frame Cell.Frame.bypFast _⟩
  | bypMechAssert c => cases h; exact ⟨_, rfl, .frame Cell.Frame.bypMech _⟩
  | delayLineCalibration c dl => cases h; exact ⟨_, rfl, .frame (fun y => Cell.Frame.delayCal y dl) _⟩
  | overrideAtBoundary c => cases h; exact ⟨_, rfl, .frame Cell.Frame.overrideAt _⟩
  | closeAtBoundary c => cases h; exact ⟨_, rfl, .frame Cell.Frame.closeAt _⟩
  | timeChangeAtBoundary c => cases h; exact ⟨_, rfl, .frame Cell.Frame.timeChangeAt _⟩
  | cellLossOfSignal c side => cases h; exact ⟨_, rfl, .frame (fun y => Cell.Frame.lossSeen y side) _⟩
  | orphanTimeout c side => cases h; exact ⟨_, rfl, .frame (fun y => Cell.Frame.orphaned y side) _⟩
  | mboxInWrite c w => cases h; exact ⟨_, rfl, .frame (fun y => Cell.Frame.mboxIn y w) _⟩
  | mboxOutWrite c w => cases h; exact ⟨_, rfl, .frame (fun y => Cell.Frame.mboxOut y w) _⟩
  | hkMemoryError c => cases h; exact ⟨_, rfl, .frame Cell.Frame.hkError _⟩
  | sampleInstant c r0 r1 r2 => cases h; exact ⟨_, rfl, .of (fun _ s => s.sample r0 r1 r2) (fun _ s => s.sample r0 r1 r2) _⟩
  | urgentBlockReceived c rx content => cases h; exact ⟨_, rfl, .of (fun _ s => s.urgentIn rx content) (fun _ s => s.urgentIn rx content) _⟩
  | cnRetireCommand c w => cases h; exact ⟨_, rfl, .of (fun _ s => s.retireWrite w) (fun _ s => s.retireWrite w) _⟩
  | cnCalibrationDone c => cases h; exact ⟨_, rfl, .of (fun _ s => s.calDone) (fun _ s => s.calDone) _⟩
  | cnFreeze c w => cases h; exact ⟨_, rfl, .of (fun _ s => s.freezeWrite w) (fun _ s => s.freezeWrite w) _⟩
  | desatTrip c b chat => cases h; exact ⟨_, rfl, .of (fun _ s => s.desat b chat) (fun _ s => s.desat b chat) _⟩
  | overVoltageTrip c raws => cases h; exact ⟨_, rfl, .of (fun _ s => s.overVoltage raws) (fun _ s => s.overVoltage raws) _⟩
  | auxResult c ch raws => cases h; exact ⟨_, rfl, .of (fun _ s => s.auxResult ch raws) (fun _ s => s.auxResult ch raws) _⟩
  | gateSupplyLost c chat => cases h; exact ⟨_, rfl, .of (fun _ s => s.supplyLost chat) (fun _ s => s.supplyLost chat) _⟩
  | configParityError c => cases h; exact ⟨_, rfl, .of (fun _ s => s.parityError) (fun _ s => s.parityError) _⟩
  | capacitorHigh c raw => cases h; exact ⟨_, rfl, .of (fun _ s => s.capConv raw) (fun _ s => s.capConv raw) _⟩
  | mgRead c p => cases h; exact ⟨_, rfl, .of (fun _ s => s.packetIn _ p) (fun _ s => s.packetIn rfl p) _⟩
  | mgWrite c p => cases h; exact ⟨_, rfl, .of (fun _ s => s.packetIn _ p) (fun _ s => s.packetIn rfl p) _⟩
  | mgConfig c p => cases h; exact ⟨_, rfl, .of (fun _ s => s.packetIn _ p) (fun _ s => s.packetIn rfl p) _⟩
  | mgConfigEnd c p => cases h; exact ⟨_, rfl, .of (fun _ s => s.packetIn _ p) (fun _ s => s.packetIn rfl p) _⟩
  | mgReservedOpcode c p => cases h; exact ⟨_, rfl, .of (fun _ s => s.packetIn _ p) (fun _ s => s.packetIn rfl p) _⟩
  | applyInstant c => cases h; exact ⟨_, rfl, fun _ s => s.apply, fun _ _ s r => r.apply s⟩
  | gateEdgeDue c => cases h; exact ⟨_, rfl, .base (fun _ s => s.gateEdge) (fun y => Cell.Base.edgeDue y _) _⟩
  | trimCarrierStart c => cases h; exact ⟨_, rfl, .base (fun _ s => s.carrierStart) Cell.Base.carrierStart _⟩
  | cnFreezeExit c => cases h; exact ⟨_, rfl, .of (fun _ s => s.freezeExit) (fun _ s => s.freezeExit.symm ▸ s) _⟩
  | mgReset c p =>
    cases h
    have e : (Instr.mgReset k p).resets k = true := beq_self_eq_true k
    exact ⟨_, rfl, e ▸ .reset fun _ s => s.packetIn _ p⟩
  | pllLossOfLock l g =>
    cases l with
    | cell c => cases h; exact ⟨_, rfl, .frame (fun y => Cell.Frame.lit (Cell.Frame.refl y)) _⟩
    | root | quad => cases h
  | trainStageDone l =>
    cases l with
    | cell c j => cases h; exact ⟨_, rfl, .frame (fun y => Cell.Frame.stageDone y j _ _ _ _) _⟩
    | vp => cases h
  | registerWrite l a w =>
    cases l with
    | hk c => cases h; exact ⟨_, rfl, .frame (fun y => Cell.Frame.hkWrite y a w) _⟩
    | vp => cases h
  | lossOfSignal l | lossOfClockLock l | lossOfBlockLock l | highBitErrorRate l | adaptWindow l | eyeMeasurement l
  | fastReadaptEnd l | deepEntry l | hiBerCleared l =>
    cases l with
    | cell c j => cases h; exact ⟨_, rfl, keeps_onLane j _ _⟩
    | vp => cases h
  | lossCleared l | signalReturn l =>
    cases l with
    | cell c j => cases h; exact ⟨_, rfl, keeps_onLaneLat j _ _ _ _⟩
    | vp => cases h
  | pllRelock l | tapInstructionLoad l => cases l <;> cases h
  | _ => cases h

/-- A reset of a cell, its relocked PLL, or its test port. -/
theorem exec_cellAny (s : State) {i : Instr} {k : CellRef} (h : i.target = .cellAny k) :
    ∃ f, exec i s = .next (s.cellAny k f) ∧ Keeps (i.resets k) f := by
  cases i with
  | cnPowerOnReset c b =>
    cases h
    have e : (Instr.cnPowerOnReset k b).resets k = true := beq_self_eq_true k
    exact ⟨_, rfl, e ▸ .reset fun c _ => Cell.Sound.resetCell _ _⟩
  | laneWatchdog c =>
    cases h
    have e : (Instr.laneWatchdog k).resets k = true := beq_self_eq_true k
    exact ⟨_, rfl, e ▸ .reset fun c _ => Cell.Sound.resetCell c _⟩
  | pllRelock l g w =>
    cases l with
    | cell c =>
      cases h
      have e : (Instr.pllRelock (.cell k) g w).resets k = true := beq_self_eq_true k
      exact ⟨_, rfl, e ▸ .reset fun c s => s.pllBack⟩
    | root | quad => cases h
  | tapInstructionLoad l t =>
    cases l with
    | some c => cases h; exact ⟨_, rfl, .of (fun _ s => s.tapLoad t) (fun _ s => ⟨s.wf, s.st⟩) _⟩
    | none => cases h
  | trainStageDone l | lossOfSignal l | lossOfClockLock l | lossOfBlockLock l | lossCleared l | highBitErrorRate l
  | adaptWindow l | eyeMeasurement l | fastReadaptEnd l | deepEntry l | signalReturn l | hiBerCleared l
  | pllLossOfLock l | registerWrite l => cases l <;> cases h
  | _ => cases h

/-! ### What a command keeps of the whole state -/

/-- From `s` to `t` the queue stands, a safe state stays safe, and the cells of which `r` says so stay Retired. -/
structure Kept (r : CellRef → Prop) (s t : State) : Prop where
  pending : t.pending = s.pending
  safe : s.safe = true → t.safe = true
  retired : ∀ k, r k → s.safe = true → (s.cell k).st = stRetired → (t.cell k).st = stRetired

namespace Kept

variable {r : CellRef → Prop} {s t u : State}

theorem refl (r : CellRef → Prop) (s : State) : Kept r s s := ⟨rfl, id, fun _ _ _ h => h⟩

theorem trans (h : Kept r s t) (g : Kept r t u) : Kept r s u :=
  ⟨g.pending.trans h.pending, fun hs => g.safe (h.safe hs),
    fun k hk hs hr => g.retired k hk (h.safe hs) (h.retired k hk hs hr)⟩

theorem vpAny (r : CellRef → Prop) (s : State) (f : Vp → Vp) : Kept r s (s.vpAny f) :=
  ⟨rfl, fun h => State.safe_vpAny h f, fun _ _ _ h => h⟩

theorem onVp (r : CellRef → Prop) (s : State) (f : Vp → Vp) : Kept r s (s.onVp f) :=
  ⟨s.onVp_pending f, fun h => State.safe_onVp h f, fun k _ _ h => by
    rwa [State.cell, s.onVp_cells f]⟩

theorem cellAny (s : State) {k : CellRef} {b : Bool} {f : Cell → Cell} (hf : Keeps b f)
    (hr : ∀ d, r d → cellKey d = cellKey k → b = false) : Kept r s (s.cellAny k f) where
  pending := rfl
  safe h := State.safe_cellAny h k hf.sound
  retired d hd hs hst := by
    by_cases e : cellKey d = cellKey k
    · have same : ∀ t : State, t.cell d = t.cell k := fun t => by rw [State.cell, State.cell, e]
      have sound := State.sound_cell hs k
      rw [same] at hst ⊢
      exact (State.cell_setCell_same s k _) ▸ (hf.retired (hr d hd e) _ sound ⟨sound.wf, hst⟩).st
    · rwa [s.cell_cellAny_other f e]

theorem onCell (s : State) {k : CellRef} {b : Bool} {f : Cell → Cell} (hf : Keeps b f)
    (hr : ∀ d, r d → cellKey d = cellKey k → b = false) : Kept r s (s.onCell k f) := by
  unfold State.onCell
  split
  · exact refl r s
  · exact cellAny s hf hr

theorem onCell_frame (r : CellRef → Prop) (s : State) (k : CellRef) {f : Cell → Cell} (hf : ∀ c, Cell.Frame c (f c)) :
    Kept r s (s.onCell k f) := onCell s (.frame hf false) fun _ _ _ => rfl

theorem foldl {α : Type} (f : State → α → State) (hf : ∀ t a, Kept r t (f t a)) (l : List α) (s : State) :
    Kept r s (l.foldl f s) := by
  induction l generalizing s with
  | nil => exact refl r s
  | cons a l ih => exact (hf s a).trans (ih _)

theorem hopStart (r : CellRef → Prop) (s : State) (m h : Nat) (far : Bool) : Kept r s (s.hopStart m h far) := by
  unfold State.hopStart
  dsimp only
  split
  · exact (onVp r s _).trans (onCell_frame r _ _ fun c => Cell.Frame.hopStart c _)
  · exact onVp r s _

theorem hopConfirm (r : CellRef → Prop) (s : State) (m h : Nat) (far : Bool) (blk : Nat) :
    Kept r s (s.hopConfirm m h far blk) := by
  unfold State.hopConfirm
  split
  · exact (onCell_frame r s _ fun c => Cell.Frame.hopConfirm c _ _).trans (onVp r _ _)
  · exact onVp r s _

theorem hopTimeout (r : CellRef → Prop) (s : State) (m h : Nat) : Kept r s (s.hopTimeout m h) := by
  unfold State.hopTimeout
  dsimp only
  split
  · refine (onVp r s _).trans (foldl _ (fun t far => ?_) _ _)
    split
    · exact onCell_frame r t _ fun c => Cell.Frame.hopBroken c _
    · exact refl r t
  · exact onVp r s _

end Kept

/-- A command to both ends of a hop. -/
theorem exec_hop (r : CellRef → Prop) (s : State) {i : Instr} (h : i.target = .hop) :
    ∃ t, exec i s = .next t ∧ Kept r s t := by
  cases i with
  | hopTrainStart m j far => exact ⟨_, rfl, .hopStart r s m j far⟩
  | hopConfirm m j far blk => exact ⟨_, rfl, .hopConfirm r s m j far blk⟩
  | hopTimeout m j => exact ⟨_, rfl, .hopTimeout r s m j⟩
  | trainStageDone l | lossOfSignal l | lossOfClockLock l | lossOfBlockLock l | lossCleared l | highBitErrorRate l
  | adaptWindow l | eyeMeasurement l | fastReadaptEnd l | deepEntry l | signalReturn l | hiBerCleared l
  | pllLossOfLock l | pllRelock l | registerWrite l | tapInstructionLoad l => cases l <;> cases h
  | _ => cases h

/-- Every command answers a next state, which keeps the queue, the safety of the cells, and Retired but for a reset. -/
theorem exec_keeps (i : Instr) (s : State) :
    ∃ t, exec i s = .next t ∧ Kept (fun k => ∀ d, i.resets d = true → cellKey d ≠ cellKey k) s t := by
  have noReset : ∀ k d : CellRef, (∀ d, i.resets d = true → cellKey d ≠ cellKey k) → cellKey k = cellKey d →
      i.resets d = false := fun k d h e => Bool.eq_false_iff.mpr fun hd => h d hd e.symm
  match h : i.target with
  | .vp =>
    obtain ⟨f, hf⟩ := exec_vp s h
    exact ⟨_, hf, .onVp _ s f⟩
  | .vpAny =>
    obtain ⟨f, hf⟩ := exec_vpAny s h
    exact ⟨_, hf, .vpAny _ s f⟩
  | .cell k =>
    obtain ⟨f, hf, keeps⟩ := exec_cell s h
    exact ⟨_, hf, .onCell s keeps fun d hd => noReset d k hd⟩
  | .cellAny k =>
    obtain ⟨f, hf, keeps⟩ := exec_cellAny s h
    exact ⟨_, hf, .cellAny s keeps fun d hd => noReset d k hd⟩
  | .hop => exact exec_hop _ s h

theorem exec_next_keeps {i : Instr} {s t : State} (h : exec i s = .next t) :
    Kept (fun k => ∀ d, i.resets d = true → cellKey d ≠ cellKey k) s t := by
  obtain ⟨u, hu, keeps⟩ := exec_keeps i s
  obtain rfl : t = u := by simpa [h] using hu
  exact keeps

/-- A step is its command on the queue's rest, or a tick. -/
theorem step_cases (s : State) : (s.pending = [] ∧ step s = .next (s.vpAny Vp.clockTick))
    ∨ ∃ c rest, s.pending = c :: rest ∧ step s = exec c { s with pending := rest } := by
  unfold step
  split
  · exact .inl ⟨‹_›, rfl⟩
  · exact .inr ⟨_, _, ‹_›, rfl⟩

/-! ### The statements -/

/-- Settles O4: a command keeps the safety of the cells, whatever it acts on, and a tick touches no cell. -/
theorem stepKeepsSafe : Obligations.StepKeepsSafe := by
  intro s t hs h
  obtain ⟨_, e⟩ | ⟨c, rest, _, e⟩ := step_cases s
  · obtain rfl : s.vpAny Vp.clockTick = t := by simpa [h] using e.symm
    exact State.safe_vpAny hs _
  · exact (exec_next_keeps (e.symm.trans h)).safe (State.safe_congr hs rfl)

/-- Settles O6: no operation on a cell but a reset leads out of Retired. -/
theorem retiredUntilReset : Obligations.RetiredUntilReset :=
  fun _ _ _ k hs h hst hr => (exec_next_keeps h).retired k hr hs hst

/-- Settles O2: a command acts by one operation on the part that its target names. -/
theorem partsApart : Obligations.PartsApart := by
  intro s t i h
  have pending := (exec_next_keeps h).pending
  have next : ∀ u, exec i s = .next u → t = u := fun u hu => by simpa [h] using hu
  refine ⟨fun k hk => ?cell, fun hv => ⟨?vp, pending⟩⟩
  case cell =>
    obtain hk | hk := hk
    · obtain ⟨f, hf, _⟩ := exec_cell s hk
      rw [next _ hf]
      exact ⟨s.onCell_vp k f, s.onCell_pending k f, fun d hd => s.cell_onCell_other f hd⟩
    · obtain ⟨f, hf, _⟩ := exec_cellAny s hk
      rw [next _ hf]
      exact ⟨rfl, rfl, fun d hd => s.cell_cellAny_other f hd⟩
  case vp =>
    obtain hv | hv := hv
    · obtain ⟨f, hf⟩ := exec_vp s hv
      rw [next _ hf, s.onVp_cells]
    · obtain ⟨f, hf⟩ := exec_vpAny s hv
      rw [next _ hf, s.vpAny_cells]

/-- Settles O3: an operation that needs a running clock does nothing where the clock has stopped. -/
theorem stoppedPartsStand : Obligations.StoppedPartsStand := by
  refine fun s i => ⟨fun hv stopped => ?_, fun k hk stopped => ?_⟩
  · obtain ⟨f, hf⟩ := exec_vp s hv
    rw [hf, State.onVp_stopped stopped]
  · obtain ⟨f, hf, _⟩ := exec_cell s hk
    rw [hf, State.onCell_stopped stopped]

/-- Settles O1. -/
theorem stepRunsFront : Obligations.StepRunsFront := by
  refine ⟨⟨fun s c rest => rfl, fun s h => ?_, rfl⟩, fun s => ?_⟩
  · unfold step
    rw [h]
    rfl
  · obtain ⟨h, e⟩ | ⟨c, rest, h, e⟩ := step_cases s
    · exact ⟨_, e, by rw [s.vpAny_pending, h, List.tail_nil]⟩
    · obtain ⟨t, ht, keeps⟩ := exec_keeps c { s with pending := rest }
      exact ⟨t, e.trans ht, by rw [keeps.pending, h, List.tail_cons]⟩

/-- Settles O5: no cell has been touched at reset, and nothing waits in the valve processor. -/
theorem resetSafe : Obligations.ResetSafe := by
  refine ⟨rfl, by decide, fun k => ⟨?_, rfl, ?_⟩⟩
  · show ({} : Cell).st = stUnconf
    decide
  · show ({} : Cell).bypPins = none
    decide

end Sys2Proof.Proofs
end

section
/-!
PROOFS. The decision: exactly K candidates insert under the record that encodes them (R51, R52, R59), and K with the trim
duty makes up the level (R50).

The insertion order compares one number per candidate, its key; the keys are distinct, so that one candidate has exactly K
before it, and the record names its code and hash as the threshold.
-/

namespace Sys2Proof.Proofs

open Sys2Proof Sys2Proof.Machine

/-! ### The insertion order -/

/-- A candidate's place in the insertion order, as one number (R51). -/
def orderKey (dir : Bool) (c : Cand) : Nat := (if dir then 1023 - c.code else c.code) * 65536 + c.h

/-- The code and the hash lie in their fields of the record (R56). -/
def Encodable (c : Cand) : Prop := c.code < 1024 ∧ c.h < 65536

theorem before_eq_orderKey_lt {dir : Bool} {a b : Cand} (ha : Encodable a) (hb : Encodable b) :
    before dir a b = decide (orderKey dir a < orderKey dir b) := by
  obtain ⟨ha, ha'⟩ := ha
  obtain ⟨hb, hb'⟩ := hb
  rw [Bool.eq_iff_iff]
  cases dir <;> simp [before, orderKey] <;> omega

/-- The hashes of candidates are distinct, so that their keys are. -/
theorem orderKey_nodup {dir : Bool} {cs : List Cand} (hn : (cs.map (·.h)).Nodup) (hc : ∀ c ∈ cs, Encodable c) :
    (cs.map (orderKey dir)).Nodup := by
  have mod : (cs.map (orderKey dir)).map (· % 65536) = cs.map (·.h) := by
    rw [List.map_map]
    refine List.map_congr_left fun c m => ?_
    have := (hc c m).2
    simp only [Function.comp, orderKey]
    omega
  exact List.Nodup.of_map _ (mod ▸ hn)

/-- In a strictly rising list, the numbers below the one at place `k` are the `k` before it. -/
theorem length_filter_lt_getElem {l : List Nat} (hl : l.Pairwise (· < ·)) {k : Nat} (hk : k < l.length) :
    (l.filter (· < l[k])).length = k := by
  have split : l = l.take k ++ l[k] :: l.drop (k + 1) := by
    rw [List.getElem_cons_drop, List.take_append_drop]
  have lt : ∀ x ∈ l.take k, x < l[k] := by
    rw [split, List.pairwise_append] at hl
    exact fun x hx => hl.2.2 x hx _ (List.mem_cons_self ..)
  have gt : ∀ x ∈ l.drop (k + 1), l[k] < x := by
    rw [split, List.pairwise_append] at hl
    exact (List.pairwise_cons.mp hl.2.1).1
  generalize l[k] = y at split lt gt
  rw [split, List.filter_append, List.filter_eq_self.mpr (by simpa using lt), List.filter_cons_of_neg (by simp),
    List.filter_eq_nil_iff.mpr (fun x hx => by simpa using (gt x hx).le), List.append_nil, List.length_take]
  omega

/-- Of distinct numbers, one has exactly `k` below it. -/
theorem exists_rank {l : List Nat} (hn : l.Nodup) {k : Nat} (hk : k < l.length) :
    ∃ x ∈ l, (l.filter (· < x)).length = k := by
  have perm := List.perm_insertionSort (· ≤ ·) l
  have sorted : (l.insertionSort (· ≤ ·)).Pairwise (· < ·) :=
    ((List.pairwise_insertionSort (· ≤ ·) l).and (perm.nodup_iff.mpr hn)).imp fun h => lt_of_le_of_ne h.1 h.2
  have hk' : k < (l.insertionSort (· ≤ ·)).length := perm.length_eq ▸ hk
  refine ⟨(l.insertionSort (· ≤ ·))[k], perm.mem_iff.mp (List.getElem_mem hk'), ?_⟩
  rw [← (perm.filter _).length_eq]
  exact length_filter_lt_getElem sorted hk'

theorem ahead_eq_length_filter {dir : Bool} {cs : List Cand} (hc : ∀ c ∈ cs, Encodable c) {c : Cand} (m : c ∈ cs) :
    ahead dir cs c = ((cs.map (orderKey dir)).filter (· < orderKey dir c)).length := by
  rw [List.filter_map, List.length_map]
  exact congrArg List.length (List.filter_congr fun x hx => before_eq_orderKey_lt (hc x hx) (hc c m))

/-- With fewer than all candidates to insert, one has rank K + 1 (R51). -/
theorem rankCand_of_lt {dir : Bool} {cs : List Cand} (hn : (cs.map (·.h)).Nodup) (hc : ∀ c ∈ cs, Encodable c) {k : Nat}
    (hk : k < cs.length) : ∃ c ∈ cs, rankCand dir cs k = some c ∧ ahead dir cs c = k := by
  obtain ⟨x, hx, count⟩ := exists_rank (orderKey_nodup hn hc) (by rwa [List.length_map])
  obtain ⟨c, m, rfl⟩ := List.mem_map.mp hx
  cases e : rankCand dir cs k with
  | none =>
    have := List.find?_eq_none.mp e c m
    rw [ahead_eq_length_filter hc m, count] at this
    simp at this
  | some d => exact ⟨d, List.mem_of_find?_eq_some e, rfl, by simpa using List.find?_some e⟩

/-- Every candidate has a place, so that none has all of them before it. -/
theorem ahead_lt_length {dir : Bool} {cs : List Cand} {c : Cand} (m : c ∈ cs) : ahead dir cs c < cs.length :=
  List.length_filter_lt_length_iff_exists.mpr ⟨c, m, by cases dir <;> simp [before]⟩

theorem rankCand_of_le {dir : Bool} {cs : List Cand} {k : Nat} (hk : cs.length ≤ k) : rankCand dir cs k = none :=
  List.find?_eq_none.mpr fun c m => by
    have := ahead_lt_length (dir := dir) m
    simp
    omega

/-! ### The record -/

theorem b2n_lt (b : Bool) : b2n b < 2 := by cases b <;> decide

theorem w0Mode_recW0 {mode : Nat} {dir : Bool} {b c : Nat} (hm : mode < 8) (hb : b < 1024) (hc : c < 65536) :
    w0Mode (recW0 mode dir b c) = mode := by
  have := b2n_lt dir
  simp only [w0Mode, recW0]
  omega

theorem w0B_recW0 {mode : Nat} {dir : Bool} {b c : Nat} (hb : b < 1024) (hc : c < 65536) :
    w0B (recW0 mode dir b c) = b := by
  have := b2n_lt dir
  simp only [w0B, recW0]
  omega

theorem w0C_recW0 {mode : Nat} {dir : Bool} {b c : Nat} (hc : c < 65536) : w0C (recW0 mode dir b c) = c := by
  simp only [w0C, recW0]
  omega

theorem w0Dir_recW0 {mode : Nat} {dir : Bool} {b c : Nat} (hb : b < 1024) (hc : c < 65536) :
    w0Dir (recW0 mode dir b c) = dir := by
  rw [w0Dir, Nat.testBit_eq_decide_div_mod_eq]
  have bit : recW0 mode dir b c / 2 ^ 28 % 2 = b2n dir := by
    have := b2n_lt dir
    simp only [recW0]
    omega
  rw [bit]
  cases dir <;> rfl

/-- Under a threshold record without a trim cell, the candidates before the one of rank K + 1 insert (R52, R59). -/
theorem recCmd_threshold {dir : Bool} {b : Cand} (hb : Encodable b) (a : Cand) :
    (recCmd (recW0 modeNormal dir b.code b.h) 0 a == 2) = before dir a b := by
  obtain ⟨hb, hb'⟩ := hb
  unfold recCmd
  rw [w0Mode_recW0 (by decide) hb hb', w0Dir_recW0 hb hb', w0B_recW0 hb hb', w0C_recW0 hb']
  have e : inserts dir b.code b.h a.code a.h = before dir a b := by cases dir <;> rfl
  rw [e]
  cases before dir a b <;> simp [w2TrimV, modeNormal, modeAll]

theorem recCmd_all (dir : Bool) (a : Cand) : recCmd (recW0 modeAll dir 0 0) 0 a = 2 := by
  unfold recCmd
  rw [w0Mode_recW0 (by decide) (by decide) (by decide)]
  simp [w2TrimV]

/-! ### The statements -/

/-- Settles O18: the candidate of rank K + 1 is the threshold, and the K candidates before it are those that insert; when
every candidate is to insert, the all mode is sent. -/
theorem exactCount : Obligations.ExactCount := by
  intro dir cs k h seq ksel hk hn hc w ins
  obtain hk | hk := Nat.lt_or_ge k cs.length
  · obtain ⟨c, m, hrank, hahead⟩ := rankCand_of_lt (dir := dir) hn hc hk
    have hins : ins = fun a => before dir a c := by
      funext a
      simp only [ins, w, encodeRecord, hrank]
      exact recCmd_threshold (hc c m) a
    rw [hins]
    refine ⟨hahead, fun a ha b hb hac hbc => ?_⟩
    have hac := (before_eq_orderKey_lt (hc a ha) (hc c m)).symm.trans hac
    have hbc := (before_eq_orderKey_lt (hc b hb) (hc c m)).symm.trans hbc
    rw [decide_eq_true_eq] at hac
    rw [decide_eq_false_iff_not] at hbc
    rw [before_eq_orderKey_lt (hc a ha) (hc b hb), decide_eq_true_eq]
    omega
  · have hins : ins = fun _ => true := by
      funext a
      simp only [ins, w, encodeRecord, rankCand_of_le hk]
      rw [recCmd_all]
      rfl
    rw [hins]
    exact ⟨by rw [List.filter_true]; omega, fun _ _ _ _ _ e => Bool.noConfusion e⟩

/-- Settles O19: what the held cells leave of the level is divided into whole cells and the rest of one. -/
theorem levelSplit : Obligations.LevelSplit := by
  intro l cells h dHeld ncand fixed v
  simp only [v, levelOf, if_true, Bool.or_eq_false_iff, decide_eq_false_iff_not, Bool.and_eq_false_iff, Bool.not_eq_false',
    Bool.and_eq_true, Bool.not_eq_true', decide_eq_true_eq, beq_iff_eq, beq_eq_false_iff_ne]
  refine ⟨?_, Nat.min_le_right _ _, ?_, ?_⟩
  · rintro ⟨⟨⟨h1, h2⟩, h3⟩, h4⟩
    rw [if_neg]
    · omega
    · rintro ⟨⟨hk, hd⟩, hf⟩
      obtain (h4 | h4) | h4 := h4
      · exact h4 hk
      · exact h4 hd
      · simp [hf] at h4
  · split <;> omega
  · intro h1 h2 h3
    exact ⟨⟨by omega, by omega⟩, .inl (.inl (by omega))⟩

end Sys2Proof.Proofs
end

section
/-!
PROOFS. Outputs and integrators of the loop engines keep their limits (R239, R240).
-/

namespace Sys2Proof.Proofs

open Sys2Proof Sys2Proof.Machine

/-! ### Signed registers -/

/-- A signed number of 32 bits stands in a register as it is (R233). -/
theorem sgn_w32_twos {x : Int} (h : -2147483648 ≤ x) (h' : x < 2147483648) : sgn 32 (w32 (twos 32 x)).toNat = x := by
  simp only [sgn, w32, twos, BitVec.toNat_ofNat]
  split <;> omega

theorem int_setInt_same (v : Vp) (a : Nat) {x : Int} (h : -2147483648 ≤ x) (h' : x < 2147483648) :
    (v.setInt a x).int a = x := by
  rw [Vp.int, Vp.setInt, Vp.reg_setReg_same, sgn_w32_twos h h']

theorem int_setInt_other (v : Vp) {a b : Nat} (x : Int) (h : b ≠ a) : (v.setInt a x).int b = v.int b := by
  rw [Vp.int, Vp.setInt, Vp.reg_setReg_other _ _ h, Vp.int]

theorem int_slotSticky_other (v : Vp) {b : Nat} (i fl : Nat) (h : b ≠ Reg.LOOP_SLOT_STICKY i) :
    (v.slotSticky i fl).int b = v.int b := by
  rw [Vp.int, Vp.slotSticky, Vp.orReg, Vp.reg_setReg_other _ _ h, Vp.int]

/-! ### Limits -/

theorem clampI_mem {lo hi : Int} (h : lo ≤ hi) (x : Int) : lo ≤ clampI lo hi x ∧ clampI lo hi x ≤ hi := by
  unfold clampI
  split
  · omega
  · split <;> omega

/-- A limit is a Q1.14 value on the scale of Q1.30 (R245). -/
theorem limit_range (v : Vp) (i off lo : Nat) : -2147483648 ≤ v.limit i off lo ∧ v.limit i off lo < 2147483648 := by
  have : v.fld (v.bankBase i + off) lo 16 < 2 ^ 16 := fld_lt _ _ _
  simp only [Vp.limit, sgn]
  split <;> omega

/-- A value between two limits is one of 32 bits. -/
theorem int_setInt_of_mem (v u : Vp) (a : Nat) {i off lo hi : Nat} {x : Int} (h : u.limit i off lo ≤ x)
    (h' : x ≤ u.limit i off hi) : (v.setInt a x).int a = x :=
  int_setInt_same v a ((limit_range u i off lo).1.trans h) (h'.trans_lt (limit_range u i off hi).2)

/-- The registers that the laws write beside the output. -/
theorem slotOut_ne (i : Nat) : Reg.LOOP_SLOT_OUT i ≠ Reg.LOOP_SLOT_RPREV i ∧ Reg.LOOP_SLOT_OUT i ≠ Reg.LOOP_SLOT_STICKY i
    ∧ Reg.LOOP_SLOT_INT i ≠ Reg.LOOP_SLOT_RPREV i ∧ Reg.LOOP_SLOT_INT i ≠ Reg.LOOP_SLOT_STICKY i
    ∧ Reg.LOOP_SLOT_INT i ≠ Reg.LOOP_SLOT_OUT i := by
  unfold Reg.LOOP_SLOT_OUT Reg.LOOP_SLOT_RPREV Reg.LOOP_SLOT_STICKY Reg.LOOP_SLOT_INT
  omega

/-- The last steps of both laws: the clamped output is stored, then the reference and the flags (R239, R240). -/
theorem int_out_of_stored (v : Vp) {u : Vp} (i : Nat) (x r : Int) (fl : Nat) (h : u.outLo i ≤ u.outHi i) :
    let o := (((v.setInt (Reg.LOOP_SLOT_OUT i) (u.outClamp i x).val).setInt (Reg.LOOP_SLOT_RPREV i) r).slotSticky i fl).int
      (Reg.LOOP_SLOT_OUT i)
    u.outLo i ≤ o ∧ o ≤ u.outHi i := by
  obtain ⟨hr, hs, _, _, _⟩ := slotOut_ne i
  have clamped : u.outLo i ≤ (u.outClamp i x).val ∧ (u.outClamp i x).val ≤ u.outHi i := clampI_mem h x
  rw [int_slotSticky_other _ _ _ hs, int_setInt_other _ _ hr, int_setInt_of_mem _ u _ clamped.1 clamped.2]
  exact clamped

/-! ### The statement -/

/-- Settles O15: both laws store a clamped output, and the PI law an integrator that is clamped or stays (R239, R240). -/
theorem loopLimits : Obligations.LoopLimits := by
  intro v i l _ hout
  refine ⟨?pi, ?biquad⟩
  case biquad =>
    exact int_out_of_stored _ i _ _ _ hout
  case pi =>
    intro u
    obtain ⟨hlo, hhi⟩ := int_out_of_stored (u := v) _ i _ _ _ hout
    refine ⟨hlo, hhi, fun hmin hmax => ?_⟩
    obtain ⟨_, _, hr, hs, ho⟩ := slotOut_ne i
    simp only [u, Vp.runPi]
    rw [int_slotSticky_other _ _ _ hs, int_setInt_other _ _ hr, int_setInt_other _ _ ho]
    split
    · exact (int_setInt_of_mem v v _ hmin hmax).symm ▸ ⟨hmin, hmax⟩
    · have h := clampI_mem (hmin.trans hmax)
      exact (int_setInt_of_mem v v _ (h _).1 (h _).2).symm ▸ h _

end Sys2Proof.Proofs
end

section
/-!
PROOFS. What raising a fault leaves of the valve processor; the order of inputs, posts, and the placing of ready items (O21,
O22).
-/

namespace Sys2Proof.Proofs

open Sys2Proof Sys2Proof.Machine

/-! ### What raising a fault leaves -/

/-- `u` is `v` but for registers, fault marks, and what waits in the inbox and for the hosts: all that a fault changes. -/
def SameButReports (v u : Vp) : Prop :=
  u = { v with regs := u.regs, flt := u.flt, inbox := u.inbox, evq := u.evq, evLost := u.evLost }

namespace SameButReports

variable {v u x : Vp}

theorem refl (v : Vp) : SameButReports v v := rfl

theorem trans (h : SameButReports v u) (g : SameButReports u x) : SameButReports v x :=
  Eq.trans g (by conv_lhs => rw [h])

theorem sets (h : SameButReports v u) :
    u = { v with regs := u.regs, flt := u.flt, inbox := u.inbox, evq := u.evq, evLost := u.evLost } := h

theorem sched (h : SameButReports v u) : u.sched = v.sched := (congrArg Vp.sched h.sets :)
theorem arms (h : SameButReports v u) : u.arms = v.arms := (congrArg Vp.arms h.sets :)
theorem host (h : SameButReports v u) : u.host = v.host := (congrArg Vp.host h.sets :)
theorem trip (h : SameButReports v u) : u.trip = v.trip := (congrArg Vp.trip h.sets :)
theorem launched (h : SameButReports v u) : u.launched = v.launched := (congrArg Vp.launched h.sets :)

theorem setReg (v : Vp) (a : Nat) (w : Word) : SameButReports v (v.setReg a w) := rfl

theorem setBit (v : Vp) (a i : Nat) (b : Bool) : SameButReports v (v.setBit a i b) := rfl

theorem post (v : Vp) (i : Input) : SameButReports v (v.post i) := rfl

theorem portEntry (v : Vp) (p : Nat) (e : EvEntry) : SameButReports v (v.portEntry p e) := by
  unfold Vp.portEntry
  split
  · dsimp only
    split
    · rfl
    · split <;> rfl
  · rfl

theorem hostEntry (v : Vp) (code src data : Nat) : SameButReports v (v.hostEntry code src data) := by
  have step (v : Vp) (p : Nat) : SameButReports v
      (if v.enablesEntry p code src then v.portEntry p (v.entry code src data) else v) := by
    split
    · exact portEntry v p _
    · rfl
  exact (((step _ _).trans (step _ _)).trans (step _ _)).trans (step _ _)

theorem fatalInput (v : Vp) (blk inst : Nat) : SameButReports v (v.fatalInput blk inst) := by
  unfold Vp.fatalInput
  split <;> rfl

theorem captureRegs (v : Vp) (blk inst : Nat) (c : Cond) (cls : Nat) (esc : Bool) :
    SameButReports v (captureRegs v blk inst c cls esc) :=
  ((((setReg _ _ _).trans (setReg _ _ _)).trans (setReg _ _ _)).trans (setReg _ _ _)).trans (setBit _ _ _ _)

theorem setCap (v : Vp) (blk cls : Nat) : SameButReports v (setCap v blk cls) := rfl

theorem capture (v : Vp) (blk inst : Nat) (c : Cond) (cls : Nat) (esc : Bool) :
    SameButReports v (v.capture blk inst c cls esc) := by
  obtain h | h := capture_cases v blk inst c cls esc
  · rw [h]
    exact (captureRegs _ _ _ _ _ _).trans (setCap _ _ _)
  · rw [h]
    rfl

theorem raiseAs (v : Vp) (blk inst : Nat) (c : Cond) (cls : Nat) (esc : Bool) :
    SameButReports v (v.raiseAs blk inst c cls esc) := by
  rw [raiseAs_eq]
  have shown : SameButReports v (recordFault v blk inst c cls esc) := by
    refine trans (u := statFault (markFault v blk inst cls) blk inst cls esc) ?_ (capture _ _ _ _ _ _)
    unfold statFault
    dsimp only
    split <;> rfl
  have told := (shown.trans (post _ (.event (32 + blk)))).trans
    (hostEntry _ 2 blk (((recordFault v blk inst c cls esc).post (.event (32 + blk))).reg (Reg.FLT_STAT blk)).toNat)
  split
  · exact told.trans (fatalInput _ _ _)
  · exact told

theorem raiseAll (v : Vp) (blk inst : Nat) (cs : List Cond) : SameButReports v (v.raiseAll blk inst cs) := by
  unfold Vp.raiseAll
  split
  · rfl
  · split
    · rfl
    · exact raiseAs _ _ _ _ _ _

end SameButReports

/-! ### Inputs that arrive together (R270) -/

theorem joinInput_perm (i : Input) (l : List Input) : (joinInput i l).Perm (i :: l) := by
  induction l with
  | nil => exact .refl _
  | cons j r ih =>
    unfold joinInput
    split
    · exact .refl _
    · exact (ih.cons j).trans (.swap i j r)

theorem joinInput_ranked (i : Input) {l : List Input} (h : l.Pairwise (fun a b => a.rank ≤ b.rank)) :
    (joinInput i l).Pairwise (fun a b => a.rank ≤ b.rank) := by
  induction l with
  | nil => exact List.pairwise_singleton _ _
  | cons j r ih =>
    obtain ⟨hj, hr⟩ := List.pairwise_cons.mp h
    unfold joinInput
    split
    next hlt =>
      refine List.pairwise_cons.mpr ⟨fun b hb => ?_, h⟩
      obtain rfl | hb := List.mem_cons.mp hb
      · exact hlt.le
      · exact hlt.le.trans (hj b hb)
    next hle =>
      refine List.pairwise_cons.mpr ⟨fun b hb => ?_, ih hr⟩
      obtain rfl | hb := List.mem_cons.mp ((joinInput_perm i r).subset hb)
      · exact Nat.le_of_not_lt hle
      · exact hj b hb

/-- An input joins behind those of its own rank: of each rank, those that stand there keep their order before it. -/
theorem joinInput_filter (i : Input) {l : List Input} (h : l.Pairwise (fun a b => a.rank ≤ b.rank)) (r : Nat) :
    (joinInput i l).filter (fun a => a.rank == r) = (l ++ [i]).filter (fun a => a.rank == r) := by
  induction l with
  | nil => rfl
  | cons j q ih =>
    obtain ⟨hj, hq⟩ := List.pairwise_cons.mp h
    unfold joinInput
    split
    next hlt =>
      by_cases hi : i.rank = r
      · have none_left : (j :: q).filter (fun a => a.rank == r) = [] := by
          refine List.filter_eq_nil_iff.mpr fun b hb => ?_
          have hb : i.rank < b.rank := by
            obtain rfl | hb := List.mem_cons.mp hb
            · exact hlt
            · exact hlt.trans_le (hj b hb)
          simp only [beq_iff_eq]
          omega
        rw [List.filter_append, none_left, List.filter_cons_of_pos (by simpa using hi), none_left]
        simp [hi]
      · rw [List.filter_append]
        simp [hi]
    next => simp only [List.cons_append, List.filter_cons, ih hq]

/-- What the list of inputs in order keeps, as they join one after the other. -/
theorem foldl_joinInput (l : List Input) : ∀ acc : List Input, acc.Pairwise (fun a b => a.rank ≤ b.rank) →
    let o := l.foldl (fun r i => joinInput i r) acc
    o.Perm (acc ++ l) ∧ o.Pairwise (fun a b => a.rank ≤ b.rank)
      ∧ ∀ r, o.filter (fun a => a.rank == r) = (acc ++ l).filter (fun a => a.rank == r) := by
  induction l with
  | nil => exact fun acc h => ⟨by simp, h, by simp⟩
  | cons i l ih =>
    intro acc h
    obtain ⟨hperm, hrank, hfilter⟩ := ih (joinInput i acc) (joinInput_ranked i h)
    refine ⟨?_, hrank, fun r => ?_⟩
    · calc (l.foldl (fun r i => joinInput i r) (joinInput i acc)).Perm (joinInput i acc ++ l) := hperm
        _ |>.Perm ((i :: acc) ++ l) := (joinInput_perm i acc).append_right l
        _ |>.Perm (acc ++ i :: l) := List.perm_middle.symm
    · exact (hfilter r).trans (by
        rw [List.filter_append, joinInput_filter i h, ← List.filter_append, List.append_assoc, List.singleton_append])

/-! ### The wake leaves the ready list -/

section
variable (v : Vp)

theorem wakePlace_sched (r : Nat) : (v.wakePlace r).sched = v.sched := by
  unfold Vp.wakePlace
  dsimp only
  split
  · rw [Vp.addFld, Vp.setFld, Vp.setFld, Vp.setReg_sched, Vp.setReg_sched]
  · rw [Vp.setFld, Vp.setReg_sched]

theorem wakeLose_ready : v.wakeLose.sched.ready = v.sched.ready := by
  unfold Vp.wakeLose
  dsimp only
  split
  · rw [(SameButReports.raiseAll _ _ _ _).sched]
    rfl
  · rfl

theorem wakeQueue_ready : v.wakeQueue.1.sched.ready = v.sched.ready := by
  unfold Vp.wakeQueue
  extract_lets n u
  split <;> rfl

theorem wake_ready (type prio core item ev src : Nat) :
    (v.wake type prio core item ev src).sched.ready = v.sched.ready := by
  unfold Vp.wake
  split
  · dsimp only
    split
    · rw [wakeLose_ready, wakeQueue_ready]
    · split
      · rw [wakePlace_sched, wakeQueue_ready]
      · split
        · rw [wakeLose_ready, wakePlace_sched, wakeQueue_ready]
        · rw [wakePlace_sched, wakePlace_sched, wakeQueue_ready]
  · rfl

theorem coalesce_ready (w ev src : Nat) : (v.coalesce w ev src).sched.ready = v.sched.ready :=
  wake_ready v 4 _ _ _ _ _

theorem makeReady_ready (w ev src : Nat) : (v.makeReady w ev src).sched.ready = v.sched.ready ++ [w] :=
  congrArg (· ++ [w]) (wake_ready v 0 _ _ _ _ _)

end

/-! ### What a post does (R269) -/

section
variable {v : Vp} {w : Nat} (ev src : Nat)

theorem postItem_idle (on : (v.inc Reg.SCHED_POST_CNT).bit (Reg.SCHED_WI_CFG w) 0 = true)
    (st : (v.inc Reg.SCHED_POST_CNT).wiState w = 0) :
    v.postItem w ev src = ((v.inc Reg.SCHED_POST_CNT).makeReady w ev src).place w := by
  unfold Vp.postItem
  simp only [on, st, if_true]

theorem postItem_ready (on : (v.inc Reg.SCHED_POST_CNT).bit (Reg.SCHED_WI_CFG w) 0 = true)
    (st : (v.inc Reg.SCHED_POST_CNT).wiState w = 1) :
    v.postItem w ev src = (v.inc Reg.SCHED_POST_CNT).coalesce w ev src := by
  unfold Vp.postItem
  simp only [on, st, if_true]

theorem postItem_pended (on : (v.inc Reg.SCHED_POST_CNT).bit (Reg.SCHED_WI_CFG w) 0 = true)
    (st : (v.inc Reg.SCHED_POST_CNT).wiState w = 2 ∨ (v.inc Reg.SCHED_POST_CNT).wiState w = 3)
    (pend : ((v.inc Reg.SCHED_POST_CNT).coalesce w ev src).bit (Reg.SCHED_WI_STAT w) 3 = true)
    (ovr : ((v.inc Reg.SCHED_POST_CNT).coalesce w ev src).bit (Reg.SCHED_WI_CFG w) 5 = false) :
    v.postItem w ev src = (v.inc Reg.SCHED_POST_CNT).coalesce w ev src := by
  unfold Vp.postItem
  obtain st | st := st <;> simp [on, st, pend, ovr]

theorem postItem_disabled (off : (v.inc Reg.SCHED_POST_CNT).bit (Reg.SCHED_WI_CFG w) 0 = false) :
    v.postItem w ev src = (((v.inc Reg.SCHED_POST_CNT).wake 9 ((v.inc Reg.SCHED_POST_CNT).prio w) 31 w ev src).inc
      Reg.SCHED_DROP_CNT).setBit Reg.SCHED_STICKY 6 true := by
  unfold Vp.postItem
  simp [off]

end

/-- Settles O21: inputs join one by one, each behind those of its rank; a post goes by the state of its item, and the wake
record that it writes leaves the ready list. -/
theorem schedulerInputs : Obligations.SchedulerInputs := by
  unfold Obligations.SchedulerInputs
  refine ⟨fun l => foldl_joinInput l [] List.Pairwise.nil, fun v w ev src => ?_⟩
  exact ⟨postItem_idle ev src, postItem_ready ev src, postItem_pended ev src, postItem_disabled ev src,
    coalesce_ready _ w ev src, makeReady_ready _ w ev src⟩

/-! ### Placing a ready item (R272) -/

/-- Core `k` runs an item that `w` may pre-empt there, of priority `p`. -/
def PreemptsAt (v : Vp) (w k p : Nat) : Prop :=
  ∃ t r, v.stack k = t :: r ∧ v.eligible w k = true ∧ v.prio w < v.prio t ∧ p = v.prio t

/-- Of the cores before `n`, the one that `w` pre-empts: its top item has the lowest priority, and it is the first such. -/
def LowestBefore (v : Vp) (w n : Nat) : Option Nat → Prop
  | none => ∀ j p, j < n → ¬ PreemptsAt v w j p
  | some k => k < n ∧ ∃ p, PreemptsAt v w k p ∧ ∀ j q, j < n → PreemptsAt v w j q → q ≤ p ∧ (q = p → k ≤ j)

/-- One more core is looked at. -/
def victimNext (v : Vp) (w : Nat) (c : Option Nat) (k : Nat) : Option Nat :=
  match v.stack k with
  | [] => c
  | top :: _ =>
    if v.eligible w k && decide (v.prio w < v.prio top) then
      match c with
      | none => some k
      | some j =>
        match v.stack j with
        | [] => some k
        | tj :: _ => if v.prio tj < v.prio top then some k else c
    else c

theorem victim_eq (v : Vp) (w : Nat) : v.victim w = cores.foldl (victimNext v w) none := rfl

theorem preemptsAt_unique {v : Vp} {w k p q : Nat} (h : PreemptsAt v w k p) (g : PreemptsAt v w k q) : p = q := by
  obtain ⟨t, r, ht, -, -, rfl⟩ := h
  obtain ⟨u, s, hu, -, -, rfl⟩ := g
  rw [ht] at hu
  rw [(List.cons.inj hu).1]

theorem victimNext_keeps {v : Vp} {w k : Nat} (c : Option Nat) (h : ∀ p, ¬ PreemptsAt v w k p) :
    victimNext v w c k = c := by
  unfold victimNext
  split
  · rfl
  next t r ht =>
    refine if_neg fun hc => ?_
    rw [Bool.and_eq_true, decide_eq_true_eq] at hc
    exact h _ ⟨t, r, ht, hc.1, hc.2, rfl⟩

theorem victimNext_first {v : Vp} {w k p : Nat} (h : PreemptsAt v w k p) : victimNext v w none k = some k := by
  obtain ⟨t, r, ht, he, hp, -⟩ := h
  unfold victimNext
  simp only [ht, he, hp, decide_true, Bool.and_self, if_true]

theorem victimNext_of_some {v : Vp} {w k j p q : Nat} (h : PreemptsAt v w k p) (g : PreemptsAt v w j q) :
    victimNext v w (some j) k = if q < p then some k else some j := by
  obtain ⟨t, r, ht, he, hp, rfl⟩ := h
  obtain ⟨u, s, hu, -, -, rfl⟩ := g
  unfold victimNext
  simp only [ht, hu, he, hp, decide_true, Bool.and_self, if_true]

theorem LowestBefore.next {v : Vp} {w n : Nat} {c : Option Nat} (h : LowestBefore v w n c) :
    LowestBefore v w (n + 1) (victimNext v w c n) := by
  by_cases hn : ∃ p, PreemptsAt v w n p
  · obtain ⟨p, hp⟩ := hn
    cases c with
    | none =>
      rw [victimNext_first hp]
      refine ⟨n.lt_succ_self, p, hp, fun j q hj hq => ?_⟩
      obtain hj | rfl := Nat.lt_succ_iff_lt_or_eq.mp hj
      · exact absurd hq (h j q hj)
      · exact ⟨(preemptsAt_unique hq hp).le, fun _ => le_rfl⟩
    | some k =>
      obtain ⟨hk, q, hq, low⟩ := h
      rw [victimNext_of_some hp hq]
      split
      next hlt =>
        refine ⟨n.lt_succ_self, p, hp, fun j x hj hx => ?_⟩
        obtain hj | rfl := Nat.lt_succ_iff_lt_or_eq.mp hj
        · have := (low j x hj hx).1
          exact ⟨by omega, fun _ => by omega⟩
        · exact ⟨(preemptsAt_unique hx hp).le, fun _ => le_rfl⟩
      next hle =>
        refine ⟨hk.trans n.lt_succ_self, q, hq, fun j x hj hx => ?_⟩
        obtain hj | rfl := Nat.lt_succ_iff_lt_or_eq.mp hj
        · exact low j x hj hx
        · have := preemptsAt_unique hx hp
          exact ⟨by omega, fun _ => hk.le⟩
  · have hn : ∀ p, ¬ PreemptsAt v w n p := fun p hp => hn ⟨p, hp⟩
    rw [victimNext_keeps c hn]
    cases c with
    | none =>
      intro j p hj
      obtain hj | rfl := Nat.lt_succ_iff_lt_or_eq.mp hj
      · exact h j p hj
      · exact hn p
    | some k =>
      obtain ⟨hk, q, hq, low⟩ := h
      refine ⟨hk.trans n.lt_succ_self, q, hq, fun j x hj hx => ?_⟩
      obtain hj | rfl := Nat.lt_succ_iff_lt_or_eq.mp hj
      · exact low j x hj hx
      · exact absurd hx (hn x)

theorem lowestBefore_foldl (v : Vp) (w n : Nat) : LowestBefore v w n ((List.range n).foldl (victimNext v w) none) := by
  induction n with
  | zero => exact fun j p hj => absurd hj j.not_lt_zero
  | succ n ih =>
    rw [List.range_succ, List.foldl_append]
    exact ih.next

theorem victim_spec {v : Vp} {w k : Nat} (h : v.victim w = some k) : ∃ t r, v.stack k = t :: r ∧ k < 16
    ∧ v.eligible w k = true ∧ v.prio w < v.prio t
    ∧ ∀ j u q, j < 16 → v.stack j = u :: q → v.eligible w j = true → v.prio u ≤ v.prio t
      ∧ (v.prio u = v.prio t → v.prio w < v.prio u → k ≤ j) := by
  have low : LowestBefore v w 16 (some k) := h ▸ lowestBefore_foldl v w 16
  obtain ⟨hk, p, ⟨t, r, ht, he, hp, rfl⟩, low⟩ := low
  refine ⟨t, r, ht, hk, he, hp, fun j u q hj hu heu => ?_⟩
  by_cases hlow : v.prio w < v.prio u
  · obtain ⟨hle, hfirst⟩ := low j _ hj ⟨u, q, hu, heu, hlow, rfl⟩
    exact ⟨hle, fun heq _ => hfirst heq⟩
  · exact ⟨by omega, fun _ h => absurd h hlow⟩

/-- The lowest core that meets a condition. -/
theorem find_cores {p : Nat → Bool} {k : Nat} (h : cores.find? p = some k) : k < 16 ∧ p k = true ∧ ∀ j, j < k → p j = false := by
  have h : (List.range 16).find? p = some k := h
  obtain ⟨hp, hk, low⟩ := List.find?_range_eq_some.mp h
  exact ⟨List.mem_range.mp hk, hp, fun j hj => by simpa using low j hj⟩

/-- Settles O22: the lowest idle core by the search over the cores in order, the core to pre-empt by an invariant of the same
search. -/
theorem placement : Obligations.Placement := by
  unfold Obligations.Placement
  refine fun v w => ⟨fun k hk => ?_, fun k hnone hk => ⟨?_, victim_spec hk⟩⟩
  · obtain ⟨hlt, hp, low⟩ := find_cores hk
    rw [Bool.and_eq_true, List.isEmpty_iff] at hp
    refine ⟨?_, hlt, hp.1, hp.2, fun j hj he hs => ?_⟩
    · unfold Vp.place
      rw [hk]
    · have := low j hj
      rw [he, hs] at this
      exact Bool.noConfusion this
  · unfold Vp.place
    rw [hnone, hk]

end Sys2Proof.Proofs
end

section
/-!
PROOFS. The order of the stream between partners (O37).
-/

namespace Sys2Proof.Proofs

open Sys2Proof Sys2Proof.Machine

/-! ### Ranks -/

theorem rank_le_two (o : PeerOut) : o.rank ≤ 2 := by
  unfold PeerOut.rank
  split
  · omega
  · split <;> omega

/-- A message waits exactly when it is of the last class. -/
theorem not_waits_eq (o : PeerOut) : (!o.waits) = decide (o.rank ≤ 1) := by
  unfold PeerOut.rank
  split
  next h => simp [PeerOut.waits, h]
  next => cases o.waits <;> simp

theorem rank_trip {o : PeerOut} {t : Nat} (h : o.msg = .trip t) : o.rank = 0 := by
  unfold PeerOut.rank
  rw [h]

theorem one_le_rank {o : PeerOut} (h : ∀ t, o.msg ≠ .trip t) : 1 ≤ o.rank := by
  unfold PeerOut.rank
  split
  next t ht => exact absurd ht (h t)
  next => split <;> omega

/-! ### A message joins -/

/-- A message joins behind those of its class and of the classes before it. -/
theorem peerJoin_eq {o : PeerOut} (h : o.begun = false) (q : List PeerOut) : peerJoin o q =
    q.takeWhile (fun x => decide (x.rank ≤ o.rank)) ++ o :: q.dropWhile (fun x => decide (x.rank ≤ o.rank)) := by
  unfold peerJoin
  split
  next t ht =>
    have same : (fun x : PeerOut => match x.msg with
        | .trip _ => true
        | _ => false) = fun x => decide (x.rank ≤ o.rank) := by
      funext x
      rw [rank_trip ht]
      split
      next u hu => simp [rank_trip hu]
      next hx =>
        have : 1 ≤ x.rank := one_le_rank fun u hu => hx u hu
        exact (decide_eq_false (by omega)).symm
    exact congrArg (fun f => q.takeWhile f ++ o :: q.dropWhile f) same
  next b hb =>
    have fwd : o.rank = 1 := by simp [PeerOut.rank, PeerOut.waits, hb]
    simp only [not_waits_eq, fwd]
  next hnt hnf =>
    have last : o.rank = 2 := by
      unfold PeerOut.rank PeerOut.waits
      split
      next t ht => exact absurd ht (hnt t)
      next => simp [h]
    have all : ∀ x ∈ q, decide (x.rank ≤ o.rank) = true := fun x _ => decide_eq_true (last ▸ rank_le_two x)
    rw [List.takeWhile_eq_self_iff.mpr all, List.dropWhile_eq_nil_iff.mpr all]

/-- In an ordered stream those beyond the classes up to `r` are of a later class. -/
theorem lt_rank_of_mem_dropWhile {q : List PeerOut} (h : streamOrdered q) {r : Nat} {x : PeerOut}
    (hx : x ∈ q.dropWhile (fun y => decide (y.rank ≤ r))) : r < x.rank := by
  induction q with
  | nil => simp at hx
  | cons y q ih =>
    obtain ⟨hy, hq⟩ := List.pairwise_cons.mp h
    by_cases hr : y.rank ≤ r
    · rw [List.dropWhile_cons_of_pos (by simpa using hr)] at hx
      exact ih hq hx
    · rw [List.dropWhile_cons_of_neg (by simpa using hr)] at hx
      obtain rfl | hx := List.mem_cons.mp hx
      · omega
      · have := hy x hx
        omega

theorem peerJoin_splits {o : PeerOut} (h : o.begun = false) {q : List PeerOut} (hq : streamOrdered q) :
    ∃ a b, q = a ++ b ∧ peerJoin o q = a ++ o :: b ∧ (∀ x ∈ a, x.rank ≤ o.rank) ∧ ∀ x ∈ b, o.rank < x.rank :=
  ⟨_, _, List.takeWhile_append_dropWhile.symm, peerJoin_eq h q,
    fun _ hx => by simpa using List.mem_takeWhile_imp hx, fun _ hx => lt_rank_of_mem_dropWhile hq hx⟩

theorem peerJoin_ordered {o : PeerOut} (h : o.begun = false) {q : List PeerOut} (hq : streamOrdered q) :
    streamOrdered (peerJoin o q) := by
  obtain ⟨a, b, rfl, hj, ha, hb⟩ := peerJoin_splits h hq
  obtain ⟨oa, ob, oab⟩ := List.pairwise_append.mp hq
  rw [hj]
  refine List.pairwise_append.mpr ⟨oa, List.pairwise_cons.mpr ⟨fun x hx => (hb x hx).le, ob⟩, fun x hx y hy => ?_⟩
  obtain rfl | hy := List.mem_cons.mp hy
  · exact ha x hx
  · exact oab x hx y hy

/-! ### Blocks leave -/

/-- A message of which blocks have left does not fall back. -/
theorem rank_begun_le (o : PeerOut) (l : List Block) (b : Bool) :
    ({ o with left := l, begun := o.begun || b } : PeerOut).rank ≤ o.rank := by
  by_cases ht : ∃ t, o.msg = .trip t
  · obtain ⟨t, ht⟩ := ht
    exact (rank_trip (o := { o with left := l, begun := o.begun || b }) ht).le.trans (Nat.zero_le _)
  · have one : 1 ≤ o.rank := one_le_rank fun t h => ht ⟨t, h⟩
    by_cases hw : o.waits = true
    · have last : 1 < o.rank := by simpa [hw] using not_waits_eq o
      exact (rank_le_two _).trans last
    · have begun : ({ o with left := l, begun := o.begun || b } : PeerOut).waits = false := by
        unfold PeerOut.waits at hw ⊢
        dsimp only at hw ⊢
        split at hw <;> simp_all
      have first : ({ o with left := l, begun := o.begun || b } : PeerOut).rank ≤ 1 := by
        simpa [begun] using not_waits_eq { o with left := l, begun := o.begun || b }
      exact first.trans one

theorem peerDrain_ordered {q : List PeerOut} (h : streamOrdered q) (n : Nat) : streamOrdered (peerDrain q n) := by
  induction q generalizing n with
  | nil => exact h
  | cons o q ih =>
    obtain ⟨ho, hq⟩ := List.pairwise_cons.mp h
    unfold peerDrain
    split
    · exact List.pairwise_cons.mpr ⟨fun x hx => (rank_begun_le o _ _).trans (ho x hx), hq⟩
    · exact ih hq _

theorem peerDrain_left (q : List PeerOut) (n : Nat) :
    (peerDrain q n).flatMap (·.left) = (q.flatMap (·.left)).drop n := by
  induction q generalizing n with
  | nil => simp [peerDrain]
  | cons o q ih =>
    unfold peerDrain
    split
    next hlt => rw [List.flatMap_cons, List.flatMap_cons, List.drop_append_of_le_length hlt.le]
    next hge =>
      rw [ih, List.flatMap_cons, List.drop_append, List.drop_of_length_le (Nat.le_of_not_lt hge), List.nil_append]

/-- Settles O37: where a message joins is where the classes up to its own end; what has begun keeps its place. -/
theorem peerStream : Obligations.PeerStream := by
  unfold Obligations.PeerStream
  exact fun q hq => ⟨fun o ho => ⟨peerJoin_ordered ho hq, peerJoin_splits ho hq⟩,
    fun n => ⟨peerDrain_ordered hq n, peerDrain_left q n⟩⟩

end Sys2Proof.Proofs
end

section
/-!
PROOFS. Reads after writes of a cell's registers; what a protective turn-off leaves; the threshold of a record (O49) and the
protective states (O58).
-/

namespace Sys2Proof.Proofs

open Sys2Proof Sys2Proof.Machine

/-! ### Registers of a cell -/

namespace CellReg

variable (c : Cell)

theorem fld_of_regs {c d : Cell} (h : d.regs = c.regs) (a lo len : Nat) : d.fld a lo len = c.fld a lo len := by
  unfold Cell.fld Cell.reg
  rw [h]

theorem bit_of_regs {c d : Cell} (h : d.regs = c.regs) (a i : Nat) : d.bit a i = c.bit a i := by
  unfold Cell.bit Cell.reg
  rw [h]

theorem fld_other {a b : Nat} (h : b ≠ a) (w : Word) (lo len : Nat) : (c.setReg a w).fld b lo len = c.fld b lo len := by
  unfold Cell.fld
  rw [Cell.reg_setReg_other c w h]

theorem bit_other {a b : Nat} (h : b ≠ a) (w : Word) (i : Nat) : (c.setReg a w).bit b i = c.bit b i := by
  unfold Cell.bit
  rw [Cell.reg_setReg_other c w h]

theorem fld_setFld_same (a : Nat) {lo len : Nat} (h : lo + len ≤ 32) (x : Nat) :
    (c.setFld a lo len x).fld a lo len = x % 2 ^ len := by
  unfold Cell.fld Cell.setFld
  rw [Cell.reg_setReg_same, Machine.fld_setFld_same _ h]

theorem fld_setFld_above (a : Nat) {lo len : Nat} (h : lo + len ≤ 32) (x : Nat) {l : Nat} (hl : lo + len ≤ l) (n : Nat) :
    (c.setFld a lo len x).fld a l n = c.fld a l n := by
  unfold Cell.fld Cell.setFld
  rw [Cell.reg_setReg_same, Machine.fld_setFld_above _ h _ hl]

theorem bit_setFld_above (a : Nat) {lo len : Nat} (h : lo + len ≤ 32) (x : Nat) {j : Nat} (hj : lo + len ≤ j) :
    (c.setFld a lo len x).bit a j = c.bit a j := by
  unfold Cell.bit Cell.setFld
  rw [Cell.reg_setReg_same, Machine.bit_eq_fld, Machine.fld_setFld_above _ h _ hj, ← Machine.bit_eq_fld]

theorem bit_setBit_same (a : Nat) {i : Nat} (h : i < 32) (b : Bool) : (c.setBit a i b).bit a i = b := by
  unfold Cell.bit Cell.setBit Cell.setFld
  rw [Cell.reg_setReg_same, Machine.bit_eq_fld, Machine.fld_setFld_same _ (by omega)]
  cases b <;> rfl

theorem bit_setBit_other (a : Nat) {i j : Nat} (hi : i < 32) (h : j ≠ i) (b : Bool) :
    (c.setBit a i b).bit a j = c.bit a j := by
  unfold Cell.bit Cell.setBit Cell.setFld
  rw [Cell.reg_setReg_same, Machine.bit_eq_fld, Machine.bit_eq_fld]
  obtain h | h := Nat.lt_or_gt_of_ne h
  · rw [Machine.fld_setFld_below _ (by omega) _ (by omega)]
  · rw [Machine.fld_setFld_above _ (by omega) _ (by omega)]

end CellReg

/-! ### A record in normal mode (R59) -/

section
variable (c : Cell) (i : Nat) (b : Bool)

/-- A block cause stands in `CN_SYS_STATE` alone. -/
theorem setCause_fld {a : Nat} (h : a ≠ Reg.CN_SYS_STATE) (lo len : Nat) : (c.setCause i b).fld a lo len = c.fld a lo len :=
  CellReg.fld_other c h _ lo len

theorem setCause_ackedBy (r : CnRec) : (c.setCause i b).ackedBy r = c.ackedBy r :=
  congrArg r.ack.testBit (setCause_fld c i b (by decide) 0 9)

theorem setCause_grantedBy (r : CnRec) : (c.setCause i b).grantedBy r = c.grantedBy r :=
  congrArg r.grant.testBit (setCause_fld c i b (by decide) 0 9)

theorem setCause_idx : (c.setCause i b).idx = c.idx :=
  congrArg (· % 4096) (setCause_fld c i b (by decide) 0 18)

end

/-- Settles O49: with no override, no grant and no trim duty the branches before the threshold are not taken, and clearing the
causes changes nothing that they test. -/
theorem cellTakesThreshold : Obligations.CellTakesThreshold := by
  unfold Obligations.CellTakesThreshold
  intro c r l dec ovr ack grant trim mode
  unfold Cell.takeNormal
  extract_lets d1 src d2 o
  have hack : d1.ackedBy r = true := (setCause_ackedBy c cBlock false r).trans ack
  have hd2 : d2 = { (c.setCause cBlock false).setCause cUnack false with unackRun := 0 } := if_pos hack
  have ovr2 : o = 0 := by
    have : o = ((c.setCause cBlock false).setCause cUnack false).fld Reg.CN_SW_OVR 0 2 := congrArg (·.fld Reg.CN_SW_OVR 0 2) hd2
    rw [this, setCause_fld _ _ _ (by decide), setCause_fld _ _ _ (by decide), ovr]
  have ack2 : d2.ackedBy r = true := by
    rw [hd2]
    exact (setCause_ackedBy _ cUnack false r).trans hack
  have grant2 : d2.grantedBy r = false := by
    rw [hd2]
    exact ((setCause_grantedBy _ cUnack false r).trans (setCause_grantedBy c cBlock false r)).trans grant
  have idx2 : d2.idx = c.idx := by
    rw [hd2]
    exact (setCause_idx _ cUnack false).trans (setCause_idx c cBlock false)
  rw [if_neg (by omega), if_neg (by omega), if_neg (by simp [grant2]), if_neg (by simp [ack2]), if_neg (by rwa [idx2]),
    if_neg mode, hd2]

/-! ### A protective turn-off (R91) -/

section
variable (c : Cell)

theorem setGate_regs (g : Gate) (x : GateSt) : (c.setGate g x).regs = c.regs := by
  cases g <;> rfl

theorem level_regs (g : Gate) (b : Bool) : (c.level g b).regs = c.regs := by
  unfold Cell.level
  dsimp only
  split <;> rw [setGate_regs]

/-- All gates go low, and the clock and the registers but `CN_SYS_STATE` stand. -/
theorem allLow_eq : ∃ d : Cell, d.clk = c.clk ∧ d.regs = c.regs ∧ c.allLow = d.setGst 3 := by
  unfold Cell.allLow
  extract_lets d
  refine ⟨{ d with todo := [], pwm := none }, ?_, ?_, rfl⟩
  · change d.clk = c.clk
    simp only [d, gates, List.foldl_cons, List.foldl_nil, Cell.clk_level]
  · change d.regs = c.regs
    simp only [d, gates, List.foldl_cons, List.foldl_nil, level_regs]

theorem allLow_clk : c.allLow.clk = c.clk := by
  obtain ⟨d, hclk, -, h⟩ := allLow_eq c
  rw [h]
  exact hclk

/-- The bits of `CN_SYS_STATE` above GSTATE stand. -/
theorem allLow_hasCause (i : Nat) : c.allLow.hasCause i = c.hasCause i := by
  obtain ⟨d, -, hregs, h⟩ := allLow_eq c
  rw [h, Cell.hasCause, Cell.setGst, CellReg.bit_setFld_above d _ (by omega) _ (by omega)]
  unfold Cell.hasCause Cell.bit Cell.reg
  rw [hregs]

theorem thaw_regs : c.thaw.regs = (c.setBit Reg.CN_PROT_FRZ 0 false).regs := rfl

theorem thaw_FREEZE : c.thaw.bit Reg.CN_PROT_FRZ 0 = false := by
  rw [CellReg.bit_of_regs (thaw_regs c), CellReg.bit_setBit_same c _ (by omega)]

theorem thaw_hasCause (i : Nat) : c.thaw.hasCause i = c.hasCause i := by
  unfold Cell.hasCause
  rw [CellReg.bit_of_regs (thaw_regs c), Cell.setBit, Cell.setFld, CellReg.bit_other c (by decide)]

theorem setReg_clk (a : Nat) (w : Word) : (c.setReg a w).clk = c.clk := rfl

theorem thaw_clk : c.thaw.clk = c.clk := by
  unfold Cell.thaw
  dsimp only
  exact setReg_clk c _ _

theorem setReg_stageOff (a : Nat) (w : Word) : (c.setReg a w).stageOff = c.stageOff := rfl

theorem setSt_stageOff (x : Nat) : (c.setSt x).stageOff = c.stageOff := rfl

theorem setSt_hasCause (x i : Nat) : (c.setSt x).hasCause i = c.hasCause i :=
  CellReg.bit_setFld_above c _ (by omega) x (by omega)

theorem setLocal_hasCause (b : Bool) {i : Nat} (h : i ≤ 8) : (c.setLocal b).hasCause i = c.hasCause i :=
  CellReg.bit_setBit_other c _ (by omega) (by omega) b

theorem setCause_hasCause {i j : Nat} (h : i ≤ 8) (b : Bool) :
    (c.setCause i b).hasCause j = if j = i then b else c.hasCause j := by
  split
  next e =>
    rw [e]
    exact CellReg.bit_setBit_same c _ (by omega) b
  next e => exact CellReg.bit_setBit_other c _ (by omega) (by omega) b

end

/-! ### Protective states (R78, R102, R109) -/

/-- A cell that enters Retired: its state and its cause show, its gates are low, and BYP_FAST_DELAY runs from now. -/
theorem enterRetired_shows (c : Cell) {cause : Nat} (h : cause < 8) :
    let d := c.enterRetired cause
    d.st = stRetired ∧ d.fld Reg.CN_SYS_STATE 17 3 = cause ∧ d.stageOff = true ∧ d.fastAt = c.clk + d.fastU
      ∧ d.bit Reg.CN_PROT_FRZ 0 = false := by
  unfold Cell.enterRetired
  extract_lets d1 d2 d3 d4
  have off1 : d1.stageOff = true :=
    Cell.stageOff_of_frame ((Cell.Frame.setLocal _ _).trans (Cell.Frame.thaw _)) (Cell.stageOff_allLow c)
  have frz1 : d1.bit Reg.CN_PROT_FRZ 0 = false := thaw_FREEZE _
  have clk1 : d1.clk = c.clk := (thaw_clk _).trans ((setReg_clk _ _ _).trans (allLow_clk c))
  clear_value d1
  have off2 : d2.stageOff = true := (setReg_stageOff _ _ _).trans ((setReg_stageOff _ _ _).trans off1)
  have st2 : d2.st = stRetired := Cell.st_setSt _ (by decide)
  have cause2 : d2.fld Reg.CN_SYS_STATE 17 3 = cause := by
    rw [show d2 = (d1.setFld Reg.CN_SYS_STATE 17 3 cause).setFld Reg.CN_SYS_STATE 0 3 stRetired from rfl,
      CellReg.fld_setFld_above _ _ (by omega) _ (by omega), CellReg.fld_setFld_same _ _ (by omega)]
    omega
  have frz2 : d2.bit Reg.CN_PROT_FRZ 0 = false := by
    rw [show d2 = (d1.setFld Reg.CN_SYS_STATE 17 3 cause).setFld Reg.CN_SYS_STATE 0 3 stRetired from rfl,
      Cell.setFld, CellReg.bit_other _ (by decide), Cell.setFld, CellReg.bit_other _ (by decide)]
    exact frz1
  have clk2 : d2.clk = c.clk := (setReg_clk _ _ _).trans ((setReg_clk _ _ _).trans clk1)
  clear_value d2
  have shown : d3.st = stRetired ∧ d3.fld Reg.CN_SYS_STATE 17 3 = cause ∧ d3.stageOff = true ∧ d3.clk = c.clk
      ∧ d3.bit Reg.CN_PROT_FRZ 0 = false := by
    by_cases hc : 1 ≤ cause ∧ cause ≤ 3
    · rw [show d3 = d2.setReg Reg.CN_PROT_STAT (Machine.setFld (d2.reg Reg.CN_PROT_STAT) (cause - 1) 1 (b2n true)) from
        if_pos hc, Cell.st, CellReg.fld_other d2 (by decide), CellReg.fld_other d2 (by decide), setReg_stageOff,
        setReg_clk, CellReg.bit_other d2 (by decide)]
      exact ⟨st2, cause2, off2, clk2, frz2⟩
    · rw [show d3 = d2 from if_neg hc]
      exact ⟨st2, cause2, off2, clk2, frz2⟩
  clear_value d3
  obtain ⟨hst, hcause, hoff, hclk, hfrz⟩ := shown
  exact ⟨hst, hcause, hoff, congrArg (· + d3.fastU) hclk, hfrz⟩

/-- A watched cell that a cause blocks: Blocked, its gates low, with the cause, and with FREEZE_EXIT out of a freeze. -/
theorem blockNow_shows {c : Cell} (g : c.guarded = true) {cause : Nat} (h : cause ≤ 7) :
    let d := c.blockNow cause
    d.st = stBlocked ∧ d.stageOff = true ∧ d.hasCause cause = true
      ∧ (c.st = stFrozen → d.hasCause cFreeze = true ∧ d.bit Reg.CN_PROT_FRZ 0 = false) := by
  unfold Cell.blockNow
  extract_lets x d
  have off : x.stageOff = true := Cell.stageOff_of_frame (Cell.Frame.setLocal _ _) (Cell.stageOff_allLow _)
  have shows : x.hasCause cause = true := by
    rw [show x.hasCause cause = (c.setCause cause true).allLow.hasCause cause from setLocal_hasCause _ _ (by omega),
      allLow_hasCause, setCause_hasCause c (by omega), if_pos rfl]
  have e : d = (if c.st = stFrozen then (x.setCause cFreeze true).thaw else x).setSt stBlocked := if_neg (by simp [g])
  rw [e]
  clear e d
  clear_value x
  by_cases frozen : c.st = stFrozen
  · rw [if_pos frozen, setSt_stageOff]
    have f : Cell.Frame x (x.setCause cFreeze true).thaw := (Cell.Frame.setCause _ (by decide) _).trans (Cell.Frame.thaw _)
    refine ⟨Cell.st_setSt _ (by decide), Cell.stageOff_of_frame f off, ?_, fun _ => ⟨?_, ?_⟩⟩
    · rw [setSt_hasCause, thaw_hasCause, setCause_hasCause x (by decide), if_neg (by unfold cFreeze; omega)]
      exact shows
    · rw [setSt_hasCause, thaw_hasCause, setCause_hasCause x (by decide), if_pos rfl]
    · rw [Cell.setSt, Cell.setFld, CellReg.bit_other _ (by decide), thaw_FREEZE]
  · rw [if_neg frozen, setSt_stageOff]
    refine ⟨Cell.st_setSt _ (by decide), off, ?_, fun hf => absurd hf frozen⟩
    rw [setSt_hasCause]
    exact shows

/-- Settles O58, with what each of the two turn-offs shows. -/
theorem protectiveStates : Obligations.ProtectiveStates := by
  unfold Obligations.ProtectiveStates
  exact ⟨fun c _ _ h => enterRetired_shows c h, fun _ _ _ g h => blockNow_shows g h⟩

end Sys2Proof.Proofs
end

section
/-!
PROOFS. The frame of a cell: sampling and the report (O47), the apply instant (O48), its switching stage (O50), trains (O51),
URGENT blocks and bridging (O52), time (O53) and boundaries (O54).
-/

namespace Sys2Proof.Proofs

open Sys2Proof Sys2Proof.Machine

/-- A command to a cell whose clock runs sets the cell to what its operation makes of it. -/
theorem cell_runs {s : State} {k : CellRef} (h : (s.cell k).clamped = false) {f : Cell → Cell} {x : Cell}
    (hf : f (s.cell k) = x) : (.next (s.onCell k f) : Host.Outcome State Fault Refusal) = .next (s.setCell k x) := by
  rw [State.onCell_runs h, hf]

/-! ### Sampling and the report (R81, R82, R97, R132) -/

section
variable {c : Cell}

theorem assemble_eq {l : Latch} {r : List Latch} (hl : c.latches = l :: r) (conf : c.configured = true) (set : c.isSet = true)
    (new : c.report.map (·.1) ≠ some l.frame) :
    let x := c.passTo (l.frame * c.fpU - c.leadU + 240 * nsU)
    c.assemble = { x with
      report := some (l.frame, withCrc16 (x.reportBits l.code) x.node l.frame), missed := false, short := false
      dueFrom := if x.refreshDue then some (x.dueFrom.getD l.frame) else x.dueFrom } := by
  intro x
  unfold Cell.assemble
  rw [hl]
  dsimp only
  rw [if_neg (by simp [conf, set, new])]
  change { x with report := _, missed := _, short := _, dueFrom := _ } = _
  cases x.dueFrom <;> rfl

end

/-- Settles O47. -/
theorem cellSampling : Obligations.CellSampling := by
  unfold Obligations.CellSampling
  refine ⟨fun s k r0 r1 r2 run conf set => ?_, fun s k l r run conf set hl new => ?_⟩
  · intro c n x code uv y z
    refine cell_runs (f := fun x => x.sample r0 r1 r2) run ?_
    change c.sample r0 r1 r2 = _
    unfold Cell.sample
    rw [if_neg (by simp [c, conf, set])]
  · exact cell_runs (f := fun x => x.assemble) run (assemble_eq hl conf set new)

/-! ### The apply instant (R59, R84, R99, R104, R109, R115) -/

/-- Settles O48: the apply instant is the sequence of its operations, in a configured cell that keeps time. -/
theorem cellApplyInstant : Obligations.CellApplyInstant := by
  unfold Obligations.CellApplyInstant
  intro s k run conf set c f x y y' z
  refine ⟨rfl, cell_runs (f := fun x => x.apply) run ?_⟩
  change c.apply = _
  have forced : y.forceBlocked = y' := by
    unfold Cell.forceBlocked
    by_cases h : y.fld Reg.CN_SW_OVR 0 2 = 3
    · rw [if_neg (not_not.mpr h), show y' = _ from if_pos h]
    · rw [if_pos h, show y' = y from if_neg h]
  unfold Cell.apply
  rw [if_neg (by simp [c, conf, set])]
  change ({ (y.forceBlocked.localAgain.act f).ownRefresh f with applied := _, recs := _, latches := _ } : Cell) = _
  rw [forced]

/-! ### The switching stage (R86, R92, R94, R97) -/

section
variable {c : Cell}

theorem edgeDue_eq_runEdges {t : Nat} (next : Option NextGate) (ht : earliest c.dueTimes = some t)
    (none : (c.clkTo t).dueTodo t = none) : c.edgeDue next = (c.clkTo t).runEdges := by
  unfold Cell.edgeDue
  rw [ht]
  dsimp only
  rw [none]

theorem edgeDue_eq_runTodo {t u : Nat} {x : Todo} (next : Option NextGate) (ht : earliest c.dueTimes = some t)
    (due : (c.clkTo t).dueTodo t = some (u, x)) :
    c.edgeDue next = { c.clkTo t with todo := (c.clkTo t).todo.erase (u, x) }.runTodo next x := by
  unfold Cell.edgeDue
  rw [ht]
  dsimp only
  rw [due]

theorem carrierStart_trim {p : Pwm} (hp : c.pwm = some p) (trim : p.isLocal = false) :
    c.carrierStart = { c.clkTo p.next with
      pwm := some { p with next := p.next + (c.clkTo p.next).fpU / kOf p.ksel } }.carrierPulse p.next p.ksel p.duty := by
  unfold Cell.carrierStart
  rw [hp]
  dsimp -zeta only
  extract_lets d1 d2 ksel duty tc
  have same : d2 = d1 := by
    simp only [d2, trim, Bool.false_eq_true, if_false]
    split <;> rfl
  have hk : ksel = p.ksel := if_neg (by simp [trim])
  have hd : duty = p.duty := if_neg (by simp [trim])
  have ht : tc = d1.fpU / kOf p.ksel := by rw [← same, ← hk]
  rw [hk, hd, ht, same]

/-- The insertion timer has been brought to REFRESH_LIMIT. -/
theorem refreshDue_of_insTime (c : Cell) :
    ({ c with insTime := max c.insTime (c.fld Reg.CN_SW_REFRESH 0 17 * 1000 * nsU) } : Cell).refreshDue = true :=
  decide_eq_true (le_max_right c.insTime _)

theorem pwmCommit_refused (half : c.half0 = true ∨ c.half1 = true) (bad : c.commitRefused = true) :
    c.pwmCommit = c.setBit Reg.CN_SW_STICKY 1 true := by
  unfold Cell.pwmCommit
  rw [if_neg (by obtain h | h := half <;> simp [h]), if_pos bad]

theorem pwmCommit_taken (half : c.half0 = true ∨ c.half1 = true) (good : c.commitRefused = false) :
    c.pwmCommit =
      (let x := if c.half0 && c.half1 then c else c.setBit Reg.CN_SW_STICKY 0 true
       let x : Cell := { x with half0 := false, half1 := false }
       if x.bit Reg.CN_SYS_STATE 21 then { x with commit := some c.staged } else x.setReg Reg.CN_SW_PWM_WORK c.staged) := by
  unfold Cell.pwmCommit
  rw [if_neg (by obtain h | h := half <;> simp [h]), if_neg (by simp [good])]

/-- A flag of `CN_SW_STICKY` leaves `CN_SYS_STATE`. -/
theorem halfFlag_bit (p : Prop) [Decidable p] :
    ({ (if p then c else c.setBit Reg.CN_SW_STICKY 0 true) with half0 := false, half1 := false } : Cell).bit
      Reg.CN_SYS_STATE 21 = c.bit Reg.CN_SYS_STATE 21 := by
  split
  · exact CellReg.bit_of_regs rfl _ _
  · exact (CellReg.bit_of_regs (c := c.setBit Reg.CN_SW_STICKY 0 true) rfl _ _).trans
      (CellReg.bit_other c (by decide) _ _)

end

/-- Settles O50: each command of the switching stage by the lemma on its operation. -/
theorem cellSwitching : Obligations.CellSwitching := by
  unfold Obligations.CellSwitching
  refine ⟨⟨fun s k t run ht none => ?_, fun s k t u x run ht => ?_, fun s k p run hp trim => ?_, fun s k p run hp loc => ?_,
    fun s k run timer => ⟨?_, refreshDue_of_insTime _⟩, fun s k run half => ⟨fun good => ?_, fun bad => ?_⟩⟩,
    fun c t ksel duty => ⟨fun zero => ?_, fun pos => ?_⟩⟩
  · exact cell_runs (f := fun x => x.gateEdge) run (edgeDue_eq_runEdges _ ht none)
  · exact fun due => cell_runs (f := fun x => x.gateEdge) run (edgeDue_eq_runTodo _ ht due)
  · exact cell_runs (f := fun x => x.carrierStart) run (carrierStart_trim hp trim)
  · refine cell_runs (f := fun x => x.carrierStart) run ?_
    unfold Cell.carrierStart
    rw [hp]
    dsimp -zeta only
    simp -zeta only [loc, if_true]
    rfl
  · exact cell_runs (f := fun x => x.refreshReached) run (if_pos timer)
  · refine cell_runs (f := fun x => x.pwmCommit) run ((pwmCommit_taken half good).trans ?_)
    dsimp only
    rw [halfFlag_bit]
  · exact cell_runs (f := fun x => x.pwmCommit) run (pwmCommit_refused half bad)
  · exact if_pos zero
  · exact if_neg pos

/-! ### The clock -/

/-- The clock moves the counters and the insertion timer, and nothing else. -/
theorem advance_shape (c : Cell) (d e : Nat) : ∃ clk t ins due, c.advance d e =
    { c with clk := clk, t := t, insTime := ins, dueFrom := due } := by
  unfold Cell.advance
  extract_lets x
  split
  · exact ⟨_, _, _, _, rfl⟩
  · split
    · exact ⟨_, _, _, _, rfl⟩
    · exact ⟨_, _, _, _, rfl⟩

theorem passTo_shape (c : Cell) (x : Nat) : ∃ clk t ins due, c.passTo x =
    { c with clk := clk, t := t, insTime := ins, dueFrom := due } := by
  unfold Cell.passTo
  split
  · exact advance_shape c _ _
  · exact ⟨c.clk, c.t, c.insTime, c.dueFrom, rfl⟩

section
variable (c : Cell) (x : Nat)

theorem passTo_configured : (c.passTo x).configured = c.configured := by
  obtain ⟨_, _, _, _, h⟩ := passTo_shape c x
  rw [h]
  rfl

theorem passTo_isSet : (c.passTo x).isSet = c.isSet := by
  obtain ⟨_, _, _, _, h⟩ := passTo_shape c x
  rw [h]

theorem passTo_pendOvr : (c.passTo x).pendOvr = c.pendOvr := by
  obtain ⟨_, _, _, _, h⟩ := passTo_shape c x
  rw [h]

theorem passTo_pendLead : (c.passTo x).pendLead = c.pendLead := by
  obtain ⟨_, _, _, _, h⟩ := passTo_shape c x
  rw [h]

end

/-! ### Trains (R135, R136, R149, R209) -/

/-- Settles O51: a train without errors, at a configured cell that keeps time, takes the branch of a SOT in its window. -/
theorem cellTrainReceived : Obligations.CellTrainReceived := by
  unfold Obligations.CellTrainReceived
  intro s k x n ofs run good sot crc errs empty conf set c win d dset dconf e
  refine cell_runs (f := fun y => y.trainIn x) run ?_
  have bad : x.errs + b2n (!x.sotOk) + b2n (!x.data && !x.emptyOk) = 0 := by simp [errs, sot, empty, b2n]
  have confC : c.configured = true := (passTo_configured _ _).trans conf
  have setC : c.isSet = true := (passTo_isSet _ _).trans set
  unfold Cell.trainIn
  rw [if_neg (by simp [good]), bad]
  extract_lets bad c1 c2 c3 c4
  have h1 : c1 = s.cell k := if_pos rfl
  have h2 : c2 = c := by simp only [c2, c, h1]
  have h3 : c3 = c := (if_neg (by simp [h2, confC])).trans h2
  have h4 : c4 = e := by
    simp only [c4, h3, win]
    have heardOr : (if (!c.isSet || x.frame == n) = true then c.heard (x.rx % 2) else c)
        = if x.frame = n then c.heard (x.rx % 2) else c := by simp [setC]
    rw [heardOr]
    exact if_pos ⟨crc, dset, dconf⟩
  rw [if_neg (by simp [sot]), h4]

/-! ### URGENT blocks and bridging (R105, R144, R148, R149) -/

/-- Settles O52. -/
theorem cellLineEvents : Obligations.CellLineEvents := by
  unfold Obligations.CellLineEvents
  refine ⟨fun s k rx content run good crc ok => ?_, fun s k side run => ?_, fun s k side run => ?_⟩
  · intro c
    refine cell_runs (f := fun x => x.urgentIn rx content) run ?_
    unfold Cell.urgentIn
    rw [if_neg (by simp [good])]
    extract_lets d
    rw [if_neg (by simp [crc]), if_neg (by simp [ok])]
  · exact cell_runs (f := fun x => x.lossSeen side) run rfl
  · exact cell_runs (f := fun x => x.orphaned side) run rfl

/-! ### Time (R213, R217, R219, R220, R222) -/

section
variable (c : Cell)

/-! A measurement leaves the receivers orphaned or not (R149): registers and the clock's own state change. -/

theorem setReg_orphan (a : Nat) (w : Word) : (c.setReg a w).orphan = c.orphan := rfl

theorem setFld_orphan (a lo len x : Nat) : (c.setFld a lo len x).orphan = c.orphan := setReg_orphan c a _

theorem setBit_orphan (a i : Nat) (b : Bool) : (c.setBit a i b).orphan = c.orphan := setFld_orphan c a i 1 _

theorem timeFlag_orphan (i : Nat) : (c.timeFlag i).orphan = c.orphan := setBit_orphan c _ i true

theorem setOk_orphan (b : Bool) : (c.setOk b).orphan = c.orphan := by
  unfold Cell.setOk
  dsimp only
  split
  · rw [timeFlag_orphan, setBit_orphan]
  · rw [setBit_orphan]

theorem servo_orphan (x : Rat) : (c.servo x).orphan = c.orphan := by
  unfold Cell.servo
  extract_lets ticks f y lo hi z n d e
  have he : e.orphan = c.orphan := by rw [setReg_orphan, setReg_orphan]
  split
  · exact he
  · rw [timeFlag_orphan, he]

theorem stepTime_orphan (x : Rat) : (c.stepTime x).orphan = c.orphan := by
  unfold Cell.stepTime
  rw [setOk_orphan, timeFlag_orphan, Cell.addFld, setFld_orphan]

theorem useTheta_orphan (m : Nat) (x : Rat) : (c.useTheta m x).orphan = c.orphan := by
  unfold Cell.useTheta
  extract_lets src d off r e wide
  have hd : d.orphan = c.orphan := servo_orphan c x
  have he : e.orphan = c.orphan := by
    simp only [e]
    split
    · exact (setOk_orphan d false).trans hd
    · exact hd
  split <;> rw [setOk_orphan, he]

theorem anomaly_orphan (m : Nat) (x : Rat) : (c.anomaly m x).orphan = c.orphan := by
  unfold Cell.anomaly
  extract_lets d src e win series
  have hd : d.orphan = c.orphan := by
    simp only [d]
    split
    · rw [setOk_orphan]
    · rfl
  have he : e.orphan = c.orphan := by rw [timeFlag_orphan, Cell.addFld, setFld_orphan, hd]
  split
  · exact (stepTime_orphan d x).trans hd
  · split
    · rw [stepTime_orphan, he]
    · exact he

theorem measured_orphan (g : List Stamp) (m : Meas) : (c.measured g m).orphan = c.orphan := by
  unfold Cell.measured
  extract_lets d1 d2 d3 e1 e2 d4 x d5
  have h3 : d3.orphan = c.orphan := by
    simp only [d3]
    split <;> simp only [timeFlag_orphan, d2, d1, setFld_orphan, setReg_orphan]
  have h4 : d4.orphan = c.orphan := by
    simp only [d4]
    split
    · rw [setBit_orphan]
      simp only [e2, e1]
      split <;> split <;> simp only [setReg_orphan, h3]
    · exact h3
  have h5 : d5.orphan = c.orphan := by
    simp only [d5]
    split
    · rw [useTheta_orphan, h4]
    · rw [anomaly_orphan, h4]
  rw [setFld_orphan, h5]

theorem unmeasured_orphan : c.unmeasured.orphan = c.orphan := by
  unfold Cell.unmeasured
  dsimp only
  split
  · rw [setOk_orphan, setFld_orphan, setFld_orphan, setFld_orphan]
  · rw [setFld_orphan, setFld_orphan, setFld_orphan]

theorem setTime_orphan (x : Stamp) (e : Rat) : (c.setTime x e).orphan = c.orphan := by
  unfold Cell.setTime
  rw [timeFlag_orphan, setFld_orphan, setFld_orphan, setFld_orphan]

theorem showStamps_orphan (g : List Stamp) : (c.showStamps g).orphan = c.orphan := by
  unfold Cell.showStamps
  induction g generalizing c with
  | nil => rfl
  | cons x g ih => rw [List.foldl_cons, ih, setReg_orphan]

theorem noteN_orphan (g : List Stamp) : (c.noteN g).orphan = c.orphan := by
  unfold Cell.noteN
  cases g with
  | nil => rfl
  | cons x g =>
    dsimp only
    split
    · rw [setBit_orphan]
    · rfl

/-- The stamps of a frame are taken up, and show. -/
def takeStamps : Cell := ({ c with stamps := [] }.showStamps c.stamps).noteN c.stamps

theorem takeStamps_orphan : (takeStamps c).orphan = c.orphan := by
  unfold takeStamps
  rw [noteN_orphan, showStamps_orphan]

end

section
variable {c : Cell}

theorem timeUpdate_same {y : Cell} (h : c.thetaUpdate = y) (same : y.orphan = c.orphan) : c.timeUpdate = y := by
  unfold Cell.timeUpdate
  dsimp only
  rw [h, if_pos same]

/-- Before its time is set the first usable stamp sets it. -/
theorem thetaUpdate_sets {x : Stamp} {e : Rat} (ended : c.bit Reg.CN_SYS_CFG_STAT 0 = true)
    (set : (takeStamps c).isSet = false) (hx : (takeStamps c).setter c.stamps = some (x, e)) :
    c.thetaUpdate = (takeStamps c).setTime x e := by
  unfold Cell.thetaUpdate
  rw [if_neg (by simp [ended])]
  extract_lets g d own alien
  have set : d.isSet = false := set
  have hx : d.setter g = some (x, e) := hx
  rw [if_pos (by simp [set]), hx]
  rfl

/-- Trains of another FRAME_NO renumber the cell. -/
theorem thetaUpdate_renumbers {b f : Nat} {m : Meas} (ended : c.bit Reg.CN_SYS_CFG_STAT 0 = true)
    (set : (takeStamps c).isSet = true)
    (hm : (takeStamps c).renumber (c.stamps.filter (fun x => x.frame != x.k)) = some (b, f, m)) :
    let other := (c.stamps.filter (fun x => x.frame != x.k)).filter (fun x => x.frame == f)
    c.thetaUpdate = ((takeStamps c).adopt b f other).measured other m := by
  intro other
  unfold Cell.thetaUpdate
  rw [if_neg (by simp [ended])]
  extract_lets g d own alien
  have set : d.isSet = true := set
  have hm : d.renumber alien = some (b, f, m) := hm
  rw [if_neg (by simp [set]), hm]
  rfl

/-- Otherwise the first method that can be used gives θ. -/
theorem thetaUpdate_measures {m : Meas} (ended : c.bit Reg.CN_SYS_CFG_STAT 0 = true) (set : (takeStamps c).isSet = true)
    (own : (takeStamps c).renumber (c.stamps.filter (fun x => x.frame != x.k)) = none)
    (hm : (takeStamps c).theta (c.stamps.filter (fun x => x.frame == x.k)) = some m) :
    c.thetaUpdate = (takeStamps c).measured (c.stamps.filter (fun x => x.frame == x.k)) m := by
  unfold Cell.thetaUpdate
  rw [if_neg (by simp [ended])]
  extract_lets g d mine alien
  have set : d.isSet = true := set
  have own : d.renumber alien = none := own
  have hm : d.theta mine = some m := hm
  rw [if_neg (by simp [set]), own]
  dsimp only
  rw [hm]
  rfl

/-- A frame without a measurement. -/
theorem thetaUpdate_misses (ended : c.bit Reg.CN_SYS_CFG_STAT 0 = true) (set : (takeStamps c).isSet = true)
    (own : (takeStamps c).renumber (c.stamps.filter (fun x => x.frame != x.k)) = none)
    (hm : (takeStamps c).theta (c.stamps.filter (fun x => x.frame == x.k)) = none) :
    c.thetaUpdate = (takeStamps c).unmeasured := by
  unfold Cell.thetaUpdate
  rw [if_neg (by simp [ended])]
  extract_lets g d mine alien
  have set : d.isSet = true := set
  have own : d.renumber alien = none := own
  have hm : d.theta mine = none := hm
  rw [if_neg (by simp [set]), own]
  dsimp only
  rw [hm]
  rfl

end

/-- Settles O53. -/
theorem cellTime : Obligations.CellTime := by
  unfold Obligations.CellTime
  refine ⟨fun s k m run ended => ?_, fun s k b f m run ended => ?_, fun s k run ended => ?_, fun s k x e run ended => ?_,
    fun s k dl run => cell_runs (f := fun x => x.delayCal dl) run rfl⟩
  · intro g c own set none hm
    exact cell_runs (f := fun x => x.timeUpdate) run (timeUpdate_same (thetaUpdate_measures ended set none hm)
      ((measured_orphan _ _ _).trans (takeStamps_orphan _)))
  · intro g c alien set hm other y
    refine cell_runs (f := fun x => x.timeUpdate) run ?_
    unfold Cell.timeUpdate
    rw [thetaUpdate_renumbers ended set hm]
    rfl
  · intro g c set none hm
    exact cell_runs (f := fun x => x.timeUpdate) run (timeUpdate_same (thetaUpdate_misses ended set none hm)
      ((unmeasured_orphan _).trans (takeStamps_orphan _)))
  · intro g c set hx
    exact cell_runs (f := fun x => x.timeUpdate) run (timeUpdate_same (thetaUpdate_sets ended set hx)
      ((setTime_orphan _ _ _).trans (takeStamps_orphan _)))

/-! ### Boundaries (R73, R84, R153, R230, R501) -/

/-- Settles O54. -/
theorem cellBoundaries : Obligations.CellBoundaries := by
  unfold Obligations.CellBoundaries
  refine ⟨fun s k a run set named ha => ?_, fun s k run set named => ⟨fun armed => ?_, fun unarmed => ?_⟩,
    fun s k x y run set named => ?_⟩
  · intro c pend
    refine cell_runs (f := fun x => x.overrideAt) run ?_
    have pend0 : (s.cell k).pendOvr = some a := (passTo_pendOvr _ _).symm.trans pend
    unfold Cell.overrideAt
    rw [if_neg (not_or.mpr ⟨by simp [set], not_or.mpr ⟨named, by simp [pend0]⟩⟩)]
    change (let d := match c.pendOvr with | some a => _ | none => c; { d.setReg Reg.CN_SW_OVR_AT 0 with pendOvr := none }) = _
    rw [pend]
    dsimp only
    rw [if_neg ha]
  · refine cell_runs (f := fun x => x.closeAt) run ?_
    unfold Cell.closeAt
    rw [if_neg (not_or.mpr ⟨by simp [set], not_or.mpr ⟨named, armed⟩⟩)]
  · refine cell_runs (f := fun x => x.closeAt) run ?_
    unfold Cell.closeAt
    rw [if_pos (.inr (.inr unarmed))]
  · intro c lead app
    refine cell_runs (f := fun x => x.timeChangeAt) run ?_
    have lead0 : (s.cell k).pendLead = some x := (passTo_pendLead _ _).symm.trans lead
    unfold Cell.timeChangeAt
    rw [if_neg (not_or.mpr ⟨by simp [set], not_or.mpr ⟨named, by simp [lead0]⟩⟩)]
    extract_lets d e left right
    have hd : d = c.setReg Reg.CN_TIME_SLEAD (w32 x) := by simp only [d, lead]
    have hp : d.pendApply = some y := by
      rw [hd]
      exact app
    have he : e = d.setReg Reg.CN_TIME_APPLY (w32 y) := by simp only [e, hp]
    have same : left = right := congrArg (·.setReg Reg.CN_TIME_CHG_AT 0) (he.trans (by rw [hd]))
    rw [same]

end Sys2Proof.Proofs
end

section
/-!
PROOFS. Management packets at a cell (O55).
-/

namespace Sys2Proof.Proofs

open Sys2Proof Sys2Proof.Machine

/-! ### What a packet meets (R137, R138) -/

section
variable {c : Cell} {p : CnPkt} {ops : Nat → Bool}

theorem packetIn_taken (op : ops p.opc = true) (good : (c.lane (p.rx % 2)).good = true) (crc : crc8Ok p.mgs = true)
    (addr : c.addressed p = true) : c.packetIn ops p = c.takePacket p := by
  unfold Cell.packetIn
  rw [if_neg (by simp [op, good]), if_neg (by simp [crc]), if_pos addr]

theorem packetIn_passed (op : ops p.opc = true) (good : (c.lane (p.rx % 2)).good = true) (crc : crc8Ok p.mgs = true)
    (other : c.addressed p = false) : c.packetIn ops p = c.passPacket p p.blocks p.dcrc p.mge := by
  unfold Cell.packetIn
  rw [if_neg (by simp [op, good]), if_neg (by simp [crc]), if_neg (by simp [other])]

theorem takePacket_badDcrc (bad : p.dcrcOk = false) : c.takePacket p = c.answer p 4 p.blocks p.dcrc := by
  unfold Cell.takePacket
  rw [if_pos (by simp [bad])]

theorem takePacket_again (ok : p.dcrcOk = true) (op : p.opc < 5) (again : c.repeated p = true) :
    c.takePacket p = c.answer p 1 p.blocks p.dcrc := by
  unfold Cell.takePacket
  rw [if_neg (by simp [ok]), if_pos (by simp [op, again])]

theorem takePacket_refused (ok : p.dcrcOk = true) (fresh : (decide (p.opc < 5) && c.repeated p) = false)
    (refused : c.opcRefused p = true) : c.takePacket p = c.answer p 3 p.blocks p.dcrc := by
  unfold Cell.takePacket
  rw [if_neg (by simp [ok]), if_neg (by simp only [fresh, Bool.false_eq_true, not_false_eq_true]), if_pos refused]

theorem takePacket_read (ok : p.dcrcOk = true) (fresh : c.repeated p = false) (admitted : c.opcRefused p = false)
    (op : p.opc = 0) : c.takePacket p = c.readPacket p := by
  unfold Cell.takePacket
  rw [if_neg (by simp [ok]), if_neg (by simp [fresh]), if_neg (by simp [admitted]), if_pos op]

/-- A packet that may change the cell is performed; an applied one keeps its TAG, and a RESET then resets the cell. -/
theorem takePacket_performed {st : Nat} {d : Cell} (ok : p.dcrcOk = true) (fresh : c.repeated p = false)
    (admitted : c.opcRefused p = false) (op : p.opc ≠ 0) (done : c.perform p = (st, d)) :
    let e := (if st = 1 then d.keepTag p else d).answer p st p.blocks p.dcrc
    c.takePacket p = if p.opc = 4 ∧ st = 1 then { (e.reset 1).keepTag p with sent := e.sent } else e := by
  intro e
  unfold Cell.takePacket
  rw [if_neg (by simp [ok]), if_neg (by simp [fresh]), if_neg (by simp [admitted]), if_neg op, done]

/-- A packet that is not a RESET, and is applied. -/
theorem takePacket_applied {d : Cell} (ok : p.dcrcOk = true) (fresh : c.repeated p = false)
    (admitted : c.opcRefused p = false) (op : p.opc ≠ 0) (keep : p.opc ≠ 4) (done : c.perform p = (1, d)) :
    c.takePacket p = (d.keepTag p).answer p 1 p.blocks p.dcrc :=
  (takePacket_performed ok fresh admitted op done).trans (if_neg fun h => keep h.1)

/-- A packet with a status of its own, not applied. -/
theorem takePacket_failed {st : Nat} {d : Cell} (ok : p.dcrcOk = true) (fresh : c.repeated p = false)
    (admitted : c.opcRefused p = false) (op : p.opc ≠ 0) (done : c.perform p = (st, d)) (hst : st ≠ 1) :
    c.takePacket p = d.answer p st p.blocks p.dcrc := by
  refine (takePacket_performed ok fresh admitted op done).trans ((if_neg fun h => hst h.2).trans ?_)
  rw [if_neg hst]

/-! ### What each opcode does (R138, R141, R474) -/

theorem perform_write (op : p.opc = 1) : c.perform p = c.wordsIn p false := by
  unfold Cell.perform
  simp only [op]

theorem perform_config (op : p.opc = 2) : c.perform p = c.configIn p := by
  unfold Cell.perform
  simp only [op]

theorem perform_configEnd (op : p.opc = 3) : c.perform p = c.configEnd p := by
  unfold Cell.perform
  simp only [op]

theorem all_inMap_iff : p.addrs.any (fun a => !cnInMap a) = false ↔ p.addrs.all cnInMap = true := by
  simp only [List.any_eq_false, List.all_eq_true, Bool.not_eq_true', Bool.not_eq_false]

theorem perform_reset (op : p.opc = 4) (map : p.addrs.all cnInMap = true) :
    c.perform p = if p.blocks.getD 0 0 % 2 ^ 32 = 0xA5 then (1, c) else (3, c) := by
  unfold Cell.perform
  rw [op]
  exact if_neg (by rw [all_inMap_iff.mpr map]; exact Bool.false_ne_true)

theorem wordsIn_applied {cfg : Bool} (map : p.addrs.all cnInMap = true)
    (admitted : p.writes.any (c.wordRefused p.writes cfg) = false) :
    c.wordsIn p cfg = (1, p.writes.foldl (Cell.wordIn cfg) c) := by
  unfold Cell.wordsIn
  dsimp only
  rw [if_neg (by rw [all_inMap_iff.mpr map]; exact Bool.false_ne_true), if_neg (by rw [admitted]; exact Bool.false_ne_true)]

theorem wordsIn_outside {cfg : Bool} (out : p.addrs.any (fun a => !cnInMap a) = true) : c.wordsIn p cfg = (2, c) := by
  unfold Cell.wordsIn
  exact if_pos out

theorem wordsIn_refused {cfg : Bool} (map : p.addrs.all cnInMap = true)
    (refused : p.writes.any (c.wordRefused p.writes cfg) = true) :
    c.wordsIn p cfg = (3, p.writes.foldl (fun c x => c.flagRefused p.writes cfg x) c) := by
  unfold Cell.wordsIn
  dsimp only
  rw [if_neg (by rw [all_inMap_iff.mpr map]; exact Bool.false_ne_true), if_pos refused]

/-- The opcodes of a configured cell, and of one that is not (R138). -/
theorem admits_of_configured (conf : c.configured = true) (op : p.opc = 0 ∨ p.opc = 1 ∨ p.opc = 4) :
    c.opcRefused p = false := by
  unfold Cell.opcRefused
  obtain h | h | h := op <;> simp [h, conf]

theorem admits_of_not_configured (conf : c.configured = false) (op : p.opc = 0 ∨ p.opc = 2 ∨ p.opc = 3) :
    c.opcRefused p = false := by
  unfold Cell.opcRefused
  obtain h | h | h := op <;> simp [h, conf]

theorem refuses_of_not_configured (conf : c.configured = false) (op : p.opc = 1 ∨ p.opc = 4) : c.opcRefused p = true := by
  unfold Cell.opcRefused
  obtain h | h := op <;> simp [h, conf]

end

/-- What an accepted packet does, by opcode. -/
theorem packets_accepted (s : State) (k : CellRef) (p : CnPkt) (run : (s.cell k).clamped = false)
    (good : ((s.cell k).lane (p.rx % 2)).good = true) (crc : crc8Ok p.mgs = true) (addr : (s.cell k).addressed p = true)
    (ok : p.dcrcOk = true) (fresh : (s.cell k).repeated p = false) (admitted : (s.cell k).opcRefused p = false) :
    let c := s.cell k
    (p.opc = 0 → p.addrs.all cnInMap = true →
      let bs := readBlocks ((c.readAll p.addrs).1.map (·.toNat)) p.blocks
      exec (.mgRead k p) s = .next (s.setCell k
        ((c.readAll p.addrs).2.answer p 1 bs (crc32Words (blockWords bs)))))
    ∧ (p.opc = 1 → p.addrs.all cnInMap = true → p.writes.any (c.wordRefused p.writes false) = false →
      exec (.mgWrite k p) s = .next (s.setCell k
        (((p.writes.foldl (Cell.wordIn false) c).keepTag p).answer p 1 p.blocks p.dcrc)))
    ∧ (p.opc = 2 → (c.configIn p).1 = 1 →
      exec (.mgConfig k p) s = .next (s.setCell k (((c.configIn p).2.keepTag p).answer p 1 p.blocks p.dcrc)))
    ∧ (p.opc = 3 → p.blocks.getD 0 0 % 2 ^ 32 = (c.reg Reg.CN_SYS_CFG_CRC).toNat →
      exec (.mgConfigEnd k p) s = .next (s.setCell k
        ((((if (((c.setBit Reg.CN_SYS_CFG_STAT 0 true).hkSync)).cfgRetire
            then ((c.setBit Reg.CN_SYS_CFG_STAT 0 true).hkSync).enterRetired 4
            else { (((c.setBit Reg.CN_SYS_CFG_STAT 0 true).hkSync).setBit Reg.CN_ADC_STAT 0 true) with
              calib := true }).keepTag p)).answer p 1 p.blocks p.dcrc)))
    ∧ (p.opc = 4 → p.addrs.all cnInMap = true → p.blocks.getD 0 0 % 2 ^ 32 = 0xA5 →
      exec (.mgReset k p) s = .next (s.setCell k
        { ((((c.keepTag p).answer p 1 p.blocks p.dcrc).reset 1).keepTag p) with
          sent := ((c.keepTag p).answer p 1 p.blocks p.dcrc).sent })) := by
  intro c
  have taken {ops : Nat → Bool} (op : ops p.opc = true) : c.packetIn ops p = c.takePacket p :=
    packetIn_taken op good crc addr
  refine ⟨fun op map => ?_, fun op map adm => ?_, fun op done => ?_, fun op match_ => ?_, fun op map key => ?_⟩
  · refine cell_runs (f := fun x => x.packetIn (fun op => op == 0) p) run ((taken (by simp [op])).trans ?_)
    rw [takePacket_read ok fresh admitted op]
    unfold Cell.readPacket
    simp only [map, if_true]
    rfl
  · refine cell_runs (f := fun x => x.packetIn (fun op => op == 1) p) run ((taken (by simp [op])).trans ?_)
    exact takePacket_applied ok fresh admitted (by omega) (by omega) ((perform_write op).trans (wordsIn_applied map adm))
  · refine cell_runs (f := fun x => x.packetIn (fun op => op == 2) p) run ((taken (by simp [op])).trans ?_)
    exact takePacket_applied ok fresh admitted (by omega) (by omega) ((perform_config op).trans (Prod.ext done rfl))
  · refine cell_runs (f := fun x => x.packetIn (fun op => op == 3) p) run ((taken (by simp [op])).trans ?_)
    refine takePacket_applied ok fresh admitted (by omega) (by omega) ((perform_configEnd op).trans ?_)
    unfold Cell.configEnd
    rw [if_neg (not_not.mpr match_)]
  · refine cell_runs (f := fun x => x.packetIn (fun op => op == 4) p) run ((taken (by simp [op])).trans ?_)
    exact (takePacket_performed ok fresh admitted (by omega) ((perform_reset op map).trans (if_pos key))).trans
      (if_pos ⟨op, rfl⟩)

/-- What a packet is answered that is not accepted. -/
theorem packets_refused (s : State) (k : CellRef) (p : CnPkt) (run : (s.cell k).clamped = false)
    (good : ((s.cell k).lane (p.rx % 2)).good = true) (crc : crc8Ok p.mgs = true) :
    let c := s.cell k
    (5 ≤ p.opc → c.addressed p = true → p.dcrcOk = true →
      exec (.mgReservedOpcode k p) s = .next (s.setCell k (c.answer p 3 p.blocks p.dcrc)))
    ∧ (p.opc = 1 → c.addressed p = true → p.dcrcOk = false →
      exec (.mgWrite k p) s = .next (s.setCell k (c.answer p 4 p.blocks p.dcrc)))
    ∧ (p.opc = 1 → c.addressed p = true → p.dcrcOk = true → c.repeated p = true →
      exec (.mgWrite k p) s = .next (s.setCell k (c.answer p 1 p.blocks p.dcrc)))
    ∧ (p.opc = 1 → c.addressed p = true → p.dcrcOk = true → c.repeated p = false → c.configured = false →
      exec (.mgWrite k p) s = .next (s.setCell k (c.answer p 3 p.blocks p.dcrc)))
    ∧ (p.opc = 1 → c.addressed p = true → p.dcrcOk = true → c.repeated p = false → c.configured = true →
      (p.addrs.any (fun a => !cnInMap a) = true → exec (.mgWrite k p) s = .next (s.setCell k (c.answer p 2 p.blocks p.dcrc)))
      ∧ (p.addrs.all cnInMap = true → p.writes.any (c.wordRefused p.writes false) = true →
        exec (.mgWrite k p) s = .next (s.setCell k
          ((p.writes.foldl (fun c x => c.flagRefused p.writes false x) c).answer p 3 p.blocks p.dcrc))))
    ∧ (p.opc = 3 → c.addressed p = true → p.dcrcOk = true → c.repeated p = false → c.configured = false →
      p.blocks.getD 0 0 % 2 ^ 32 ≠ (c.reg Reg.CN_SYS_CFG_CRC).toNat →
      exec (.mgConfigEnd k p) s = .next (s.setCell k (c.answer p 5 p.blocks p.dcrc)))
    ∧ (p.opc = 4 → c.addressed p = true → p.dcrcOk = true → c.repeated p = false → c.configured = true →
      p.addrs.all cnInMap = true → p.blocks.getD 0 0 % 2 ^ 32 ≠ 0xA5 →
      exec (.mgReset k p) s = .next (s.setCell k (c.answer p 3 p.blocks p.dcrc)))
    ∧ (p.opc = 1 → c.addressed p = false →
      exec (.mgWrite k p) s = .next (s.setCell k (c.passPacket p p.blocks p.dcrc p.mge))) := by
  intro c
  have write {x : Cell} (op : p.opc = 1) (addr : c.addressed p = true) (h : c.takePacket p = x) :
      exec (.mgWrite k p) s = .next (s.setCell k x) :=
    cell_runs (f := fun x => x.packetIn (fun op => op == 1) p) run
      ((packetIn_taken (by simp [op]) good crc addr).trans h)
  refine ⟨fun op addr ok => ?_, fun op addr bad => ?_, fun op addr ok again => ?_, fun op addr ok fresh unconf => ?_,
    fun op addr ok fresh conf => ⟨fun out => ?_, fun map refused => ?_⟩, fun op addr ok fresh unconf differs => ?_,
    fun op addr ok fresh conf map key => ?_, fun op other => ?_⟩
  · refine cell_runs (f := fun x => x.packetIn (fun op => decide (5 ≤ op)) p) run
      ((packetIn_taken (by simp [op]) good crc addr).trans ?_)
    exact takePacket_refused ok (by simp [Nat.not_lt.mpr op]) (by simp [Cell.opcRefused, op])
  · exact write op addr (takePacket_badDcrc bad)
  · exact write op addr (takePacket_again ok (by omega) again)
  · exact write op addr (takePacket_refused ok (by simp [fresh]) (refuses_of_not_configured unconf (.inl op)))
  · exact write op addr (takePacket_failed ok fresh (admits_of_configured conf (.inr (.inl op))) (by omega)
      ((perform_write op).trans (wordsIn_outside out)) (by omega))
  · exact write op addr (takePacket_failed ok fresh (admits_of_configured conf (.inr (.inl op))) (by omega)
      ((perform_write op).trans (wordsIn_refused map refused)) (by omega))
  · refine cell_runs (f := fun x => x.packetIn (fun op => op == 3) p) run
      ((packetIn_taken (by simp [op]) good crc addr).trans ?_)
    exact takePacket_failed ok fresh (admits_of_not_configured unconf (.inr (.inr op))) (by omega)
      ((perform_configEnd op).trans (if_pos differs)) (by omega)
  · refine cell_runs (f := fun x => x.packetIn (fun op => op == 4) p) run
      ((packetIn_taken (by simp [op]) good crc addr).trans ?_)
    exact takePacket_failed ok fresh (admits_of_configured conf (.inr (.inr op))) (by omega)
      ((perform_reset op map).trans (if_neg key)) (by omega)
  · exact cell_runs (f := fun x => x.packetIn (fun op => op == 1) p) run
      (packetIn_passed (by simp [op]) good crc other)

/-- Settles O55. -/
theorem cellPackets : Obligations.CellPackets := by
  unfold Obligations.CellPackets
  exact ⟨packets_accepted, packets_refused⟩

end Sys2Proof.Proofs
end

section
/-!
PROOFS. Protection, calibration and resets of a cell (O56, O57, O59, O60).
-/

namespace Sys2Proof.Proofs

open Sys2Proof Sys2Proof.Machine

/-! ### Marks, states and registers -/

theorem testBit_putBit_same (x i : Nat) (b : Bool) : (putBit x i b).testBit i = b := by
  unfold putBit
  cases b
  · by_cases h : x.testBit i = true
    · obtain ⟨y, rfl⟩ := Nat.exists_eq_add_of_le (Nat.ge_two_pow_of_testBit h)
      rw [Nat.testBit_two_pow_add_eq, Bool.not_eq_true'] at h
      simp [Nat.testBit_two_pow_add_eq, h]
    · simp [h]
  · by_cases h : x.testBit i = true
    · simp [h]
    · simp [h, Nat.add_comm x, Nat.testBit_two_pow_add_eq]

section
variable (c : Cell)

theorem setReg_st {a : Nat} (h : a ≠ Reg.CN_SYS_STATE) (w : Word) : (c.setReg a w).st = c.st :=
  CellReg.fld_other c h.symm w 0 3

theorem guarded_of_st {c d : Cell} (h : d.st = c.st) : d.guarded = c.guarded := by
  unfold Cell.guarded Cell.configured
  rw [h]

theorem setReg_guarded {a : Nat} (h : a ≠ Reg.CN_SYS_STATE) (w : Word) : (c.setReg a w).guarded = c.guarded :=
  guarded_of_st (setReg_st c h w)

/-- A conversion within the range of the converter is not clamped (R80). -/
theorem over14_eq_false {raw : Int} (h0 : 0 ≤ raw) (h1 : raw ≤ 16383) : over14 raw = false := by
  simp [over14, h0, h1]

/-- A warning changes its flag and its mark alone (R100). -/
theorem warning_fld {a flag : Nat} (h : a ≠ Reg.CN_PROT_STAT) (i lo len : Nat) (on off : Bool) :
    (c.warning i flag on off).fld a lo len = c.fld a lo len := by
  unfold Cell.warning
  split
  · exact (CellReg.fld_of_regs (c := c.setBit Reg.CN_PROT_STAT flag true) rfl _ _ _).trans (CellReg.fld_other c h _ _ _)
  · split
    · exact CellReg.fld_of_regs rfl _ _ _
    · rfl

theorem warning_ovRun (i flag : Nat) (on off : Bool) : (c.warning i flag on off).ovRun = c.ovRun := by
  unfold Cell.warning
  split
  · rfl
  · split <;> rfl

theorem warning_guarded (i flag : Nat) (on off : Bool) : (c.warning i flag on off).guarded = c.guarded :=
  guarded_of_st (warning_fld c (by decide) i 0 3 on off)

end

/-! ### Conversions of AIN_CAP (R80, R100, R110) -/

section
variable (c : Cell) {raw : Int}

/-- The conversion shows, and the warning of over-voltage is taken anew. -/
def capShown (raw : Int) : Cell :=
  let d := c.setReg Reg.CN_ADC_CAP (w32 (clamp14 raw))
  d.warning 0 3 (decide (d.fld Reg.CN_PROT_OV 16 14 < clamp14 raw)) (decide (clamp14 raw < d.fld Reg.CN_PROT_OV 16 14))

theorem capShown_fld {a : Nat} (h : a ≠ Reg.CN_PROT_STAT) (h' : a ≠ Reg.CN_ADC_CAP) (lo len : Nat) :
    (capShown c raw).fld a lo len = c.fld a lo len := by
  unfold capShown
  dsimp only
  rw [warning_fld _ h, CellReg.fld_other c h']

theorem capShown_guarded : (capShown c raw).guarded = c.guarded := by
  unfold capShown
  dsimp only
  rw [warning_guarded, setReg_guarded c (by decide)]

theorem capShown_ovRun : (capShown c raw).ovRun = c.ovRun := by
  unfold capShown
  dsimp only
  rw [warning_ovRun]
  rfl

theorem capConv_guarded (h0 : 0 ≤ raw) (h1 : raw ≤ 16383) (g : c.guarded = true) :
    c.capConv raw = (capShown c raw).tripConv raw := by
  unfold Cell.capConv
  have gd : (c.setReg Reg.CN_ADC_CAP (w32 (clamp14 raw))).guarded = true := (setReg_guarded c (by decide) _).trans g
  simp only [over14_eq_false h0 h1, b2n, Bool.false_eq_true, if_false, Nat.zero_mul, Nat.add_zero, gd, if_true]
  rfl

theorem capConv_unwatched (h0 : 0 ≤ raw) (h1 : raw ≤ 16383) (g : c.guarded = false) :
    c.capConv raw = { c.setReg Reg.CN_ADC_CAP (w32 (clamp14 raw)) with ovRun := 0 } := by
  unfold Cell.capConv
  have gd : (c.setReg Reg.CN_ADC_CAP (w32 (clamp14 raw))).guarded = false := (setReg_guarded c (by decide) _).trans g
  simp only [over14_eq_false h0 h1, b2n, Bool.false_eq_true, if_false, Nat.zero_mul, Nat.add_zero, gd]

/-- A conversion above OV_TRIP counts on, and retires the cell at OV_COUNT. -/
theorem tripConv_over (h : c.fld Reg.CN_PROT_OV 0 14 < clamp14 raw) :
    c.tripConv raw = if c.fld Reg.CN_PROT_CFG0 28 2 ≤ c.ovRun + 1 then { c with ovRun := c.ovRun + 1 }.retireNow 3
      else { c with ovRun := c.ovRun + 1 } := by
  have above : c.overTrip raw = true := by simp [Cell.overTrip, h]
  unfold Cell.tripConv
  simp only [above, if_true]
  rfl

/-- One that does not lie above it ends the count. -/
theorem tripConv_within (h1 : raw ≤ 16383) (h : clamp14 raw ≤ c.fld Reg.CN_PROT_OV 0 14)
    (count : 0 < c.fld Reg.CN_PROT_CFG0 28 2) : c.tripConv raw = { c with ovRun := 0 } := by
  have within : c.overTrip raw = false := by simp [Cell.overTrip, h, h1]
  unfold Cell.tripConv
  simp only [within, Bool.false_eq_true, if_false]
  exact if_neg (Nat.not_le.mpr count)

theorem retireNow_guarded {d : Cell} (g : d.guarded = true) (cause : Nat) : d.retireNow cause = d.enterRetired cause :=
  if_pos g

end

/-! ### Housekeeping and calibration (R100, R112, R113) -/

/-- Settles O56. -/
theorem cellServices : Obligations.CellServices := by
  unfold Obligations.CellServices
  refine ⟨⟨fun s k w run => ?_, fun s k w run => ?_, fun s k run on => ?_, fun s k a w g run hk => ⟨fun mem => ?_,
    fun deny => ?_⟩⟩, fun s k run cal unconf => ?_, fun s k run st idle => ?_, fun s k run => ⟨fun one => ?_, fun two => ?_⟩,
    fun s k run g => ?_, fun s k run re => ?_, fun s k raw run h0 h1 => ⟨fun g => ?_, fun g within count => ?_,
    fun g above => ?_⟩⟩
  · exact cell_runs (f := fun x => x.mboxIn w) run rfl
  · exact cell_runs (f := fun x => x.mboxOut w) run rfl
  · exact cell_runs (f := fun x => x.hkError) run (if_pos on)
  · refine cell_runs (f := fun x => x.hkWrite a w) run ?_
    unfold Cell.hkWrite
    rw [if_neg (by simp [hk]), if_pos mem]
  · refine cell_runs (f := fun x => x.hkWrite a w) run ?_
    unfold Cell.hkWrite
    rw [if_neg (by simp [hk]), if_neg (by omega), if_pos deny]
  · exact cell_runs (f := fun x => x.calDone) run (if_pos ⟨cal, unconf⟩)
  · exact cell_runs (f := fun x => x.adcCal) run ((if_pos st).trans (if_pos idle))
  · refine cell_runs (f := fun x => x.recalStage) run ?_
    unfold Cell.recalStage
    simp only [one]
  · refine cell_runs (f := fun x => x.recalStage) run ?_
    unfold Cell.recalStage
    simp only [two]
  · exact cell_runs (f := fun x => x.parityError) run (if_pos g)
  · exact cell_runs (f := fun x => x.parityClear) run (if_pos re)
  · refine cell_runs (f := fun x => x.capConv raw) run (capConv_unwatched _ h0 h1 ?_)
    exact (setReg_guarded _ (by decide) _).symm.trans g
  · refine cell_runs (f := fun x => x.capConv raw) run ((capConv_guarded _ h0 h1 ?_).trans (tripConv_within _ h1 within count))
    exact (setReg_guarded _ (by decide) _).symm.trans g
  · intro z
    refine cell_runs (f := fun x => x.capConv raw) run ((capConv_guarded _ h0 h1 ?_).trans (tripConv_over _ above))
    exact (setReg_guarded _ (by decide) _).symm.trans g

/-! ### Retiring (R100, R102, R104) -/

/-- Settles O57. -/
theorem cellRetires : Obligations.CellRetires := by
  unfold Obligations.CellRetires
  refine ⟨fun s k b chat run g => ?_, fun s k raws raw run h1 h0 => ?_, fun s k run g set => ?_, fun s k run st fast => ?_,
    fun s k run st fast mech => ?_⟩
  · refine cell_runs (f := fun x => x.desat b chat) run ?_
    unfold Cell.desat
    refine retireNow_guarded (guarded_of_st ?_ |>.trans g) _
    cases chat
    · rfl
    · exact (setReg_st _ (by decide) _).trans (CellReg.fld_of_regs rfl _ _ _)
  · intro x g above count c warn y
    refine cell_runs (f := fun x => x.overVoltage (raws ++ [raw])) run ?_
    unfold Cell.overVoltage
    rw [List.foldl_append]
    change x.capConv raw = _
    have hy : capShown x raw = y := by
      unfold capShown
      dsimp only
      rw [CellReg.fld_other x (by decide)]
    have above' : (capShown x raw).fld Reg.CN_PROT_OV 0 14 < clamp14 raw := by
      rwa [capShown_fld x (by decide) (by decide)]
    have count' : (capShown x raw).fld Reg.CN_PROT_CFG0 28 2 ≤ (capShown x raw).ovRun + 1 := by
      rwa [capShown_fld x (by decide) (by decide), capShown_ovRun]
    have g' : ({ capShown x raw with ovRun := (capShown x raw).ovRun + 1 } : Cell).guarded = true :=
      (guarded_of_st (CellReg.fld_of_regs rfl _ _ _)).trans ((capShown_guarded x).trans g)
    rw [capConv_guarded x h0 h1 g, tripConv_over _ above', if_pos count', retireNow_guarded g', capShown_ovRun, hy]
  · intro c
    refine cell_runs (f := fun x => x.retireWrite (w32 0x00A50001)) run ?_
    have keyed : (s.cell k).protCmd false (w32 0x00A50001) = c := by
      unfold Cell.protCmd
      rw [if_neg (by decide), if_pos (by decide), if_neg Bool.false_ne_true, if_pos g]
    unfold Cell.retireWrite
    rw [keyed]
    exact if_pos ⟨rfl, set⟩
  · exact cell_runs (f := fun x => x.bypFast) run (if_pos ⟨st, by simp [fast]⟩)
  · exact cell_runs (f := fun x => x.bypMech) run (if_pos ⟨st, fast, by simp [mech]⟩)

/-! ### Freezes and block causes (R100, R101, R107 to R110) -/

section
variable {c : Cell}

theorem freezeWrite_refused {w : Word} (set : bit w 0 = true)
    (bad : ¬ ((c.st = stActive ∨ c.st = stBlocked ∨ c.st = stFrozen) ∧ c.code < fld w 16 10)) :
    c.freezeWrite w = c.setBit Reg.CN_PROT_STAT 11 true := by
  have refused : c.freezeRefused w = true := by
    unfold Cell.freezeRefused
    simp only [set, Bool.true_and, Bool.not_eq_true', Bool.and_eq_false_iff, Bool.or_eq_false_iff, beq_eq_false_iff_ne,
      decide_eq_false_iff_not]
    tauto
  exact if_pos refused

theorem freezeWrite_admitted {w : Word} (set : bit w 0 = true)
    (ok : (c.st = stActive ∨ c.st = stBlocked ∨ c.st = stFrozen) ∧ c.code < fld w 16 10) :
    c.freezeWrite w = if c.st = stFrozen then c.setReg Reg.CN_PROT_FRZ (w &&& w32 0x3FF0001)
      else ((c.setReg Reg.CN_PROT_FRZ (w &&& w32 0x3FF0001)).holdGates.setLocal false).setSt stFrozen := by
  obtain ⟨st, code⟩ := ok
  have admitted : c.freezeRefused w = false := by
    unfold Cell.freezeRefused
    obtain h | h | h := st <;> simp [h, code]
  unfold Cell.freezeWrite
  rw [if_neg (by simp [admitted])]
  dsimp only
  rw [if_pos set]
  simp only [beq_iff_eq]

theorem supplyBlock_lost (g : c.guarded = true) (lost : c.noSupply = true) :
    c.supplyBlock = (c.setBit Reg.CN_PROT_STAT 8 true).blockNow cSupply := if_pos ⟨g, lost⟩

/-- A temperature of slice 1 above both limits warns and blocks. -/
theorem auxResult_hot {raws : List Int} (cal : c.calib = false) (recal : c.recal = 0) (turn : c.auxNext = 0)
    (len : raws.length = 64) (clean : raws.any over14 = false) :
    let y := (divAny 57 ((raws.drop 32).foldl (fun s r => s + (clamp14 r : Int)) 0) 32).toNat
    let d : Cell := { c.setReg (Reg.CN_ADC_AUX 0) (w32 y) with auxNext := 1 }
    d.guarded = true → d.fld Reg.CN_PROT_TEMP 16 14 < y → d.fld Reg.CN_PROT_TEMP 0 14 < y →
    c.auxResult 0 raws = ((d.warning 2 6 true false).setBit Reg.CN_PROT_STAT 5 true).blockNow cTemp := by
  intro y d g warm hot
  unfold Cell.auxResult
  rw [if_neg (by simp [cal, recal, turn, len])]
  extract_lets sum mean src d1 d2 limit d3 d4
  have e2 : d2 = d := if_neg (by simp [clean])
  have e3 : d3 = d.warning 2 6 true false := by
    simp only [d3, limit, e2]
    rw [decide_eq_true warm, decide_eq_false (Nat.lt_asymm warm)]
  have e4 : d4 = d3 := if_neg (by rw [show limit = d.fld Reg.CN_PROT_TEMP 16 14 from by simp only [limit, e2]]; exact Nat.lt_asymm warm)
  rw [e2, if_neg (by simp [g]), if_pos rfl, e4, e3, if_pos (by rwa [warning_fld d (by decide)])]

end

/-- Settles O59. -/
theorem cellBlocking : Obligations.CellBlocking := by
  unfold Obligations.CellBlocking
  refine ⟨⟨fun s k w run st set code => ?_, fun s k w run st set code => ?_, fun s k w run set bad => ?_,
    fun s k run st => ?_⟩, fun s k run g => ⟨?_, ?_⟩, fun s k run => ?_, fun s k pin run hpin => ?_,
    fun s k raws run cal recal turn len clean => ?_⟩
  · refine cell_runs (f := fun x => x.freezeWrite w) run ((freezeWrite_admitted set ⟨by tauto, code⟩).trans (if_neg ?_))
    obtain h | h := st <;> rw [h] <;> decide
  · exact cell_runs (f := fun x => x.freezeWrite w) run ((freezeWrite_admitted set ⟨.inr (.inr st), code⟩).trans (if_pos st))
  · exact cell_runs (f := fun x => x.freezeWrite w) run (freezeWrite_refused set bad)
  · exact cell_runs (f := fun x => x.freezeExit) run (if_pos st)
  · refine cell_runs (f := fun x => x.supplyLost false) run (supplyBlock_lost ?_ rfl)
    exact (guarded_of_st (CellReg.fld_of_regs rfl _ _ _)).trans g
  · refine cell_runs (f := fun x => x.supplyLost true) run (supplyBlock_lost ?_ ?_)
    · refine (guarded_of_st ?_).trans g
      exact (setReg_st _ (by decide) _).trans (CellReg.fld_of_regs rfl _ _ _)
    · change (!_ || (putBit (s.cell k).chatter 2 true).testBit 2) = true
      rw [testBit_putBit_same, Bool.or_true]
  · intro c
    refine cell_runs (f := fun x => x.supplyBack) run ?_
    unfold Cell.supplyBack Cell.supplyClear
    rw [show ({ s.cell k with gsup := true } : Cell).noSupply = (s.cell k).chatter.testBit 2 from Bool.false_or _]
  · intro c
    refine cell_runs (f := fun x => x.chatterOff pin) run ?_
    have e : (s.cell k).setChatter pin false = c := rfl
    unfold Cell.chatterOff
    rw [e]
    dsimp only
    by_cases h : pin = 2
    · have lost : c.noSupply = !(s.cell k).gsup := by
        subst h
        change (!(s.cell k).gsup || (putBit (s.cell k).chatter 2 false).testBit 2) = _
        rw [testBit_putBit_same, Bool.or_false]
      unfold Cell.supplyClear
      rw [if_pos h, lost]
      cases (s.cell k).gsup <;> simp [h]
    · rw [if_neg h, if_neg fun e => h e.1]
  · intro y c g warm hot
    exact cell_runs (f := fun x => x.auxResult 0 raws) run (auxResult_hot cal recal turn len clean g warm hot)

/-! ### Resets (R460, R470, R474, R493) -/

/-- A reset of the whole cell leaves it Unconfigured with its gates off, its bypass pins undriven, and the strap of its
regulator and its test access port as they stood. -/
theorem reset_shows (c : Cell) (cause : Nat) : (c.reset cause).st = stUnconf ∧ (c.reset cause).rstCause = 2 ^ cause
    ∧ (c.reset cause).stageOff = true ∧ (c.reset cause).bypPins = none
    ∧ (c.reset cause).bit Reg.CN_SYS_PWR 1 = c.bit Reg.CN_SYS_PWR 1 ∧ (c.reset cause).tap = c.tap
    ∧ (c.reset cause).clamped = false := by
  have fresh : ({} : Cell).st = stUnconf := by decide
  have st : (c.reset cause).st = stUnconf :=
    ((setReg_st _ (by decide) _).trans (CellReg.fld_of_regs (c := {}) rfl _ _ _)).trans fresh
  refine ⟨st, rfl, (setReg_stageOff _ _ _).trans rfl, if_neg fun h => ?_, CellReg.bit_setBit_same _ _ (by omega) _, rfl, rfl⟩
  have conf := h.1
  unfold Cell.configured at conf
  simp [st] at conf

/-- Settles O60. -/
theorem cellResets : Obligations.CellResets := by
  unfold Obligations.CellResets
  refine ⟨fun s k b _ => ?_, fun s k => ?_, fun s k g w held => ?_, fun s k g run => ⟨?_, fun conf tap inv => ?_⟩,
    fun s k t h1 h2 h3 => ?_⟩
  · obtain ⟨st, cause, off, byp, strap, -, -⟩ := reset_shows ((s.cell k).setBit Reg.CN_SYS_PWR 1 b) 0
    exact ⟨_, rfl, st, cause, off, byp, strap.trans (CellReg.bit_setBit_same _ _ (by omega) _)⟩
  · obtain ⟨st, cause, off, byp, -, tap, -⟩ := reset_shows (s.cell k) 2
    exact ⟨_, rfl, st, cause, off, byp, tap⟩
  · obtain ⟨st, cause, off, -, -, -, free⟩ := reset_shows (s.cell k) 2
    refine ⟨(s.cell k).reset 2, ?_, st, cause, off, free⟩
    change (Host.Outcome.next (s.setCell k (s.cell k).pllBack) : Host.Outcome State Fault Refusal) = _
    rw [show (s.cell k).pllBack = (s.cell k).reset 2 from if_pos held]
  · exact cell_runs (f := Cell.pllLost) run rfl
  · unfold Cell.pin Cell.pinHigh
    dsimp only at inv ⊢
    simp [inv]
  · change (Host.Outcome.next (s.setCell k ((s.cell k).tapLoad t)) : Host.Outcome State Fault Refusal) = _
    have e : (s.cell k).tapLoad t = { s.cell k with tap := t } := by
      cases t with
      | extestPulse => exact absurd rfl h1
      | extestTrain => exact absurd rfl h2
      | debug => exact absurd rfl h3
      | _ => rfl
    rw [e]

end Sys2Proof.Proofs
end

section
/-!
PROOFS. Words in memory, and the registers of the valve processor: what writes and reads of the cores do (O7, O8, O9, O10).
-/

namespace Sys2Proof.Proofs

open Sys2Proof Sys2Proof.Machine

/-- What a command does to a running valve processor is what its operation does. -/
theorem vp_runs {s : State} (h : s.vp.runs = true) {f : Vp → Vp} {u : Vp} (hf : f s.vp = u) :
    (.next (s.onVp f) : Host.Outcome State Fault Refusal) = .next (s.after u) := by
  rw [State.onVp_after h, hf]

/-- What every step of a fold keeps, the fold keeps. -/
theorem foldl_keeps {α β γ : Type} {p : α → γ} {g : α → β → α} (h : ∀ v x, p (g v x) = p v) (l : List β) (v : α) :
    p (l.foldl g v) = p v := by
  induction l generalizing v with
  | nil => rfl
  | cons x l ih => exact (ih _).trans (h v x)

/-! ### Words in memory -/

/-- The bytes of a word in memory are its bytes, the lowest first (R5). -/
theorem mget_msetW (m : List Host.Cell) (a : Nat) (w : Word) {i : Nat} (h : i < 4) :
    mget (msetW m a w) (a + i) = BitVec.ofNat 8 (w.toNat / 2 ^ (8 * i)) := by
  unfold msetW
  obtain rfl | rfl | rfl | rfl : i = 0 ∨ i = 1 ∨ i = 2 ∨ i = 3 := by omega
  all_goals simp [mget_mset_same, mget_mset_other]

theorem mget_msetW_other (m : List Host.Cell) (a : Nat) (w : Word) {b : Nat} (h : b < a ∨ a + 4 ≤ b) :
    mget (msetW m a w) b = mget m b := by
  unfold msetW
  rw [mget_mset_other _ _ (by omega), mget_mset_other _ _ (by omega), mget_mset_other _ _ (by omega),
    mget_mset_other _ _ (by omega)]

theorem mgetW_msetW (m : List Host.Cell) (a : Nat) (w : Word) : mgetW (msetW m a w) a = w := by
  have b0 : mget (msetW m a w) a = _ := mget_msetW m a w (i := 0) (by decide)
  unfold mgetW
  rw [b0, mget_msetW m a w (by decide), mget_msetW m a w (by decide), mget_msetW m a w (by decide)]
  apply BitVec.eq_of_toNat_eq
  have := w.isLt
  simp only [w32, BitVec.toNat_ofNat]
  omega

/-- Settles O7: byte by byte, and the bytes make up the word again. -/
theorem memoryWord : Obligations.MemoryWord := by
  unfold Obligations.MemoryWord
  intro m a w
  exact ⟨mgetW_msetW m a w, fun i => mget_msetW m a w, fun b => mget_msetW_other m a w, fun h => wf_msetW h a w⟩

/-! ### Values kept by key -/

theorem lookup_sput_same {α : Type} (l : List (Nat × α)) (k : Nat) (x : α) : (sput k x l).lookup k = some x := by
  induction l with
  | nil => simp [sput]
  | cons p l ih =>
    unfold sput
    split
    · simp [List.lookup]
    · split
      next h => simp [List.lookup]
      next h =>
        have : (k == p.1) = false := by simpa using h
        simpa [List.lookup, this] using ih

theorem lookup_sput_other {α : Type} (l : List (Nat × α)) {k j : Nat} (x : α) (h : j ≠ k) :
    (sput k x l).lookup j = l.lookup j := by
  have hk : (j == k) = false := by simpa using h
  induction l with
  | nil => simp [sput, List.lookup, hk]
  | cons p l ih =>
    unfold sput
    split
    · simp [List.lookup, hk]
    · split
      next e => subst e; simp [List.lookup, hk]
      next =>
        cases hj : j == p.1 with
        | true => simp [List.lookup, hj]
        | false => simpa [List.lookup, hj] using ih

/-! ### Writes by access code (R7, R8) -/

section
variable (v : Vp) (m a : Nat) (r : RegRow) (w : Word)

theorem effect_readOnly {r : RegRow} (h : r.acc = .ro ∨ r.acc = .ros) : v.effect m a r w = v := by
  unfold Vp.effect
  obtain h | h := h <;> simp only [h]

theorem effect_w1c {r : RegRow} (h : r.acc = .w1c) : v.effect m a r w = v.setReg a (v.reg a &&& ~~~ (w &&& w32 r.mask)) := by
  unfold Vp.effect
  simp only [h]

theorem effect_wideBelow {r : RegRow} (h : r.acc = .rw ∨ r.acc = .rws ∨ r.acc = .wo) (hw : wideBelow a = true) :
    v.effect m a r w = v.wideHold a r.mask w := by
  unfold Vp.effect
  obtain h | h | h := h <;> simp only [h, hw, if_true]

theorem bit_eq_getLsbD (i : Nat) : bit w i = w.getLsbD i := rfl

/-- A store sets the bits of the mask and keeps the others. -/
theorem bit_store (mask : Nat) {i : Nat} (hi : i < 32) :
    bit ((v.store a mask w).reg a) i = if (w32 mask).toNat.testBit i then bit w i else bit (v.reg a) i := by
  unfold Vp.store
  rw [Vp.reg_setReg_same]
  simp only [bit_eq_getLsbD, BitVec.getLsbD_or, BitVec.getLsbD_and, BitVec.getLsbD_not, hi, decide_true, Bool.true_and,
    BitVec.testBit_toNat]
  by_cases hm : (w32 mask).getLsbD i = true <;> simp [hm]

/-- In a register of GRID no write has an effect of its own. -/
theorem effect_grid {r : RegRow} (h : r.acc = .rw ∨ r.acc = .rws) (hb : a / 0x10000 % 16 = 10) (hf : a % 0x10000 < 0xFF00)
    (hs : stickyClr a = false) (hw : wideBelow a = false) (hl : wideLower a = []) :
    v.effect m a r w = v.store a r.mask w := by
  rw [Vp.effect_block (by tauto) hf ⟨hs, hw, hl⟩]
  simp only [hb]

end

/-! ### Writes of a core (R38, R72, R277, R468) -/

section
variable {v : Vp} {m a : Nat} (w : Word)

theorem coreWrite_busError (acts : v.masterActs m = true) (bus : busError m a true = true) :
    v.coreWrite m a w = v.accessFault m a 1 := by
  unfold Vp.coreWrite
  rw [if_neg (by simp [acts]), if_pos bus]

theorem belowLimit_reg (h : region m a = .reg) : v.belowLimit m a = false := by
  have outside : ¬ (0x06010000 ≤ a ∧ a ≤ 0x0601FFFF) := by
    rintro ⟨lo, hi⟩
    have hn : decide (0x10000000 ≤ a) = false := by simp; omega
    unfold region at h
    simp only [hn, Bool.false_and, Bool.false_eq_true, if_false] at h
    split_ifs at h
  unfold Vp.belowLimit
  by_contra hc
  simp only [Bool.not_eq_false, Bool.and_eq_true, decide_eq_true_eq] at hc
  exact outside ⟨hc.1.1.2, hc.1.2⟩

theorem coreWrite_belowLimit (acts : v.masterActs m = true) (bus : busError m a true = false)
    (h : v.belowLimit m a = true) : v.coreWrite m a w = v.limitFault m := by
  unfold Vp.coreWrite
  rw [if_neg (by simp [acts]), if_neg (by simp [bus]), if_pos h]

/-- A write to a register that does not wait for the boundary is tried at once. -/
theorem coreWrite_now (acts : v.masterActs m = true) (bus : busError m a true = false) (reg : region m a = .reg)
    (h : v.launched = false ∨ staged a = false) : v.coreWrite m a w = (v.tryWrite m a w true).v := by
  unfold Vp.coreWrite
  rw [if_neg (by simp [acts]), if_neg (by simp [bus]), if_neg (by simp [belowLimit_reg reg]),
    if_neg (by obtain h | h := h <;> simp [h])]

theorem coreWrite_staged (acts : v.masterActs m = true) (bus : busError m a true = false) (reg : region m a = .reg)
    (hl : v.launched = true) (hs : staged a = true) :
    v.coreWrite m a w = if v.sealOpen then { v with coreWrites := v.coreWrites ++ [(a, w)] } else v := by
  unfold Vp.coreWrite
  rw [if_neg (by simp [acts]), if_neg (by simp [bus]), if_neg (by simp [belowLimit_reg reg]), if_pos (by simp [hl, reg, hs])]

/-- An access in a domain that is not ready changes nothing and is counted (R468). -/
theorem tryWrite_notReady (bus : busError m a true = false) (off : v.domOn (accessDom m a) = false) (sealed : Bool) :
    (v.tryWrite m a w sealed).v = v.pwrAccess := by
  unfold Vp.tryWrite
  rw [if_neg (by simp [bus]), if_pos (by simp [off])]

end

/-- Settles O8: the effect by access code, then the branches of a core's write. -/
theorem registerWrites : Obligations.RegisterWrites := by
  unfold Obligations.RegisterWrites
  refine ⟨fun v m a w r => ⟨effect_readOnly v m a w, effect_w1c v m a w, fun h hw => ?_, fun h hb hf hs hw hl => ?_⟩,
    fun s m a w run acts => ?_⟩
  · dsimp only
    rw [effect_wideBelow v m a w h hw]
    exact ⟨rfl, rfl, lookup_sput_same _ _ _, fun b hb => lookup_sput_other _ _ hb⟩
  · dsimp only
    rw [effect_grid v m a w h hb hf hs hw hl]
    exact ⟨fun i hi => bit_store v a w r.mask hi, fun b hb => Vp.reg_setReg_other v _ hb⟩
  · intro v f
    have writes {u : Vp} (h : v.coreWrite m a w = u) :
        exec (.registerWrite (.vp m) a w false) s = .next (s.after u) :=
      vp_runs run (f := fun x => (x.coreWrite m a w).guarded false) h
    refine ⟨fun h => writes (Vp.coreWrite_accepts h), fun bus hm => writes ?_, fun bus hm => writes ?_,
      fun bus hm lo hi lim => writes ?_, fun bus reg off now => writes ?_, fun bus reg hl hs => writes ?_⟩
    · rw [coreWrite_busError w acts bus]
      exact if_neg (by omega)
    · rw [coreWrite_busError w acts bus]
      exact if_pos hm
    · exact coreWrite_belowLimit w acts bus (by simp [Vp.belowLimit, hm, lo, hi, lim])
    · rw [coreWrite_now w acts bus reg now, tryWrite_notReady w bus off]
    · exact coreWrite_staged w acts bus reg hl hs

/-! ### Clearing writes and acknowledgement (R7, R403, R404) -/

/-- No word of a wide value is a register that clears a sticky one. -/
theorem stickyClr_of_wide : ∀ g ∈ wideValues, g.1 % 4 = 0 ∧ 0 < g.2 ∧ ∀ i < g.2, stickyClr (g.1 + 4 * i) = false := by
  decide

theorem wideBelow_of_stickyClr {a : Nat} (h : stickyClr a = true) (ha : a % 4 = 0) : wideBelow a = false := by
  unfold wideBelow
  simp only [List.any_eq_false, Bool.and_eq_true, decide_eq_true_eq]
  rintro g hg ⟨lo, hi⟩
  obtain ⟨h4, -, hall⟩ := stickyClr_of_wide g hg
  have := hall ((a - g.1) / 4) (by omega)
  rw [show g.1 + 4 * ((a - g.1) / 4) = a by omega, h] at this
  cases this

theorem wideLower_of_stickyClr {a : Nat} (h : stickyClr a = true) : wideLower a = [] := by
  unfold wideLower
  split
  next g hg =>
    have top : a + 4 = g.1 + 4 * g.2 := by simpa using List.find?_some hg
    obtain ⟨-, pos, hall⟩ := stickyClr_of_wide g (List.mem_of_find?_eq_some hg)
    have := hall (g.2 - 1) (by omega)
    rw [show g.1 + 4 * (g.2 - 1) = a by omega, h] at this
    cases this
  next => rfl

section
variable (v : Vp) (m : Nat) (w : Word)

theorem wideTake_none {a : Nat} (h : wideLower a = []) : v.wideTake a = v := by
  unfold Vp.wideTake
  rw [h]
  rfl

theorem effect_stickyClr {a : Nat} {r : RegRow} (acc : r.acc = .wo) (ho : a % 0x10000 < 0xFF00) (h : stickyClr a = true)
    (ha : a % 4 = 0) : v.effect m a r w = v.clearSticky a w := by
  unfold Vp.effect
  simp only [acc]
  rw [if_neg (by simp [wideBelow_of_stickyClr h ha]), wideTake_none v (wideLower_of_stickyClr h), if_neg (by omega), if_pos h]

theorem clearSticky_eq (a : Nat) {w : Word} (h : bit w 31 = false) :
    v.clearSticky a w = v.setReg (a - 4) (v.reg (a - 4) &&& ~~~ w) := by
  unfold Vp.clearSticky
  exact if_pos (by simp [h])

/-- Block 14 is no register block (R34). -/
theorem written_FLT_ACK {blk : Nat} (h : blk < 16) (h14 : blk ≠ 14) : v.written m (Reg.FLT_ACK blk) w = v.fltAck blk w := by
  have hall : ∀ blk < 16, blk ≠ 14 → hasAcc (Reg.FLT_ACK blk) .wo = true ∧ wideBelow (Reg.FLT_ACK blk) = false
      ∧ wideLower (Reg.FLT_ACK blk) = [] ∧ 0xFF00 ≤ Reg.FLT_ACK blk % 0x10000 ∧ Reg.FLT_ACK blk / 0x10000 % 16 = blk := by
    decide
  obtain ⟨acc, below, lower, ofs, block⟩ := hall blk h h14
  obtain ⟨r, hr, hacc⟩ := hasAcc_row acc
  rw [Vp.written_row hr]
  unfold Vp.effect
  simp only [hacc]
  rw [if_neg (by simp [below]), wideTake_none v lower, if_pos ofs, block]

end

theorem accepts_aligned {v : Vp} {m a : Nat} {w : Word} (h : v.accepts m a w = true) : a % 4 = 0 := by
  unfold Vp.accepts at h
  simp only [Bool.and_eq_true, decide_eq_true_eq] at h
  exact h.1.1.1.1.2

theorem accepts_masterActs {v : Vp} {m a : Nat} {w : Word} (h : v.accepts m a w = true) : v.masterActs m = true := by
  unfold Vp.accepts at h
  simp only [Bool.and_eq_true] at h
  exact h.1.1.1.1.1.1

theorem accepts_row {v : Vp} {m a : Nat} {w : Word} (h : v.accepts m a w = true) : (regRow a).isSome = true := by
  unfold Vp.accepts at h
  cases hr : regRow a with
  | none => simp [hr] at h
  | some r => rfl

/-- Settles O9: the clearing writes are accepted writes of their registers. -/
theorem clearingWrites : Obligations.ClearingWrites := by
  unfold Obligations.ClearingWrites
  refine ⟨fun s m a w run acc => ?_, fun s blk inst run hb auto pend => ?_⟩
  · have writes {u : Vp} (h : s.vp.written m a w = u) : s.vp.coreWrite m a w = u := (Vp.coreWrite_accepts acc).trans h
    refine ⟨fun row => ?_, fun row ho hs hw => ?_, fun blk hb ha => ?_⟩
    · obtain ⟨r, hr, hacc⟩ := Option.map_eq_some_iff.mp row
      refine vp_runs run (f := fun v => v.coreWrite m a w) (writes ?_)
      rw [Vp.written_row hr, effect_w1c _ _ _ _ hacc]
      simp [regMask, hr]
    · obtain ⟨r, hr, hacc⟩ := Option.map_eq_some_iff.mp row
      refine vp_runs run (f := fun v => v.coreWrite m a w) (writes ?_)
      rw [Vp.written_row hr, effect_stickyClr _ _ _ hacc ho hs (accepts_aligned acc), clearSticky_eq _ _ hw]
    · subst ha
      have row : blk ≠ 14 := by
        rintro rfl
        exact absurd (accepts_row acc) (by decide)
      exact vp_runs run (f := fun v => v.coreWrite m (Reg.FLT_ACK blk) w) (writes (written_FLT_ACK _ _ _ hb row))
  · exact vp_runs run (f := fun v => v.autoAck blk inst) (if_pos ⟨hb, auto, pend⟩)

/-! ### Wide reads and queues (R8, R199, R358, R468) -/

section
variable {v : Vp} {m a : Nat}

theorem coreRead_ready (acts : v.masterActs m = true) (bus : busError m a false = false)
    (on : v.domOn (accessDom m a) = true) (reg : region m a = .reg) : v.coreRead m a = v.readReg m a := by
  unfold Vp.coreRead
  rw [if_neg (by simp [acts]), if_neg (by simp [bus]), if_neg (by simp [on]), if_pos reg]

theorem coreRead_notReady (acts : v.masterActs m = true) (bus : busError m a false = false)
    (off : v.domOn (accessDom m a) = false) : v.coreRead m a = { v.pwrAccess with lastRead := 0 } := by
  unfold Vp.coreRead
  rw [if_neg (by simp [acts]), if_neg (by simp [bus]), if_pos (by simp [off])]

end

/-- A block's registers stand at their addresses for every master. -/
theorem region_block (m : Nat) {a : Nat} (lo : 0x10000000 ≤ a) (hi : a < 0x100E0000) : region m a = .reg := by
  unfold region
  have h (n : Nat) (hn : n < 0x10000000) : decide (a ≤ n) = false := by simp; omega
  have hb : (a / 0x10000 % 16 != 14) = true := by simp; omega
  have hi' : decide (a ≤ 0x100FFFFF) = true := by simp; omega
  simp [h, hb, hi', lo]

theorem view_TIME_NOW (v : Vp) (m : Nat) {i : Nat} (h : i < 4) : v.view m (Reg.TIME_NOW i) = (ts128 v.tai).getD i 0 := by
  have hall : ∀ i < 4, hasAcc (Reg.TIME_NOW i) .ro = true := by decide
  obtain ⟨r, hr, hacc⟩ := hasAcc_row (hall i h)
  unfold Vp.view
  rw [hr]
  obtain rfl | rfl | rfl | rfl : i = 0 ∨ i = 1 ∨ i = 2 ∨ i = 3 := by omega
  all_goals
    simp only [hacc]
    rfl

/-- A read of the lowest word latches the words above it (R8). -/
theorem readReg_TIME_NOW (v : Vp) (m : Nat) : v.readReg m (Reg.TIME_NOW 0) = { v with
    latch := sput (Reg.TIME_NOW 3) (v.view m (Reg.TIME_NOW 3)) (sput (Reg.TIME_NOW 2) (v.view m (Reg.TIME_NOW 2))
      (sput (Reg.TIME_NOW 1) (v.view m (Reg.TIME_NOW 1)) v.latch))
    lastRead := v.view m (Reg.TIME_NOW 0) } := by
  unfold Vp.readReg
  rw [if_neg (by decide), if_neg (by decide), if_neg (by decide)]
  rfl

/-- Registers set one after the other at addresses 4 apart read what they were set to. -/
def setWords (v : Vp) (a : Nat) (e : List Word) (l : List Nat) : Vp :=
  l.foldl (fun v i => v.setReg (a + i * 4) (e.getD i 0)) v

theorem setWords_other (e : List Word) (a : Nat) {b : Nat} (l : List Nat) (h : ∀ i ∈ l, b ≠ a + i * 4) (v : Vp) :
    (setWords v a e l).reg b = v.reg b := by
  induction l generalizing v with
  | nil => rfl
  | cons i l ih =>
    have hi : b ≠ a + i * 4 := h i (List.mem_cons_self ..)
    exact (ih (fun j hj => h j (List.mem_cons_of_mem _ hj)) _).trans (Vp.reg_setReg_other v _ hi)

theorem setWords_reg (e : List Word) (a : Nat) {i : Nat} (l : List Nat) (h : i ∈ l) (v : Vp) :
    (setWords v a e l).reg (a + i * 4) = e.getD i 0 := by
  induction l generalizing v with
  | nil => cases h
  | cons j l ih =>
    by_cases hi : i ∈ l
    · exact ih hi _
    · obtain rfl : i = j := by simpa [hi] using h
      have apart : ∀ j ∈ l, a + i * 4 ≠ a + j * 4 := fun j hj e => hi (by rwa [show i = j by omega])
      exact (setWords_other e a l apart _).trans (Vp.reg_setReg_same v _ _)

theorem setWords_keeps {α : Type} {f : Vp → α} (hf : ∀ v a w, f (Vp.setReg v a w) = f v) (e : List Word) (a : Nat)
    (l : List Nat) (v : Vp) : f (setWords v a e l) = f v :=
  foldl_keeps (fun v i => hf v (a + i * 4) (e.getD i 0)) l v

theorem tsqPop_cons {v : Vp} {e : List Word} {r : List (List Word)} (h : v.time.tsq = e :: r) : v.tsqPop =
    (setWords { v with time := { v.time with tsq := r }, lastRead := e.getD 0 0 } 0x10020058 e [0, 1, 2, 3]).setFld
      Reg.TIME_TSQ_STAT 0 7 r.length := by
  unfold Vp.tsqPop
  rw [h]
  rfl

theorem tsqPop_nil {v : Vp} (h : v.time.tsq = []) :
    v.tsqPop = { v with lastRead := w32 (Config.openNat 2 v.free), free := v.free + 1 } := by
  unfold Vp.tsqPop
  rw [h]

theorem pqPop_cons {v : Vp} {e : List Word} {r : List (List Word)} (h : v.grid.pq = e :: r) : v.pqPop =
    (setWords { v with grid := { v.grid with pq := r }, lastRead := e.getD 0 0 } 0x100A0040 e (List.range 16)).setFld
      Reg.GRID_PQ_STAT 0 6 r.length := by
  unfold Vp.pqPop
  rw [h]
  rfl

theorem pqPop_nil {v : Vp} (h : v.grid.pq = []) :
    v.pqPop = { v with lastRead := w32 (Config.openNat 7 v.free), free := v.free + 1 } := by
  unfold Vp.pqPop
  rw [h]

/-- Settles O10: the reads of the two queues and of TAI time, and what they find where a domain is not ready. -/
theorem wideReads : Obligations.WideReads := by
  unfold Obligations.WideReads
  refine ⟨fun s m run acts bus on => ?_, fun s m run acts bus on => ⟨fun e r hq => ?_, fun hq => ?_⟩,
    fun s m run acts bus on => ⟨fun e r hq => ?_, fun hq => ?_⟩,
    fun s m run acts => ⟨fun bus off => ?_, fun bus off => ?_⟩⟩
  · have reg : region m (Reg.TIME_NOW 0) = .reg := region_block m (by decide) (by decide)
    refine ⟨_, vp_runs run (f := fun v => v.coreRead m (Reg.TIME_NOW 0))
      ((coreRead_ready acts bus on reg).trans (readReg_TIME_NOW _ _)), view_TIME_NOW s.vp m (i := 0) (by decide), ?_, ?_, ?_, rfl⟩
    · dsimp only
      rw [lookup_sput_other _ _ (by decide), lookup_sput_other _ _ (by decide), lookup_sput_same,
        view_TIME_NOW _ _ (by decide)]
    · dsimp only
      rw [lookup_sput_other _ _ (by decide), lookup_sput_same, view_TIME_NOW _ _ (by decide)]
    · dsimp only
      rw [lookup_sput_same, view_TIME_NOW _ _ (by decide)]
  · have read : s.vp.coreRead m (Reg.TIME_TSQ 0) = _ :=
      (coreRead_ready acts bus on (region_block m (by decide) (by decide))).trans (tsqPop_cons hq)
    refine ⟨_, vp_runs run (f := fun v => v.coreRead m (Reg.TIME_TSQ 0)) read,
      setWords_keeps (f := fun v => v.time.tsq) (fun _ _ _ => rfl) _ _ _ _,
      setWords_keeps (f := fun v => v.lastRead) (fun _ _ _ => rfl) _ _ _ _, Vp.fld_setFld_same _ _ (by decide) _,
      fun i hi => ?_⟩
    rw [Vp.reg_setFld_other _ _ _ _ (by unfold Reg.TIME_TSQ Reg.TIME_TSQ_STAT; omega)]
    exact setWords_reg e _ [0, 1, 2, 3] (by simp; omega) _
  · exact vp_runs run (f := fun v => v.coreRead m (Reg.TIME_TSQ 0))
      ((coreRead_ready acts bus on (region_block m (by decide) (by decide))).trans (tsqPop_nil hq))
  · have read : s.vp.coreRead m (Reg.GRID_PQ 0) = _ :=
      (coreRead_ready acts bus on (region_block m (by decide) (by decide))).trans (pqPop_cons hq)
    refine ⟨_, vp_runs run (f := fun v => v.coreRead m (Reg.GRID_PQ 0)) read,
      setWords_keeps (f := fun v => v.grid.pq) (fun _ _ _ => rfl) _ _ _ _,
      setWords_keeps (f := fun v => v.lastRead) (fun _ _ _ => rfl) _ _ _ _, Vp.fld_setFld_same _ _ (by decide) _,
      fun i hi => ?_⟩
    rw [Vp.reg_setFld_other _ _ _ _ (by unfold Reg.GRID_PQ Reg.GRID_PQ_STAT; omega)]
    exact setWords_reg e _ (List.range 16) (List.mem_range.mpr hi) _
  · exact vp_runs run (f := fun v => v.coreRead m (Reg.GRID_PQ 0))
      ((coreRead_ready acts bus on (region_block m (by decide) (by decide))).trans (pqPop_nil hq))
  · exact vp_runs run (f := fun v => v.coreRead m (Reg.TIME_TSQ 0)) (coreRead_notReady acts bus off)
  · exact vp_runs run (f := fun v => v.coreRead m (Reg.GRID_PQ 0)) (coreRead_notReady acts bus off)

end Sys2Proof.Proofs

end

section
/-!
PROOFS. Trips (O24), and the markers, stamps and setting of time (O30).
-/

namespace Sys2Proof.Proofs

open Sys2Proof Sys2Proof.Machine

/-! ### What blocking an engine leaves (R41) -/

theorem intCause_reports (v : Vp) (blk en stat i : Nat) : SameButReports v (v.intCause blk en stat i) := by
  unfold Vp.intCause
  split
  · rfl
  · dsimp only
    split
    · exact ((SameButReports.setBit v stat i true).trans (.post _ _)).trans (.hostEntry _ _ _ _)
    · rfl

theorem tuneFree_arms (v : Vp) (e st : Nat) : (v.tuneFree e st).arms = v.arms := by
  unfold Vp.tuneFree
  split
  · rfl
  · dsimp only
    split <;> rfl

theorem tuneFree_host (v : Vp) (e st : Nat) : (v.tuneFree e st).host = v.host := by
  unfold Vp.tuneFree
  split
  · rfl
  · dsimp only
    split <;> rfl

theorem tuneEnd_arms (v : Vp) (e st : Nat) : (v.tuneEnd e st).arms = v.arms :=
  (SameButReports.raiseAll _ _ _ _).arms.trans (tuneFree_arms v e st)

theorem tuneEnd_host (v : Vp) (e st : Nat) : (v.tuneEnd e st).host = v.host :=
  (SameButReports.raiseAll _ _ _ _).host.trans (tuneFree_host v e st)

theorem tuneTieCheck_arms (v : Vp) (k : Nat) : (v.tuneTieCheck k).arms = v.arms := by
  refine foldl_keeps (p := fun v : Vp => v.arms) (fun v e => ?_) _ v
  split
  · rfl
  · dsimp only
    split
    · exact tuneEnd_arms v e 6
    · rfl

theorem syncArm_reports (v : Vp) (k : Nat) : SameButReports v (v.syncArm k) := by
  unfold Vp.syncArm
  extract_lets st
  by_cases h : v.fld (Reg.ARM_STATE k) 0 2 = st
  · rw [if_pos h]
    exact .refl v
  · rw [if_neg h]
    exact .trans (u := v.setFld (Reg.ARM_STATE k) 0 2 st) rfl (.hostEntry _ _ _ _)

theorem arm_of_arms {u v : Vp} (h : u.arms = v.arms) (k : Nat) : u.arm k = v.arm k := by
  unfold Vp.arm
  rw [h]

theorem blockArm_arm_same (v : Vp) (k : Nat) : ((v.blockArm k).arm k).running = false := by
  unfold Vp.blockArm
  split
  · rw [arm_of_arms ((tuneTieCheck_arms _ k).trans (syncArm_reports _ k).arms), Vp.arm_setArm_same]
  next h => exact Bool.not_eq_true _ ▸ h

theorem blockArm_arm_other (v : Vp) {k j : Nat} (h : j ≠ k) : (v.blockArm k).arm j = v.arm j := by
  unfold Vp.blockArm
  split
  · rw [arm_of_arms ((tuneTieCheck_arms _ k).trans (syncArm_reports _ k).arms), Vp.arm_setArm_other _ _ h]
  · rfl

/-- Once blocked, an engine stays blocked as others are. -/
theorem foldl_blockArm {k : Nat} (l : List Nat) (v : Vp) (h : k ∈ l ∨ (v.arm k).running = false) :
    ((l.foldl Vp.blockArm v).arm k).running = false := by
  induction l generalizing v with
  | nil => exact h.resolve_left (by simp)
  | cons j l ih =>
    apply ih
    by_cases e : k = j
    · subst e
      exact .inr (blockArm_arm_same v k)
    · rw [blockArm_arm_other v e]
      exact h.imp_left fun hk => (List.mem_cons.mp hk).resolve_left e

theorem blockAll_arm (v : Vp) {k : Nat} (h : k < 12) : (v.blockAll.arm k).running = false :=
  foldl_blockArm armIds v (.inl (List.mem_range.mpr h))

/-! ### Staged bundles that a trip cancels (R380) -/

theorem unstage_arms (v : Vp) (b : Bundle) (t : Bool) : (v.unstage b t).arms = v.arms := by
  unfold Vp.unstage
  dsimp only
  split
  · exact (SameButReports.portEntry _ _ _).arms.trans (intCause_reports _ _ _ _ _).arms
  · exact (intCause_reports _ _ _ _ _).arms

theorem unstage_staged (v : Vp) (b : Bundle) (t : Bool) : (v.unstage b t).host.staged = v.host.staged.filter (· != b) := by
  unfold Vp.unstage
  dsimp only
  split
  · rw [(SameButReports.portEntry _ _ _).host, Vp.hostInt, (intCause_reports _ _ _ _ _).host]
  · rw [Vp.hostInt, (intCause_reports _ _ _ _ _).host]

theorem mem_foldl_unstage {b : Bundle} (t : Bool) (l : List Bundle) (v : Vp)
    (h : b ∈ (l.foldl (fun v b => v.unstage b t) v).host.staged) : b ∈ v.host.staged ∧ b ∉ l := by
  induction l generalizing v with
  | nil => exact ⟨h, by simp⟩
  | cons x l ih =>
    obtain ⟨hv, hl⟩ := ih _ h
    rw [unstage_staged, List.mem_filter, bne_iff_ne] at hv
    exact ⟨hv.1, by simp [hv.2, hl]⟩

theorem cancelDeblocks_staged {v : Vp} {b : Bundle} (h : b ∈ v.cancelDeblocks.host.staged) : b.deblocks = false := by
  obtain ⟨hv, hl⟩ := mem_foldl_unstage true _ _ h
  by_contra hc
  exact hl (List.mem_filter.mpr ⟨hv, by simpa using hc⟩)

theorem cancelDeblocks_arms (v : Vp) : v.cancelDeblocks.arms = v.arms :=
  foldl_keeps (p := fun v : Vp => v.arms) (fun v b => unstage_arms v b true) _ v

/-! ### Trips -/

theorem urgCmd_send {v : Vp} {w : Word} (send : bit w 0 = true) (key : fld w 16 16 = 0xA5) :
    v.urgCmd w = ({ v with trip := { v.trip with out := true } }).tripOwn 32 := by
  unfold Vp.urgCmd
  rw [if_pos (by simp [send, key])]

/-- Settles O24: what a recognised trip blocks and cancels, its entry to the hosts leaves so. -/
theorem tripEvents : Obligations.TripEvents := by
  unfold Obligations.TripEvents
  refine ⟨⟨fun s i run hi low en => ?_, fun s i run hi => ?_, fun s run src fat => ?_, fun s m w run acc send key => ?_,
    fun s src run single => ?_⟩, fun v extra => ?_⟩
  · refine vp_runs run (f := fun v => v.tripIn i) ?_
    unfold Vp.tripIn
    rw [if_neg (by simp [low]; omega)]
    exact if_pos en
  · refine vp_runs run (f := fun v => v.tripInEnd i) ?_
    exact if_neg (by simp; omega)
  · exact vp_runs run (f := fun v => v.tripOutEnd) (if_neg (by simp [src, fat]))
  · refine vp_runs run (f := fun v => v.coreWrite m Reg.RING_URG_CMD w) ?_
    rw [Vp.coreWrite_accepts acc, Vp.written_RING_URG_CMD, urgCmd_send send key]
  · exact vp_runs run (f := fun v => v.tripIn' src false) (if_pos (by simp [single]))
  · intro u
    have told : SameButReports _ u := .hostEntry (v.tripSync.burst extra).blockAll.cancelDeblocks _ _ _
    refine ⟨fun k hk => ?_, fun b hb => ?_⟩
    · rw [arm_of_arms (told.arms.trans (cancelDeblocks_arms _))]
      exact blockAll_arm _ hk
    · rw [told.host] at hb
      exact cancelDeblocks_staged hb

/-! ### Markers between partners (R203, R204) -/

/-- The lowest lane of the bundle that is active. -/
theorem find_lowest {f : Nat → Bool} {i : Nat} (hi : i < 4) (on : f i = true) (low : ∀ j, j < i → f j = false) :
    [0, 1, 2, 3].find? f = some i := by
  obtain rfl | rfl | rfl | rfl : i = 0 ∨ i = 1 ∨ i = 2 ∨ i = 3 := by omega
  all_goals simp [on, low]

/-- How far from the stamp a marker stands that was sent at millisecond `ms` of second `c`. -/
def markerOff (ms stamp c : Nat) : Nat := ((c : Int) * (16000000000 : Nat) + ms * 16000000 - stamp).natAbs

/-- Among `base`, the second 32 before it and the one 32 after it, the one whose marker stands nearest to the stamp. -/
def markerSecond (ms stamp base : Nat) : Nat :=
  let t0 := if 32 ≤ base ∧ markerOff ms stamp (base - 32) < markerOff ms stamp base then base - 32 else base
  if markerOff ms stamp (base + 32) < markerOff ms stamp t0 then base + 32 else t0

/-- A marker stamped within 15 s of its instant is read as one of its second. -/
theorem markerSecond_eq {ms stamp base t : Nat} (hms : ms < 1000) (low : base % 32 = t % 32)
    (near : base / 32 = stamp / 16000000000 / 32) (lo : t * 16000000000 + ms * 16000000 ≤ stamp + 15 * 16000000000)
    (hi : stamp ≤ t * 16000000000 + ms * 16000000 + 15 * 16000000000) : markerSecond ms stamp base = t := by
  have off (c : Nat) : markerOff ms stamp c =
      ((c : Int) * 16000000000 + ms * 16000000 - stamp).natAbs := rfl
  have cases : base = t + 32 ∨ base = t ∨ base + 32 = t := by omega
  unfold markerSecond
  simp only [off]
  obtain h | h | h := cases
  all_goals split_ifs <;> omega

theorem ptmIn_eq {v : Vp} {c stamp : Nat} (on : v.bit Reg.TIME_PEER_CFG 0 = true) (crc : crc8Ok c = true)
    (one : c.testBit 15 = false) : v.ptmIn c stamp = { v with time := { v.time with
      res := some ((stamp : Int)
        - ((markerSecond (c % 1024) stamp (stamp / 16000000000 / 32 * 32 + c / 2 ^ 10 % 32) : Int) * (16000000000 : Nat)
          + (c % 1024 : Nat) * 16000000) - (c / 2 ^ 16 % 128 : Nat)) } } := by
  unfold Vp.ptmIn
  rw [if_neg (by simp [on, crc])]
  exact if_pos (by simp [one])

/-! ### Stamps of PTP messages (R199) -/

/-- A map whose values are mapped and made optional reads as it is looked up. -/
theorem sget_some_eq_lookup {α β : Type} (f : α → β) (l : List (Nat × α)) (k : Nat) :
    sget (fun _ => none) (l.map fun p => (p.1, some (f p.2))) k = (l.lookup k).map f := by
  induction l with
  | nil => rfl
  | cons p l ih =>
    unfold sget List.lookup
    by_cases h : p.1 = k
    · subst h; simp
    · have : (k == p.1) = false := by simpa using fun e : k = p.1 => h e.symm
      simpa [h, this] using ih

section
variable {v : Vp}

theorem tsqPush_room {e : List Word} (h : v.time.tsq.length < 64) : v.tsqPush e =
    { v with time := { v.time with tsq := v.time.tsq ++ [e] } }.setFld Reg.TIME_TSQ_STAT 0 7 (v.time.tsq ++ [e]).length := by
  unfold Vp.tsqPush
  exact if_neg (by omega)

theorem tsqPush_full {e : List Word} (h : 64 ≤ v.time.tsq.length) : v.tsqPush e =
    (v.setBit Reg.TIME_STICKY 10 true).raise 2 0xFF 5 cor Reg.TIME_TSQ_STAT := by
  unfold Vp.tsqPush
  exact if_pos h

theorem ptpStamp_oneStep (port : Nat) (mtype seq sec ns frac : Nat) (on : v.bit Reg.TIME_PTP_CFG 2 = true)
    (here : v.fld Reg.TIME_PTP_CFG 0 2 = port) (one : v.bit Reg.TIME_PTP_CFG 3 = true) :
    v.ptpStamp port true mtype seq sec ns frac =
      v.oneStepOut (mtype % 16) (seq % 65536) (sec * secUnit + ns * nsUnit + frac) := by
  unfold Vp.ptpStamp
  dsimp only
  rw [if_neg (by simp [on, here]), if_pos (by simp [one])]

/-- A received message, or one sent in two steps, is stamped into the queue; the stamp of a received Pdelay_Req is kept. -/
theorem ptpStamp_queued (port : Nat) {tx : Bool} (mtype seq sec ns frac : Nat) (on : v.bit Reg.TIME_PTP_CFG 2 = true)
    (here : v.fld Reg.TIME_PTP_CFG 0 2 = port) (two : tx = false ∨ v.bit Reg.TIME_PTP_CFG 3 = false) :
    v.ptpStamp port tx mtype seq sec ns frac = { v with time := { v.time with
        pdelay := if !tx && mtype % 16 == 2 then sput (seq % 65536) (sec * secUnit + ns * nsUnit + frac) v.time.pdelay
          else v.time.pdelay } }.tsqPush
      [w32 (port % 4 + b2n tx * 4 + mtype % 16 * 16 + seq % 65536 * 65536), w32 frac, w32 ns, w32 sec] := by
  unfold Vp.ptpStamp
  dsimp only
  rw [if_neg (by simp [on, here]), if_neg (by obtain h | h := two <;> simp [h])]
  split <;> rfl

end

/-! ### The setting of time (R200, R208) -/

theorem wideTake_TIME_PTP_MEAS1 (v : Vp) : (v.wideTake Reg.TIME_PTP_MEAS1).reg Reg.TIME_PTP_MEAS0 =
    (v.wlatch.lookup Reg.TIME_PTP_MEAS0).getD (v.reg Reg.TIME_PTP_MEAS0) := by
  have lower : wideLower Reg.TIME_PTP_MEAS1 = [Reg.TIME_PTP_MEAS0] := by decide
  unfold Vp.wideTake
  rw [lower, List.foldl_cons, List.foldl_nil]
  cases v.wlatch.lookup Reg.TIME_PTP_MEAS0 with
  | none => rfl
  | some w => exact Vp.reg_setReg_same v _ w

theorem timeSetGo_eq {v : Vp} {w : Word} (go : bit w 0 = true) (key : fld w 16 16 = 0xA5) : v.timeSetGo w =
    if 999999999 < (v.reg (Reg.TIME_SET 1)).toNat then
      (v.setBit Reg.TIME_STICKY 7 true).raise 2 0xFF 6 cor (Reg.TIME_SET 1)
    else v.timeStep ((((v.reg (Reg.TIME_SET 2)).toNat + (v.reg (Reg.TIME_SET 3)).toNat * 2 ^ 32) * secUnit
      + (v.reg (Reg.TIME_SET 1)).toNat * nsUnit + (v.reg (Reg.TIME_SET 0)).toNat : Nat) - (v.tai : Int)) := by
  unfold Vp.timeSetGo
  exact if_pos (by simp [go, key])

/-- Settles O30: the second of a marker is the one that `markerSecond_eq` finds. -/
theorem timeMarkers : Obligations.TimeMarkers := by
  unfold Obligations.TimeMarkers
  refine ⟨fun s d run on tx lead => ?_, fun s c stamp t ms run on crc hms ms_lt low one lo hi => ?_,
    fun s m w run acc => ?_, fun s port mtype seq sec ns frac tx run on here => ?_, fun s m w run acc go key => ?_⟩
  · intro t₁ t v
    have sends {u : Vp} (h : s.vp.ptmSend d = u) : exec (.ptmSend d) s = .next (s.after u) :=
      vp_runs run (f := fun v => v.ptmSend d) h
    have may : ¬ (!s.vp.bit Reg.TIME_PEER_CFG 0 || s.vp.txOff
        || (s.vp.paired && !s.vp.bit Reg.TIME_PEER_CFG 1 && !s.vp.ready)) = true := by
      obtain h | h | h := lead <;> simp [on, tx, h]
    refine ⟨fun i hi act low => sends ?_, fun none => sends ?_⟩
    · unfold Vp.ptmSend
      rw [if_neg may, find_lowest hi act low]
      rfl
    · unfold Vp.ptmSend
      rw [if_neg may, none]
      rfl
  · refine vp_runs run (f := fun v => v.ptmIn c stamp) ?_
    rw [ptmIn_eq on crc one, hms, markerSecond_eq (t := t) ms_lt (by omega) (by omega) lo hi]
    simp
  · intro v lo
    have hlo : v.reg Reg.TIME_PTP_MEAS0 = lo := wideTake_TIME_PTP_MEAS1 s.vp
    refine ⟨hlo, vp_runs run (f := fun v => v.coreWrite m Reg.TIME_PTP_MEAS1 w) ?_⟩
    rw [Vp.coreWrite_accepts acc, Vp.written_TIME_PTP_MEAS1, ← hlo]
    rfl
  · intro t q p
    have stamps {u : Vp} (h : s.vp.ptpStamp port tx mtype seq sec ns frac = u) :
        exec (.ptpEventMessage port tx mtype seq sec ns frac) s = .next (s.after u) :=
      vp_runs run (f := fun v => v.ptpStamp port tx mtype seq sec ns frac) h
    refine ⟨fun two room => stamps ?_, fun two full => stamps ?_, fun sent one => ?_⟩
    · rw [ptpStamp_queued port mtype seq sec ns frac on here two]
      exact tsqPush_room room
    · rw [ptpStamp_queued port mtype seq sec ns frac on here two]
      exact tsqPush_full full
    · subst sent
      have out := ptpStamp_oneStep port mtype seq sec ns frac on here one
      refine ⟨fun sync => stamps ?_, fun r resp kept => stamps ?_, fun h0 h3 => stamps ?_⟩
      · rw [out]
        unfold Vp.oneStepOut
        exact if_pos sync
      · rw [out]
        unfold Vp.oneStepOut
        dsimp only
        rw [if_neg (by omega), if_pos resp, sget_some_eq_lookup (fun x : Nat => (x : Int)), kept]
        rfl
      · rw [out]
        unfold Vp.oneStepOut
        dsimp only
        rw [if_neg h0, if_neg h3]
  · intro q
    have sets {u : Vp} (h : s.vp.timeSetGo w = u) : exec (.timeSetGo m w) s = .next (s.after u) := by
      refine vp_runs run (f := fun v => v.coreWrite m Reg.TIME_SET_CMD w) ?_
      rw [Vp.coreWrite_accepts acc, Vp.written_TIME_SET_CMD, h]
    refine ⟨fun le => sets ?_, fun lt => sets ?_⟩
    · rw [timeSetGo_eq go key, if_neg (by simpa [q] using le)]
    · rw [timeSetGo_eq go key, if_pos (by simpa [q] using lt)]

end Sys2Proof.Proofs

end

section
/-!
PROOFS. Frame boundaries and the first frame (O13), the loop engines (O14), and the arm engines (O16).
-/

namespace Sys2Proof.Proofs

open Sys2Proof Sys2Proof.Machine

/-! ### The frame (R15, R17, R18) -/

theorem seqRegs_frameNo (v : Vp) : v.seqRegs.frameNo = v.frameNo := by
  unfold Vp.seqRegs
  simp only [Vp.setBit, Vp.setFld, apply_ite Vp.frameNo, Vp.setReg_frameNo, ite_self]

theorem wholePart_zero (p : Nat) : wholePart 0 p = 0 := by
  unfold wholePart
  rw [Int.zero_add]
  obtain rfl | h := Nat.eq_zero_or_pos p
  · simp
  · exact Int.ediv_eq_zero_of_lt (by positivity) (by exact_mod_cast Nat.div_lt_self h (by decide))

theorem advanceTo_frameNo (v : Vp) (t : Nat) : (v.advanceTo t).frameNo = v.frameNo := by
  obtain ⟨_, _, _, _, _, h⟩ := Vp.advanceTo_shape v t
  rw [h]

/-- Without an error of the sequencer frames are counted one by one. -/
theorem nextFrame_frameNo {v : Vp} (err : v.time.seqErr = 0) (slew : v.time.slew = 0) :
    v.nextFrame.frameNo = v.frameNo + 1 := by
  unfold Vp.nextFrame
  extract_lets t len u e w adv e' sub sl
  have none : adv = 0 := by
    have : e = 0 := by simp [e, u, err, slew]
    have : w = 0 := by simp only [w, this, wholePart_zero]
    simp [adv, this]
  rw [seqRegs_frameNo]
  simp [none, u, advanceTo_frameNo]

/-- The first frame begins at the first whole second that is not before the epoch and at which time has been ready for a
millisecond. -/
theorem firstSecond_spec (v : Vp) : v.time.readyAt + 1000000 * nsUnit ≤ v.firstSecond * secUnit ∧ v.epochE ≤ v.firstSecond
    ∧ (v.epochE < v.firstSecond → (v.firstSecond - 1) * secUnit < max (v.time.readyAt + 1000000 * nsUnit) v.tai) := by
  unfold Vp.firstSecond secUnit nsUnit
  extract_lets t
  have ht : v.time.readyAt + 1000000 * 0x100000000 ≤ t := le_max_left _ _
  refine ⟨?_, le_max_right _ _, fun h => ?_⟩
  · have : t ≤ (t + 1000000000 * 0x100000000 - 1) / (1000000000 * 0x100000000) * (1000000000 * 0x100000000) := by omega
    omega
  · change _ < t
    omega

/-- Settles O13: the boundary is the sequence of its operations. -/
theorem frameBoundary : Obligations.FrameBoundary := by
  unfold Obligations.FrameBoundary
  refine ⟨⟨fun s frames errs run => ?_, fun v n => ⟨rfl, rfl⟩, fun v => nextFrame_frameNo⟩,
    fun s run launched fatal ready phase join pair => ?_, firstSecond_spec⟩
  · intro v launched fatal a b c d
    refine vp_runs run (f := fun v => (v.memErrors errs).frameBoundary frames) ?_
    exact if_neg (by simp [v] at launched fatal ⊢; exact ⟨launched, fatal⟩)
  · refine vp_runs run (f := fun v => v.firstFrame) (if_neg ?_)
    simp only [launched, fatal, ready, phase, join, Bool.not_true, bne_self_eq_false, Bool.false_or, Bool.and_eq_true,
      Bool.not_eq_true']
    rintro ⟨⟨hp, h2⟩, h4⟩
    obtain h | h := pair hp
    · rw [h] at h2; cases h2
    · rw [h] at h4; cases h4

/-! ### The loop engines -/

/-- A valve processor that runs, every domain ready and the seal open. The memory of slot 0 has met an uncorrectable error,
and only its integrator still awaits a rewrite (R258). -/
def slotHeld : Vp :=
  { (({ boot := { run := .on }, clk := { locked := true } } : Vp).setReg Reg.SYS_PWR_STAT 0xFFFF).setReg Reg.HOST_SEAL 1 with
    loop := { ecc := [(0, [Reg.LOOP_SLOT_INT 0])] } }

/-- The slots that await rewrites after a command. -/
def eccAfter : Host.Outcome State Fault Refusal → List (Nat × List Nat)
  | .next s => s.vp.loop.ecc
  | _ => []

/-- Refutes O14: a write of LOOP_SLOT_INT does more than store the word. In a slot held by a memory error it is one of the
rewrites that R258 asks for, and with the last of them the slot is no longer held; the statement keeps it held. -/
theorem not_loopEvents : ¬ Obligations.LoopEvents := by
  unfold Obligations.LoopEvents
  rintro ⟨-, writes⟩
  obtain ⟨-, -, -, int⟩ := writes { pending := [], vp := slotHeld, cells := [] } 16 0 5 (by decide) (by decide)
  have same := congrArg eccAfter (int 0 (by decide) (by decide))
  exact absurd same (by decide +kernel)

/-! ### The arm engines -/

theorem arm_of_frameAt (v : Vp) (d k : Nat) : (v.frameAt d).arm k = v.arm k := by
  unfold Vp.arm
  rw [Vp.frameAt_arms]

theorem fatal_of_frameAt (v : Vp) (d : Nat) : (v.frameAt d).fatal = v.fatal := by
  unfold Vp.fatal Vp.bit Vp.reg
  rw [Vp.frameAt_regs]

theorem decisionInstant_eq {v : Vp} (launched : v.launched = true) (decided : v.decided = false) (fatal : v.fatal = false) :
    v.decisionInstant =
      (let ev := if v.pairMode then v else ringIds.foldl Vp.ringEval v
       let ck := ringIds.foldl (fun v m =>
         if (v.ring m).recheck && v.ringSt m == 3 then (v.check28 m).1.raiseAll 6 m (v.check28 m).2 else v) ev
       let u := { ck with decided := true, armDone := 0 }
       let u := if (armIds.filter u.armOn).isEmpty then u.post (.event 5) else u
       let u := armIds.foldl (fun v k => if v.armOn k then v.latchArm k else v) u
       if u.pairMode then u else (ringIds.foldl Vp.closeCheck (u.decideAll u.heldInTime)).armedCheck) := by
  unfold Vp.decisionInstant
  exact if_neg (by simp [launched, decided, fatal])

theorem nameBoundary_spec (n : Nat) : (nameBoundary n = n ∨ nameBoundary n = n + 1) ∧ nameBoundary n % 2 ^ 32 ≠ 0 := by
  unfold nameBoundary
  split
  · exact ⟨.inr rfl, by omega⟩
  · exact ⟨.inl rfl, by assumption⟩

theorem mgSend_ovrAt (v : Vp) (m : Nat) (p : MgPkt) : (v.mgSend m p).ovrAt = v.ovrAt := by
  unfold Vp.mgSend
  dsimp only
  split
  · rfl
  · split <;> rfl

theorem ovrSend_ovrAt (v : Vp) (e cell action : Nat) :
    sget (fun _ => 0) (v.ovrSend e cell action).ovrAt e = nameBoundary (v.frameNo + 3) := by
  unfold Vp.ovrSend
  dsimp only
  rw [mgSend_ovrAt]
  exact sget_sset_same _ _ _ _

theorem recordWritten_eq {v : Vp} {k : Nat} (t : Nat) (busy : (v.arm k).busy = true) (good : (v.arm k).badHist = false) :
    v.recordWritten k t =
      (let a := v.arm k
       let v := v.setArm k { a with busy := false, written := true }
       let v := ((v.setReg (Reg.ARM_DEC0 k) (w32 a.w0)).setReg (Reg.ARM_DEC1 k) (w32 a.w1)).setReg (Reg.ARM_DEC2 k) (w32 a.w2)
       let v := if (v.reg Reg.ARM_DEC_TIME).toNat < min t 0xFFFF then v.setReg Reg.ARM_DEC_TIME (w32 (min t 0xFFFF)) else v
       ((v.recEntries k).decisionFault k []).armDoneCheck k) := by
  unfold Vp.recordWritten
  rw [if_pos ⟨busy, by simpa using good⟩]
  simp only [Vp.arm_setArm_same]

/-- Settles O16: each event is its operation; a boundary named is never one whose low word is 0 (R501). -/
theorem armEvents : Obligations.ArmEvents := by
  unfold Obligations.ArmEvents
  refine ⟨fun s errs run => ?_, fun s k t run hk busy good => ?_, fun s run busy => ?_, fun s e run named unsure => ?_,
    fun s run named unsure => ?_, fun s m e w run he acc => ?_, fun v e cell action => ?_, fun s m w run acc => ?_⟩
  · intro v0 launched decided fatal v ev ck u u' u'' x
    refine vp_runs run (f := fun v => (v.memErrors errs).atDn) ?_
    have at_ : v0.atDn = v.decisionInstant.rtvLatch := by
      unfold Vp.atDn
      rw [if_neg (by simp [decided])]
    refine at_.trans ?_
    rw [decisionInstant_eq (v := v) ((Vp.frameAt_launched _ _).trans launched) ((Vp.frameAt_decided _ _).trans decided)
      ((fatal_of_frameAt _ _).trans fatal)]
    exact apply_ite Vp.rtvLatch _ _ _
  · refine vp_runs run (f := fun v => v.armWritten k t) ?_
    have written : s.vp.armWritten k t = ((s.vp.frameAt (s.vp.dOfs + t)).recordWritten k t).digSend := if_pos busy
    rw [written, recordWritten_eq t (by rwa [arm_of_frameAt]) (by rwa [arm_of_frameAt]), arm_of_frameAt]
    rfl
  · exact vp_runs run (f := fun v => v.reserveEnd) rfl
  · exact vp_runs run (f := fun v => v.ovrTimeout e) (if_pos ⟨named, by simpa using unsure⟩)
  · refine vp_runs run (f := fun v => v.timeTimeout) ?_
    exact (if_neg unsure).trans (if_neg named)
  · intro old v
    have writes {u : Vp} (h : s.vp.ovrWrite e w = u) : exec (.armOvrWrite m e w) s = .next (s.after u) := by
      refine vp_runs run (f := fun v => v.coreWrite m (Reg.ARM_OVR e) w) ?_
      rw [Vp.coreWrite_accepts acc, Vp.written_ARM_OVR _ _ _ he, h]
    refine ⟨fun off was => writes ?_, fun off was => writes ?_, fun on same => writes ?_, fun on was other => writes ?_⟩
    · unfold Vp.ovrWrite
      dsimp only
      rw [if_neg (not_not.mpr off), if_neg (not_not.mpr was), if_neg (fun h => h.2.1 off)]
    · unfold Vp.ovrWrite
      dsimp only
      rw [if_neg (not_not.mpr off), if_pos was, if_neg (fun h => h.2.1 off)]
    · unfold Vp.ovrWrite
      dsimp only
      rw [if_pos on, if_neg (fun h => same.elim h.1 h.2.2)]
    · unfold Vp.ovrWrite
      dsimp only
      rw [if_pos on, if_pos ⟨was, on, other⟩]
  · intro b u
    obtain ⟨near, low⟩ := nameBoundary_spec (v.frameNo + 3)
    exact ⟨ovrSend_ovrAt v e cell action, near, low⟩
  · refine vp_runs run (f := fun v => v.coreWrite m Reg.ARM_DEC_TIME_CLR w) ?_
    rw [Vp.coreWrite_accepts acc, Vp.written_ARM_DEC_TIME_CLR]

end Sys2Proof.Proofs

end

section
/-!
PROOFS. The rows of the descriptors of work items, and the commands of the work scheduler (O20).
-/

namespace Sys2Proof.Proofs

open Sys2Proof Sys2Proof.Machine

/-! ### Rows of the descriptors (R265) -/

/-- Rows that end at or before an offset do not describe it. -/
theorem find_skip {o : Nat} (l₁ l₂ : List RegRow) (h : ∀ x ∈ l₁, 0 < x.stride ∧ x.off + x.cnt * x.stride ≤ o) :
    (l₁ ++ l₂).find? (·.hits o) = l₂.find? (·.hits o) := by
  rw [List.find?_append, List.find?_eq_none.mpr, Option.none_or]
  intro x hx
  obtain ⟨pos, le⟩ := h x hx
  have : x.cnt ≤ (o - x.off) / x.stride := (Nat.le_div_iff_mul_le pos).mpr (by omega)
  simp only [RegRow.hits, Bool.and_eq_true, decide_eq_true_eq, not_and, Nat.not_lt]
  exact fun _ => this

section
variable {w : Nat}

theorem regRow_SCHED_WI_CFG (h : w < 4096) :
    regRow (Reg.SCHED_WI_CFG w) = some ⟨0x2000, 0x4, 4096, .rws, 0x0, 0xFFFFFF7F⟩ := by
  have e : ∀ x ∈ rowsSched.take 34, 0 < x.stride ∧ x.off + x.cnt * x.stride ≤ 0x2000 := by decide
  have o : Reg.SCHED_WI_CFG w % 0x10000 = 0x2000 + w * 4 := by unfold Reg.SCHED_WI_CFG; omega
  have b : Reg.SCHED_WI_CFG w / 0x10000 % 16 = 3 := by unfold Reg.SCHED_WI_CFG; omega
  have hit : (⟨0x2000, 0x4, 4096, .rws, 0x0, 0xFFFFFF7F⟩ : RegRow).hits (0x2000 + w * 4) = true := by
    simp [RegRow.hits]; omega
  unfold regRow
  rw [if_pos (by unfold Reg.SCHED_WI_CFG; omega), o, b]
  dsimp only
  rw [if_neg (by omega)]
  exact (find_skip (rowsSched.take 34) (rowsSched.drop 34) fun x hx => ⟨(e x hx).1, (e x hx).2.trans (by omega)⟩).trans
    (List.find?_cons_of_pos (p := fun x : RegRow => x.hits _) hit)

theorem regRow_SCHED_WI_ENTRY (h : w < 4096) :
    regRow (Reg.SCHED_WI_ENTRY w) = some ⟨0x6000, 0x4, 4096, .rws, 0x0, 0xFFFFFFFE⟩ := by
  have e : ∀ x ∈ rowsSched.take 35, 0 < x.stride ∧ x.off + x.cnt * x.stride ≤ 0x6000 := by decide
  have o : Reg.SCHED_WI_ENTRY w % 0x10000 = 0x6000 + w * 4 := by unfold Reg.SCHED_WI_ENTRY; omega
  have b : Reg.SCHED_WI_ENTRY w / 0x10000 % 16 = 3 := by unfold Reg.SCHED_WI_ENTRY; omega
  have hit : (⟨0x6000, 0x4, 4096, .rws, 0x0, 0xFFFFFFFE⟩ : RegRow).hits (0x6000 + w * 4) = true := by
    simp [RegRow.hits]; omega
  unfold regRow
  rw [if_pos (by unfold Reg.SCHED_WI_ENTRY; omega), o, b]
  dsimp only
  rw [if_neg (by omega)]
  exact (find_skip (rowsSched.take 35) (rowsSched.drop 35) fun x hx => ⟨(e x hx).1, (e x hx).2.trans (by omega)⟩).trans
    (List.find?_cons_of_pos (p := fun x : RegRow => x.hits _) hit)

end

/-- No address in SCHED's descriptors is one of a wide value or clears sticky bits. -/
theorem plain_of_sched {a : Nat} (lo : 0x10032000 ≤ a) (hi : a < 0x10040000) :
    stickyClr a = false ∧ wideBelow a = false ∧ wideLower a = [] := by
  have outside : ∀ g ∈ wideValues, g.1 + 4 * g.2 ≤ 0x10032000 ∨ 0x10050000 ≤ g.1 := by decide
  refine ⟨?_, ?_, ?_⟩
  · have b : a / 0x10000 % 16 = 3 := by omega
    unfold stickyClr
    rw [b]
    simp
    omega
  · unfold wideBelow
    simp only [List.any_eq_false, Bool.and_eq_true, decide_eq_true_eq]
    rintro g hg ⟨h1, h2⟩
    have := outside g hg
    omega
  · unfold wideLower
    rw [List.find?_eq_none.mpr]
    intro g hg
    have := outside g hg
    simp
    omega

section
variable (v : Vp) (m : Nat) {w : Nat} (x : Word)

theorem written_SCHED_WI_CFG (h : w < 4096) : v.written m (Reg.SCHED_WI_CFG w) x = v.writeWiCfg w x := by
  have o : Reg.SCHED_WI_CFG w % 0x10000 = 0x2000 + w * 4 := by unfold Reg.SCHED_WI_CFG; omega
  have b : Reg.SCHED_WI_CFG w / 0x10000 % 16 = 3 := by unfold Reg.SCHED_WI_CFG; omega
  rw [Vp.written_row (regRow_SCHED_WI_CFG h), Vp.effect_block (.inr (.inr rfl)) (by omega)
    (plain_of_sched (by unfold Reg.SCHED_WI_CFG; omega) (by unfold Reg.SCHED_WI_CFG; omega))]
  simp only [o, b]
  unfold Vp.wSched
  rw [if_neg (by omega), if_neg (by omega), if_neg (by omega), if_neg (by simp [lockAt]; omega), if_pos (by omega)]
  congr 1
  omega

theorem written_SCHED_WI_ENTRY (h : w < 4096) :
    v.written m (Reg.SCHED_WI_ENTRY w) x = v.writeWiEntry w (x &&& w32 (regMask (Reg.SCHED_WI_ENTRY w))) := by
  have o : Reg.SCHED_WI_ENTRY w % 0x10000 = 0x6000 + w * 4 := by unfold Reg.SCHED_WI_ENTRY; omega
  have b : Reg.SCHED_WI_ENTRY w / 0x10000 % 16 = 3 := by unfold Reg.SCHED_WI_ENTRY; omega
  have mask : regMask (Reg.SCHED_WI_ENTRY w) = 0xFFFFFFFE := by unfold regMask; rw [regRow_SCHED_WI_ENTRY h]
  rw [Vp.written_row (regRow_SCHED_WI_ENTRY h), Vp.effect_block (.inr (.inr rfl)) (by omega)
    (plain_of_sched (by unfold Reg.SCHED_WI_ENTRY; omega) (by unfold Reg.SCHED_WI_ENTRY; omega)), mask]
  simp only [o, b]
  unfold Vp.wSched
  rw [if_neg (by omega), if_neg (by omega), if_neg (by omega), if_neg (by simp [lockAt]; omega), if_neg (by omega),
    if_pos (by omega)]
  congr 1
  omega

end

/-! ### Descriptors as they are written (R265) -/

/-- The registers that an accepted configuration sets. -/
def wiCfgSet (v : Vp) (w : Nat) (c : Word) : Vp :=
  let v := v.setReg (Reg.SCHED_WI_CFG w) c
  v.setReg Reg.SCHED_AFF_CNT (w32 (v.affOthers w + b2n (bit c 4)))

/-- What ended an item before is cleared as it is enabled. -/
def wiFlagsClear (v : Vp) (w : Nat) : Vp :=
  (v.setBit (Reg.SCHED_WI_STAT w) 11 false).setBit (Reg.SCHED_WI_STAT w) 12 false

section
variable {v : Vp} {w : Nat} {x : Word}

theorem writeWiCfg_taken (ok : v.wiRefused w (x &&& w32 0xFFFFFF7F) (v.reg (Reg.SCHED_WI_ENTRY w)) = false) :
    v.writeWiCfg w x =
      (let c := x &&& w32 0xFFFFFF7F
       let st := v.wiState w
       let u := wiCfgSet v w c
       if bit c 0 then
         let u := wiFlagsClear u w
         let u := if st = 4 then u.setWiState w 0 else u
         let u := if st = 1 ∧ fld (v.reg (Reg.SCHED_WI_CFG w)) 1 3 ≠ fld c 1 3 then
             { u with sched := { u.sched with ready := u.sched.ready.filter (· != w) ++ [w] } }
           else u
         if st = 1 then u.checkNoCore w else u
       else if st = 0 then u.setWiState w 4
       else if st = 1 then
         { u.setWiState w 4 with sched := { u.sched with
             ready := u.sched.ready.filter (· != w), merged := sset (fun _ => 0) u.sched.merged w 0 } }
       else { u.setBit (Reg.SCHED_WI_STAT w) 3 false with sched := { u.sched with
         merged := sset (fun _ => 0) u.sched.merged w 0 } }) := by
  unfold Vp.writeWiCfg
  exact if_neg (by simp [ok])

/-- A refused descriptor sets CFG_REFUSED of SCHED, and nothing else changes. -/
theorem coreWrite_refused {m a : Nat} (acts : v.masterActs m = true) (reg : region m a = .reg) (al : a % 4 = 0)
    (on : v.domOn (accessDom m a) = true) (before : v.launched = false) (isOpen : v.sealOpen = true) {r : RegRow}
    (row : regRow a = some r) (acc : r.acc = .rws) (bad : v.stateRefused a x = true) :
    v.coreWrite m a x = v.cfgRefused a := by
  have bus : busError m a true = false := by
    unfold busError
    rw [reg]
    simp [al]
  rw [coreWrite_now x acts bus reg (.inl before)]
  unfold Vp.tryWrite
  rw [if_neg (by simp [bus]), if_neg (by simp [on]), reg]
  simp only [row]
  rw [if_neg (by simp [acc]), if_neg (by simp [isOpen]), if_pos (by simp [bad])]

theorem cfgRefused_sched {a : Nat} (h : a / 0x10000 % 16 = 3) : v.cfgRefused a = v.setBit Reg.SCHED_STICKY 5 true := by
  have flag : refusedFlag a = some (Reg.SCHED_STICKY, 5) := by
    unfold refusedFlag
    simp only [h]
  unfold Vp.cfgRefused
  rw [flag]

theorem stateRefused_WI_CFG (hw : w < 4096) :
    v.stateRefused (Reg.SCHED_WI_CFG w) x = v.wiRefused w x (v.reg (Reg.SCHED_WI_ENTRY w)) := by
  have o : Reg.SCHED_WI_CFG w % 0x10000 = 0x2000 + w * 4 := by unfold Reg.SCHED_WI_CFG; omega
  have b : Reg.SCHED_WI_CFG w / 0x10000 % 16 = 3 := by unfold Reg.SCHED_WI_CFG; omega
  unfold Vp.stateRefused
  simp only [o, b]
  unfold Vp.schedRefused
  dsimp only
  rw [if_neg (by omega), if_neg (by omega), if_pos (by omega), show (0x2000 + w * 4 - 0x2000) / 4 = w by omega]

theorem stateRefused_WI_ENTRY (hw : w < 4096) :
    v.stateRefused (Reg.SCHED_WI_ENTRY w) x = v.wiRefused w (v.reg (Reg.SCHED_WI_CFG w)) x := by
  have o : Reg.SCHED_WI_ENTRY w % 0x10000 = 0x6000 + w * 4 := by unfold Reg.SCHED_WI_ENTRY; omega
  have b : Reg.SCHED_WI_ENTRY w / 0x10000 % 16 = 3 := by unfold Reg.SCHED_WI_ENTRY; omega
  unfold Vp.stateRefused
  simp only [o, b]
  unfold Vp.schedRefused
  dsimp only
  rw [if_neg (by omega), if_neg (by omega), if_neg (by omega), if_pos (by omega),
    show (0x6000 + w * 4 - 0x6000) / 4 = w by omega]

end

/-- Settles O20: each command is its operation, and a descriptor's write is taken by its refusal, EN and STATE. -/
theorem schedulerEvents : Obligations.SchedulerEvents := by
  unfold Obligations.SchedulerEvents
  refine ⟨fun s m w run acc => ?_, fun s k run hk acc => ?_, fun s k w r cause pc val run hk acts top => ?_,
    fun s w run due => ?_, fun s m j run acts => ⟨?_, ?_⟩, fun s m w x run hw => ⟨fun acc => ?_, fun acc => ?_, ?_⟩,
    fun s k run dbg hk here => ?_, fun s k run dbg halted => ?_⟩
  · refine vp_runs run (f := fun v => v.coreWrite m Reg.SCHED_POST w) ?_
    have le : m ≤ 16 := by
      have := accepts_masterActs acc
      unfold Vp.masterActs at this
      split at this
      · omega
      · simp at this; omega
    rw [Vp.coreWrite_accepts acc, Vp.written_SCHED_POST, if_pos le]
  · refine vp_runs run (f := fun v => v.coreWrite k Reg.SCHED_SELF_DONE 0) ?_
    rw [Vp.coreWrite_accepts acc, Vp.written_SCHED_SELF_DONE, if_pos hk]
  · refine vp_runs run (f := fun v => v.exception k cause pc val) ((if_pos ⟨hk, acts⟩).trans ?_)
    unfold Vp.coreException
    rw [top]
    rfl
  · intro u k was o c runs
    refine ⟨fun h => vp_runs run (f := fun v => v.watchdogOverrun w) ?_,
      fun h => vp_runs run (f := fun v => v.watchdogOverrun w) ?_⟩
    · exact (if_pos due).trans (if_neg (by simpa [runs] using h))
    · exact (if_pos due).trans (if_pos (by simpa [runs] using h))
  · exact vp_runs run (f := fun v => if v.masterActs m then v.lockRead j else v) (if_pos acts)
  · exact vp_runs run (f := fun v => if v.masterActs m then v.lockWrite j else v) (if_pos acts)
  · intro c v v' refused
    have writes {u : Vp} (h : s.vp.writeWiCfg w x = u) : exec (.wiCfgWrite m w false x) s = .next (s.after u) := by
      refine vp_runs run (f := fun v => v.coreWrite m (Reg.SCHED_WI_CFG w) x) ?_
      rw [Vp.coreWrite_accepts acc, written_SCHED_WI_CFG _ _ _ hw, h]
    refine ⟨fun ok en st => writes ?_, fun ok en st => writes ?_, fun ok en st => ?_, fun ok en st => writes ?_,
      fun ok en st => writes ?_, fun ok en st => writes ?_⟩
    · rw [writeWiCfg_taken ok]
      dsimp only
      rw [if_pos en, if_neg (by omega), if_neg (by omega), if_pos st]
      rfl
    · rw [writeWiCfg_taken ok]
      dsimp only
      rw [if_pos en, if_neg (by omega), if_neg (by omega), if_neg (by omega)]
      rfl
    · refine writes ?_
      rw [writeWiCfg_taken ok]
      dsimp only
      rw [if_pos en, if_pos st, if_neg (c := s.vp.wiState w = 4) (by omega)]
      simp only [st, true_and]
      rfl
    · rw [writeWiCfg_taken ok]
      dsimp only
      rw [if_neg (by simp [c] at en; simp [en]), if_pos st]
      rfl
    · rw [writeWiCfg_taken ok]
      dsimp only
      rw [if_neg (by simp [c] at en; simp [en]), if_neg (by omega), if_pos st]
      rfl
    · rw [writeWiCfg_taken ok]
      dsimp only
      rw [if_neg (by simp [c] at en; simp [en]), if_neg (by omega), if_neg (by omega)]
      rfl
  · refine vp_runs run (f := fun v => v.coreWrite m (Reg.SCHED_WI_ENTRY w) x) ?_
    rw [Vp.coreWrite_accepts acc, written_SCHED_WI_ENTRY _ _ _ hw]
    rfl
  · rintro (_ | _) a acts isOpen before on bad
    · refine vp_runs run (f := fun v => v.coreWrite m (Reg.SCHED_WI_CFG w) x) ?_
      rw [coreWrite_refused (a := Reg.SCHED_WI_CFG w) acts (region_block m (by unfold Reg.SCHED_WI_CFG; omega) (by unfold Reg.SCHED_WI_CFG; omega))
        (by unfold Reg.SCHED_WI_CFG; omega) on before isOpen (regRow_SCHED_WI_CFG hw) rfl
        ((stateRefused_WI_CFG hw).trans bad), cfgRefused_sched (by unfold Reg.SCHED_WI_CFG; omega)]
    · refine vp_runs run (f := fun v => v.coreWrite m (Reg.SCHED_WI_ENTRY w) x) ?_
      rw [coreWrite_refused (a := Reg.SCHED_WI_ENTRY w) acts (region_block m (by unfold Reg.SCHED_WI_ENTRY; omega) (by unfold Reg.SCHED_WI_ENTRY; omega))
        (by unfold Reg.SCHED_WI_ENTRY; omega) on before isOpen (regRow_SCHED_WI_ENTRY hw) rfl
        ((stateRefused_WI_ENTRY hw).trans bad), cfgRefused_sched (by unfold Reg.SCHED_WI_ENTRY; omega)]
  · exact vp_runs run (f := fun v => v.debugHalt k) (if_pos (by simp [dbg, hk, here]))
  · exact vp_runs run (f := fun v => v.debugResume k) (if_pos (by simp [dbg, halted]))

end Sys2Proof.Proofs

end

section
/-!
PROOFS. What reaches the valve processor on a ring, and what it sends (O23).
-/

namespace Sys2Proof.Proofs

open Sys2Proof Sys2Proof.Machine

/-! ### Copies of trains (R145, R210) -/

theorem blockErrs_reports (v : Vp) (m n : Nat) : SameButReports v (v.blockErrs m n) := by
  unfold Vp.blockErrs
  split <;> rfl

namespace SameButReports

variable {v u : Vp}

theorem decided (h : SameButReports v u) : u.decided = v.decided := (congrArg Vp.decided h.sets :)
theorem rings (h : SameButReports v u) : u.rings = v.rings := (congrArg Vp.rings h.sets :)

theorem ring (h : SameButReports v u) (m : Nat) : u.ring m = v.ring m := by
  unfold Vp.ring
  rw [h.rings]

end SameButReports

/-- A copy whose TRAIN_CRC fails is counted and raises its fault. -/
def copyChecked (v : Vp) (m : Nat) (crcOk : Bool) : Vp :=
  if crcOk then v
  else (v.addFld (Reg.RING_CRC_CNT m) 0 16 1).raiseAll 6 m [ringCond 2 cor (Reg.RING_CRC_CNT m)]

theorem copyChecked_reports (v : Vp) (m : Nat) (crcOk : Bool) : SameButReports v (copyChecked v m crcOk) := by
  unfold copyChecked
  split
  · rfl
  · exact .trans (u := v.addFld (Reg.RING_CRC_CNT m) 0 16 1) rfl (.raiseAll _ _ _ _)

section
variable {v : Vp} {m : Nat} (up wr : Bool) (t hop errs sent : Nat) (crcOk : Bool)

theorem copyIn_badSot (on : v.ringUp m = true) :
    v.copyIn m up wr t hop false crcOk errs = v.blockErrs m (errs + 1) := by
  unfold Vp.copyIn
  rw [if_neg (by simp [on])]
  rfl

theorem copyIn_goodSot (on : v.ringUp m = true) : v.copyIn m up wr t hop true crcOk errs =
    (let v := copyChecked (v.blockErrs m errs) m crcOk
     if v.decided then v
     else v.updRing m (fun r => { r with copies := sput (2 * b2n up + b2n wr) { t := t, hop := hop } r.copies })) := by
  unfold Vp.copyIn
  rw [if_neg (by simp [on])]
  rfl

theorem copyReturn_late (on : v.ringUp m = true) (late : v.decided = true) :
    v.copyReturn m up wr t hop true crcOk errs sent = copyChecked (v.blockErrs m errs) m crcOk := by
  have still : (copyChecked (v.blockErrs m errs) m crcOk).decided = true :=
    ((blockErrs_reports v m errs).trans (copyChecked_reports _ m crcOk)).decided.trans late
  unfold Vp.copyReturn
  rw [copyIn_goodSot up wr t hop errs crcOk on]
  dsimp only
  rw [if_pos (by simp [late]), if_pos still]

theorem copyReturn_inTime (on : v.ringUp m = true) (early : v.decided = false) :
    v.copyReturn m up wr t hop true crcOk errs sent =
      (let u := (copyChecked (v.blockErrs m errs) m crcOk).updRing m (fun r => { r with
         copies := sput (2 * b2n up + b2n wr) { t := t, hop := hop } r.copies })
       if !u.ringUp m then u
       else u.rfhSend m up wr t sent (sget (fun _ => 0) (u.ring m).copyHeld (2 * b2n up + b2n wr))) := by
  have still : (copyChecked (v.blockErrs m errs) m crcOk).decided = false :=
    ((blockErrs_reports v m errs).trans (copyChecked_reports _ m crcOk)).decided.trans early
  unfold Vp.copyReturn
  rw [copyIn_goodSot up wr t hop errs crcOk on]
  dsimp only
  rw [if_neg (c := (copyChecked (v.blockErrs m errs) m crcOk).decided = true) (by simp [still]), early, Bool.not_true,
    Bool.false_or, Bool.false_or]

end

/-! ### Reports (R134) -/

section
variable {v : Vp} {m p : Nat} (up wr : Bool) (arr slot : Nat)

/-- A slot has arrived from the cell at position `p`. -/
def slotSeen (v : Vp) (m p : Nat) : Vp := v.updRing m (fun r => { r with seen := putBit r.seen p true })

/-- A good report of the cell has arrived with a copy. -/
def reportHeld (v : Vp) (m p : Nat) (up wr : Bool) : Vp :=
  ((slotSeen v m p).updRing m (fun r => { r with
    copyHeld := sset (fun _ => 0) r.copyHeld (2 * b2n up + b2n wr)
      (putBit (sget (fun _ => 0) r.copyHeld (2 * b2n up + b2n wr)) p true) })).setCf (256 * m + p) 8 (b2n up) 1 1

theorem reportIn_bad (on : v.ringUp m = true) (here : p < v.ncell m)
    (bad : crc16Ok slot (nodeId (slotSeen v m p).chip m p) (slotSeen v m p).frameNo = false) : v.reportIn m p up wr arr slot =
      (((((slotSeen v m p).addFld (Reg.RING_CRC_CNT m) 16 16 1).incCw (256 * m + p) 10).setCf (256 * m + p) 8 4 1 1).updRing m
        (fun r => { r with crcBad := putBit r.crcBad p true })) := by
  unfold Vp.reportIn
  rw [if_neg (by simp [on, here])]
  exact if_pos (Bool.not_eq_true' _ |>.mpr bad)

theorem reportIn_good (on : v.ringUp m = true) (here : p < v.ncell m)
    (good : crc16Ok slot (nodeId (slotSeen v m p).chip m p) (slotSeen v m p).frameNo = true) : v.reportIn m p up wr arr slot =
      (let u := reportHeld v m p up wr
       if u.holds (256 * m + p) then
         if (sget (fun _ => {}) u.held (256 * m + p)).val = slot then u else u.copyDiffers m (256 * m + p)
       else
         let x := u.firstCopy m p arr slot
         if !x.pairMode && (sget (fun _ => {}) x.held (256 * m + p)).inTime then x.noteRetired (256 * m + p) slot else x) := by
  unfold Vp.reportIn
  rw [if_neg (by simp [on, here])]
  exact if_neg fun h => Bool.noConfusion (good.symm.trans (Bool.not_eq_true' _ |>.mp h))

theorem forward_single (single : v.pairMode = false) : v.forward m p = v := by
  unfold Vp.forward
  exact if_neg (by simp [single])

end

/-! ### Management packets (R137 to R140) -/

section
variable {v : Vp} {m : Nat}

theorem mgSend_waits {p : MgPkt} (busy : ((v.ring m).mg.lookup (v.ring m).mgTag).isSome = true) :
    v.mgSend m p = v.setRing m { v.ring m with mgWait := (v.ring m).mgWait ++ [p] } := by
  unfold Vp.mgSend
  exact if_pos busy

theorem mgSend_sent {p : MgPkt} (free : ((v.ring m).mg.lookup (v.ring m).mgTag).isSome = false) : v.mgSend m p =
    (let r := v.ring m
     let k := v.mgForm m r.mgTag p
     let u := v.setRing m { r with mg := sput r.mgTag k r.mg, mgTag := (r.mgTag + 1) % 256 }
     if k.byPeer then u.peerSend (.packet m k.out) else u) := by
  unfold Vp.mgSend
  exact if_neg (by simp [free])

theorem mgRetry_again {tag : Nat} {p : MgPkt} (st : Nat) (more : p.tries < v.fld Reg.RING_MG_CFG 0 3) :
    v.mgRetry m tag p st = v.updRing m (fun r => { r with
      mg := sput tag { p with tries := p.tries + 1, await := v.mgCopies m p, status := 0, resp := 0 } r.mg }) := by
  unfold Vp.mgRetry
  exact if_pos more

theorem mgRetry_spent {tag : Nat} {p : MgPkt} (st : Nat) (spent : v.fld Reg.RING_MG_CFG 0 3 ≤ p.tries) :
    v.mgRetry m tag p st = v.mgEnd m tag p st true [] := by
  unfold Vp.mgRetry
  exact if_neg (by omega)

theorem mgReturn_bad (tag st resp : Nat) (data : List Word) (errs : Nat) :
    v.mgReturn m tag st resp data false errs = v.blockErrs m (errs + 1) := by
  unfold Vp.mgReturn
  exact if_pos rfl

/-- What a returned copy leaves of its packet. -/
def mgCopyIn (v : Vp) (m : Nat) (p : MgPkt) (st resp : Nat) : MgPkt :=
  { p with
    status := max p.status st
    resp := if p.status = 0 ∧ p.resp = 0 then resp else joinResp (v.fld (Reg.RING_STATE m) 2 3) p.resp resp
    await := p.await - 1 }

theorem mgReturn_known {tag : Nat} {p : MgPkt} (st resp : Nat) (data : List Word) (errs : Nat)
    (h : (v.ring m).mg.lookup tag = some p) : v.mgReturn m tag st resp data true errs =
      (let u := v.blockErrs m errs
       let q := mgCopyIn u m p st resp
       if 0 < q.await then u.updRing m (fun r => { r with mg := sput tag q r.mg })
       else if q.status = 0 ∨ q.status = 4 then u.mgRetry m tag q q.status
       else u.mgEnd m tag q q.status false data) := by
  have same : ((v.blockErrs m errs).ring m).mg.lookup tag = some p := by
    rw [(blockErrs_reports v m errs).ring]
    exact h
  unfold Vp.mgReturn mgCopyIn
  rw [if_neg (by decide)]
  simp only [Bool.not_true, b2n, Bool.false_eq_true, if_false, Nat.add_zero, same, Bool.and_eq_true, beq_iff_eq]

theorem mgReturn_unknown {tag : Nat} (st resp : Nat) (data : List Word) (errs : Nat)
    (h : (v.ring m).mg.lookup tag = none) : v.mgReturn m tag st resp data true errs = v.blockErrs m errs := by
  have same : ((v.blockErrs m errs).ring m).mg.lookup tag = none := by
    rw [(blockErrs_reports v m errs).ring]
    exact h
  unfold Vp.mgReturn
  rw [if_neg (by decide)]
  simp only [Bool.not_true, b2n, Bool.false_eq_true, if_false, Nat.add_zero, same]

theorem mgTimeout_eq {tag : Nat} {p : MgPkt} (h : (v.ring m).mg.lookup tag = some p) :
    v.mgTimeout m tag = v.mgRetry m tag p p.status := by
  unfold Vp.mgTimeout
  rw [h]

end

/-- Settles O23: each command is its operation, taken apart by what the ring holds. -/
theorem ringEvents : Obligations.RingEvents := by
  unfold Obligations.RingEvents
  refine ⟨⟨fun s m up wr crcOk t hop errs sent run on => ⟨?_, ?_⟩, fun s m p arr slot up wr run on here => ?_,
    fun v m p => forward_single, fun s k w run acc => ?_, fun v m p => ?_, fun s m tag st resp errs data run => ⟨?_, ?_, ?_⟩,
    fun s m tag p run known => ⟨fun more => ?_, fun spent => ?_⟩⟩,
    fun s m h run => ?_, fun s m r w run hr acc => ?_, fun s m h run named unsure => ?_⟩
  · refine vp_runs run (f := fun v => v.copyReturn m up wr t hop false crcOk errs sent) ?_
    unfold Vp.copyReturn
    rw [copyIn_badSot up wr t hop errs crcOk on]
    exact if_pos (by simp)
  · intro key v v' u f
    refine ⟨fun late => ?_, fun early => ?_⟩
    · exact vp_runs run (f := fun v => v.copyReturn m up wr t hop true crcOk errs sent)
        (copyReturn_late up wr t hop errs sent crcOk on late)
    · refine vp_runs run (f := fun v => v.copyReturn m up wr t hop true crcOk errs sent) ?_
      rw [copyReturn_inTime up wr t hop errs sent crcOk on early]
      change (if !u.ringUp m then u else u.rfhSend m up wr t sent (sget (fun _ => 0) (u.ring m).copyHeld key)) = _
      unfold Vp.rfhSend
      cases u.ringUp m
      · rfl
      · rfl
  · intro cell v good key u
    have recv {x : Vp} (h : s.vp.reportIn m p up wr arr slot = x) :
        exec (.reportReceived m p up wr arr slot) s = .next (s.after (x.forward m p)) :=
      vp_runs run (f := fun v => v.reportRecv m p up wr arr slot) (by unfold Vp.reportRecv; rw [h])
    refine ⟨fun bad => recv (reportIn_bad up wr arr slot on here bad), fun ok held same => recv ?_,
      fun ok held other => recv ?_, fun ok fresh => ?_⟩
    · rw [reportIn_good up wr arr slot on here ok]
      exact (if_pos held).trans (if_pos same)
    · rw [reportIn_good up wr arr slot on here ok]
      exact (if_pos held).trans (if_neg other)
    · intro x x'
      refine recv ?_
      rw [reportIn_good up wr arr slot on here ok]
      refine (if_neg fun h => Bool.noConfusion (fresh.symm.trans h)).trans ?_
      change (if !x.pairMode && (sget (fun _ => {}) x.held cell).inTime then x.noteRetired cell slot else x) = x'
      unfold Vp.noteRetired
      by_cases h : (!x.pairMode && (sget (fun _ => {}) x.held cell).inTime) = true <;>
        by_cases h4 : repState slot = 4 <;> simp [x', h, h4]
  · intro v q m len odd p ok
    have goes {u : Vp} (h : v.mgGo = u) : exec (.mgRequestGo k w) s = .next (s.after u) := by
      refine vp_runs run (f := fun v => v.coreWrite k Reg.RING_MG_GO w) ?_
      rw [Vp.coreWrite_accepts acc, Vp.written_RING_MG_GO]
      exact h
    have taken : ok ↔ ¬ (len == 0 || decide (64 < len) || decide (5 ≤ p.opc) || (p.opc == 0 && p.bcast)
        || (!p.bcast && decide (v.ncell m ≤ p.dest)) || !v.ringUp m || !v.mgForward m p) = true := by
      simp only [ok, Bool.or_eq_true, Bool.and_eq_true, beq_iff_eq, decide_eq_true_eq, Bool.not_eq_true', not_or, not_and,
        not_le, not_lt, Bool.not_eq_true, Bool.not_eq_false, Nat.one_le_iff_ne_zero, and_assoc]
    refine ⟨fun busy => goes (if_pos busy), fun idle h => goes ?_, fun idle h => goes ?_⟩
    · exact (if_neg (by simp [idle])).trans (if_neg (taken.mp h))
    · exact (if_neg (by simp [idle])).trans (if_pos (not_not.mp (taken.not.mp h)))
  · exact ⟨mgSend_waits, fun free => ⟨rfl, mgSend_sent free⟩⟩
  · exact vp_runs run (f := fun v => v.mgReturn m tag st resp data false errs) (mgReturn_bad tag st resp data errs)
  · exact fun none => vp_runs run (f := fun v => v.mgReturn m tag st resp data true errs)
      (mgReturn_unknown st resp data errs none)
  · intro p known v r q x y
    have returns {u : Vp} (h : s.vp.mgReturn m tag st resp data true errs = u) :
        exec (.mgPacketReturn m tag st resp data true errs) s = .next (s.after u) :=
      vp_runs run (f := fun v => v.mgReturn m tag st resp data true errs) h
    have arrived := mgReturn_known st resp data errs known
    have last (h : p.await ≤ 1) : ¬ 0 < q.await := by
      change ¬ 0 < p.await - 1
      omega
    refine ⟨fun more => returns ?_, fun one n0 n4 => returns ?_, fun one again more => returns ?_,
      fun one again spent => returns ?_⟩
    · exact arrived.trans (if_pos (by change 0 < p.await - 1; omega))
    · refine arrived.trans ((if_neg (last one)).trans ((if_neg (by rintro (h | h); exacts [n0 h, n4 h])).trans ?_))
      rfl
    · exact arrived.trans ((if_neg (last one)).trans ((if_pos again).trans (mgRetry_again (p := q) _ more)))
    · exact arrived.trans ((if_neg (last one)).trans ((if_pos again).trans (mgRetry_spent (p := q) _ spent)))
  · refine vp_runs run (f := fun v => v.mgTimeout m tag) ?_
    rw [mgTimeout_eq known, mgRetry_again _ more]
  · refine vp_runs run (f := fun v => v.mgTimeout m tag) ?_
    rw [mgTimeout_eq known, mgRetry_spent _ spent]
  · intro x broken rest unnamed unchecked may here
    refine vp_runs run (f := fun v => v.retrain m h) (if_neg ?_)
    simp only [x] at broken rest unnamed unchecked
    simp [broken, rest, unnamed, unchecked, may, here]
  · intro u x
    have writes : s.vp.coreWrite m (Reg.RING_CTL r) w = x := by
      rw [Vp.coreWrite_accepts acc, Vp.written_RING_CTL _ _ _ hr]
      rfl
    exact ⟨vp_runs run (f := fun v => v.coreWrite m (Reg.RING_CTL r) w) writes,
      vp_runs run (f := fun v => v.coreWrite m (Reg.RING_CTL r) w) writes⟩
  · exact vp_runs run (f := fun v => v.closeCancel m h) (if_pos ⟨named, unsure⟩)

end Sys2Proof.Proofs

end

section
/-!
PROOFS. The lanes of both parts: how an operation reaches its lane; losses and adaptation (O25), power states (O26), the
stages of training and the markers of the peer bundle (O27).
-/

namespace Sys2Proof.Proofs

open Sys2Proof Sys2Proof.Machine

/-! ### An operation on a lane -/

theorem laneFaults_nil (v : Vp) (l a : Nat) : v.laneFaults l [] a = v := rfl

theorem onLane_eq {v : Vp} {l a : Nat} {f : Lane → Lane × List Nat} {x : Lane} {cs : List Nat} (here : v.laneHere l = true)
    (quad : v.quadOk l = true) (hf : f (v.lane l) = (x, cs)) : v.onLane l a f = (v.setLane l x).laneFaults l cs a := by
  unfold Vp.onLane
  rw [if_pos (by simp [here, quad]), hf]

/-- PQ takes its source anew after a peer lane (R185). -/
def peerSynced (l : Nat) (v : Vp) : Vp := if 36 ≤ l ∧ l < 40 then v.pqSync else v

theorem laneOp_eq {v : Vp} {l a : Nat} {f : Lane → Lane × List Nat} {x : Lane} {cs : List Nat} (here : v.laneHere l = true)
    (quad : v.quadOk l = true) (hf : f (v.lane l) = (x, cs)) :
    v.laneOp l a f = peerSynced l ((v.setLane l x).laneFaults l cs a) := by
  unfold Vp.laneOp
  rw [onLane_eq here quad hf]
  rfl

/-- An operation on a lane in service is what it makes of the lane, with the faults that it finds. -/
theorem onLane_to {s : State} {l : LaneRef} (on : s.laneOn l = true) {f : Lane → Lane × List Nat} {x : Lane} {cs : List Nat}
    (hf : f (s.lane l) = (x, cs)) :
    (.next (s.onLane l Reg.LANE_STICKY f) : Host.Outcome State Fault Refusal) = .next (s.laneTo l x cs) := by
  cases l with
  | vp n =>
    simp only [State.laneOn, Bool.and_eq_true] at on
    obtain ⟨⟨run, here⟩, quad⟩ := on
    exact vp_runs run (f := fun v => v.laneOp n (Reg.LANE_STICKY n) f) (laneOp_eq here quad hf)
  | cell c i =>
    have run : (s.cell c).clamped = false := by simpa [State.laneOn] using on
    have made : (f ((s.cell c).lane (i % 2))).1 = x := congrArg Prod.fst hf
    unfold State.onLane
    dsimp only
    rw [State.onCell_runs run]
    unfold Cell.onLane
    dsimp only
    rw [made]
    rfl

section
variable {c : Cell}

theorem sync_reg {a : Nat} (h1 : a ≠ Reg.CN_LANE_STAT) (h2 : a ≠ Reg.CN_LANE_REFSEL) (h3 : a ≠ Reg.CN_SYS_PWR) :
    c.sync.reg a = c.reg a := by
  unfold Cell.sync
  extract_lets w d s
  have shown : d.reg a = c.reg a := Cell.reg_setReg_other c _ h1
  split
  · exact shown
  · have away (e : Cell) (w : Word) : (e.setReg Reg.CN_LANE_REFSEL w).reg a = e.reg a := Cell.reg_setReg_other e w h2
    exact (Cell.reg_setReg_other _ _ h3).trans ((away _ _).trans ((away _ _).trans shown))

theorem bridge_reg {a : Nat} (h1 : a ≠ Reg.CN_LANE_STAT) (h2 : a ≠ Reg.CN_LANE_REFSEL) (h3 : a ≠ Reg.CN_SYS_PWR)
    (side : Bool) : (c.bridge side).reg a = c.reg a := by
  unfold Cell.bridge
  split
  · exact sync_reg h1 h2 h3
  · exact sync_reg h1 h2 h3

/-- What a lane becomes sets its status register. -/
theorem setLane_stat {i : Nat} (h : i < 2) (y : Lane) : (c.setLane i y).reg (Reg.CN_LANE_LSTAT i) = y.stat := by
  obtain rfl | rfl : i = 0 ∨ i = 1 := by omega
  all_goals
    change ((Cell.setReg _ _ _).setReg (Reg.CN_LANE_LOS_CNT _) _).reg _ = _
    simp (disch := decide) only [Cell.reg_setReg_other, Cell.reg_setReg_same]

/-- What a lane becomes sets its power register. -/
theorem setLane_pwr {i : Nat} (h : i < 2) (y : Lane) : (c.setLane i y).reg (Reg.CN_LANE_PWR i) = y.pwr := by
  obtain rfl | rfl : i = 0 ∨ i = 1 := by omega
  all_goals
    change ((Cell.setReg _ _ _).setReg (Reg.CN_LANE_LOS_CNT _) _).reg _ = _
    simp (disch := decide) only [Cell.reg_setReg_other, Cell.reg_setReg_same]

/-- A lane of a cell after an operation: its status and power registers are as the operation left them. -/
theorem onLane_shows (i : Nat) {f : Lane → Lane × List Nat} {y : Lane} (hf : (f (c.lane (i % 2))).1 = y) :
    ((c.onLane i f).lane (i % 2)).stat = y.stat ∧ ((c.onLane i f).lane (i % 2)).pwr = y.pwr := by
  have two : i % 2 < 2 := Nat.mod_lt _ (by decide)
  have apart {n : Nat} (h : n < 2) (a : Nat) (ha : a = Reg.CN_LANE_STAT ∨ a = Reg.CN_LANE_REFSEL ∨ a = Reg.CN_SYS_PWR) :
      Reg.CN_LANE_LSTAT n ≠ a ∧ Reg.CN_LANE_PWR n ≠ a := by
    obtain rfl | rfl : n = 0 ∨ n = 1 := by omega
    all_goals obtain rfl | rfl | rfl := ha <;> decide
  have s1 := apart two _ (.inl rfl)
  have s2 := apart two _ (.inr (.inl rfl))
  have s3 := apart two _ (.inr (.inr rfl))
  have stat := setLane_stat (c := c) two y
  have pwr := setLane_pwr (c := c) two y
  unfold Cell.onLane
  dsimp only
  rw [hf]
  split
  · exact ⟨(bridge_reg s1.1 s2.1 s3.1 _).trans stat, (bridge_reg s1.2 s2.2 s3.2 _).trans pwr⟩
  · exact ⟨(sync_reg s1.1 s2.1 s3.1).trans stat, (sync_reg s1.2 s2.2 s3.2).trans pwr⟩

end

/-- An operation that may take a lock is what it makes of the lane; whether it took one shows in the lane's status and power
registers. -/
theorem onLaneLat_lock {s : State} {l : LaneRef} (on : s.laneOn l = true) {lat : Word} {took : Lane → Lane → Bool}
    {f : Word → Lane → Lane × List Nat} {y : Lane} {t : Bool} (hf : f (laneLat l lat) (s.lane l) = (y, []))
    (ht : ∀ z : Lane, z.stat = y.stat → z.pwr = y.pwr → took (s.lane l) z = t) :
    (.next (s.onLaneLat l Reg.LANE_STICKY lat took f) : Host.Outcome State Fault Refusal)
      = .next (s.laneLock l y t lat.toNat) := by
  cases l with
  | vp n =>
    simp only [State.laneOn, Bool.and_eq_true] at on
    obtain ⟨⟨run, here⟩, quad⟩ := on
    exact vp_runs run (f := fun v => v.laneOp n (Reg.LANE_STICKY n) (f (vpLat n lat))) (laneOp_eq here quad hf)
  | cell c i =>
    have run : (s.cell c).clamped = false := by simpa [State.laneOn] using on
    have made : (f (cellLat lat.toNat) ((s.cell c).lane (i % 2))).1 = y := congrArg Prod.fst hf
    obtain ⟨stat, pwr⟩ := onLane_shows (c := s.cell c) (i % 2) (f := f (cellLat lat.toNat)) (y := y)
      (by rw [Nat.mod_mod]; exact made)
    rw [Nat.mod_mod] at stat pwr
    have shown : took ((s.cell c).lane (i % 2)) _ = t := ht _ stat pwr
    have same : (s.cell c).onLane (i % 2) (f (cellLat lat.toNat)) =
        (let d := (s.cell c).setLane (i % 2) y
         if ((s.cell c).lane (i % 2)).good && !(d.lane (i % 2)).good then d.bridge (i % 2 == 1) else d.sync) := by
      unfold Cell.onLane
      simp only [Nat.mod_mod, made]
    unfold State.onLaneLat
    dsimp only
    rw [State.onCell_runs run]
    unfold Cell.onLaneLat
    dsimp only
    rw [shown, same]
    rfl

/-! ### Losses (R170, R171) -/

section
variable {x : Lane}

theorem declare_eq (run : x.rx = 0) {b : Nat} (held : x.on b = true) (sticky : Nat) : x.declare b sticky =
    (let z := { (x.setStat b false).stick sticky with los := setFld x.los 0 16 (fld x.los 0 16 + 1) }
     (if 2 ≤ z.trn ∧ z.trn ≤ 5 then { z.setTrn 1 with st := { z.st with back5 := z.trn == 5 } } else z, [3])) := by
  unfold Lane.declare
  exact if_neg (by simp [Lane.runs, pActive, run, held])

theorem lostBlock_eq (run : x.rx = 0) (held : x.on 2 = true) (n : Nat) : x.lostBlock n = (x.headers n).declare 2 1 := by
  unfold Lane.lostBlock
  exact if_pos (by simp [Lane.runs, pActive, run, held])

theorem berClear_eq (run : x.rx = 0) {n : Nat} (few : n < 16) (shown : x.on 3 = true) :
    x.berClear n = (x.headers n).setStat 3 false := by
  unfold Lane.berClear
  exact if_neg (by simp [Lane.runs, pActive, run, shown, few])

/-- The lane with the conditions that have cleared, and the latency of a lock taken. -/
def rowsCleared (x : Lane) (rows : Nat) (lat : Word) : Lane :=
  let y := x.clearRows rows
  if x.relocked y then { y with lat := lat } else y

/-- A good lane takes its stored coefficients again, and its stage 5 if it was trained. -/
def reacquired (z : Lane) : Lane :=
  let u := if z.on 11 then z.restore else z
  if u.st.back5 then { u.setTrn 5 with st := { u.st with back5 := false } } else u

theorem cleared_eq (run : x.rx = 0) (bad : x.good = false) (stage : x.training = false ∨ x.st.back5 = true) (rows : Nat)
    (lat : Word) : x.cleared rows lat =
      (let z := rowsCleared x rows lat
       if z.good = false then z else reacquired z) := by
  unfold Lane.cleared
  rw [if_neg (by obtain h | h := stage <;> simp [Lane.runs, pActive, run, bad, h])]
  extract_lets y z u
  simp only [Bool.not_eq_true']
  rfl

theorem on_of_stat {u z : Lane} (h : u.stat = z.stat) (k : Nat) : u.on k = z.on k := by
  unfold Lane.on
  rw [h]

theorem setTrn_on (z : Lane) (n : Nat) {k : Nat} (h : k < 8) : (z.setTrn n).on k = z.on k := by
  unfold Lane.on Lane.setTrn
  rw [bit_eq_fld, bit_eq_fld, fld_setFld_below _ (by decide) _ (by omega)]

theorem setTrn_st_on (z : Lane) (n : Nat) (t : LaneSt) {k : Nat} (h : k < 8) :
    ({ z.setTrn n with st := t } : Lane).on k = z.on k := setTrn_on z n h

theorem reacquired_on (z : Lane) {k : Nat} (h : k < 8) : (reacquired z).on k = z.on k := by
  have kept : ∀ u : Lane, u.stat = z.stat →
      (if u.st.back5 then { u.setTrn 5 with st := { u.st with back5 := false } } else u : Lane).on k = z.on k := by
    intro u hu
    split
    · exact (setTrn_st_on u 5 _ h).trans (on_of_stat hu k)
    · exact on_of_stat hu k
  unfold reacquired
  dsimp only
  split
  · exact kept z.restore rfl
  · exact kept z rfl

/-- Whether a lock was taken shows in the status register that the lane ends with. -/
theorem relocked_cleared (rows : Nat) (lat : Word) {z : Lane}
    (hz : z.stat = (let u := rowsCleared x rows lat; if u.good = false then u else reacquired u).stat) :
    x.relocked z = x.relocked (x.clearRows rows) := by
  have rowsOn (k : Nat) : (rowsCleared x rows lat).on k = (x.clearRows rows).on k := by
    unfold rowsCleared
    dsimp only
    split <;> rfl
  have on {k : Nat} (h : k < 8) : z.on k = (x.clearRows rows).on k := by
    rw [← rowsOn]
    unfold Lane.on
    rw [hz]
    dsimp only
    split
    · rfl
    · exact reacquired_on _ h
  unfold Lane.relocked Lane.locked
  rw [on (by decide), on (by decide), on (by decide)]

end

/-! ### Adaptation and the eye (R166, R168, R169) -/

section
variable {x : Lane}

theorem pattern_eq (errs : Nat) : x.pattern errs = if bit x.cfg 7 = true ∧ errs ≠ 0 then
    { x.stick 11 with prbs := w32 (min (x.prbs.toNat + errs) 0xFFFFFFFF) } else x := by
  unfold Lane.pattern
  by_cases on : bit x.cfg 7 = true <;> by_cases none : errs = 0 <;> simp [on, none]

theorem stick_prbs_rxcfg (i : Nat) (w : Word) : ({ x.stick i with prbs := w } : Lane).rxcfg = x.rxcfg := rfl

theorem pattern_rxcfg (errs : Nat) : (x.pattern errs).rxcfg = x.rxcfg := by
  unfold Lane.pattern
  split
  · rfl
  · exact stick_prbs_rxcfg 11 _

theorem not_training (h : x.trn = 0 ∨ x.trn = 5) : x.training = false := by
  unfold Lane.training
  obtain h | h := h <;> simp [h]

theorem window_eq (run : x.rx = 0) (stage : x.trn = 0 ∨ x.trn = 5) (dens : Nat) (dirs : List Int) (errs : Nat) :
    x.window dens dirs errs =
      (let p := x.pattern errs
       let y := { p with st := { p.st with gaps := p.st.gaps.map (fun q : Nat × Nat => (q.1, q.2 + 1)) } }
       let ok := decide (16 * fld x.rxcfg 8 8 ≤ dens)
       let u := (y.setStat 4 ok).setStat 5 (ok && bit x.rxcfg 0)
       if bit x.rxcfg 0 = false then u
       else if ok = false then u.stick 4
       else [0, 1, 2, 3, 4, 5].foldl (fun z k => z.step k (dirs.getD k 0)) u) := by
  unfold Lane.window
  rw [if_neg (by simp [Lane.runs, pActive, run, not_training stage])]
  simp only [pattern_rxcfg, Bool.not_eq_true']

/-- The eye register after a measurement, which it counts (R168). -/
def eyeShown (x : Lane) (h v : Nat) : Lane := { x with eye := w32 (h + v * 2 ^ 8 + (fld x.eye 16 16 + 1) % 65536 * 2 ^ 16) }

theorem eyeMeas_eq (run : x.rx = 0) (cfg : Word) {h v : Nat} (hh : h < 256) (hv : v < 256) (fine : x.on 7 = false)
    {low high : Bool} (hlow : (decide (h < fld cfg 0 8) || decide (v < fld cfg 8 8)) = low)
    (hhigh : (decide (fld cfg 0 8 < h) && decide (fld cfg 8 8 < v)) = high) :
    x.eyeMeas cfg h v =
      (let y := { eyeShown x h v with st := { x.st with
          low := if low then x.st.low + 1 else 0, high := if high then x.st.high + 1 else 0 } }
       if 2 ≤ (if low then x.st.low + 1 else 0) then (((y.setStat 7 true).stick 3).setStat 6 true, [1]) else (y, [])) := by
  unfold Lane.eyeMeas
  rw [if_neg (by simp [Lane.runs, pActive, run])]
  simp only [Nat.mod_eq_of_lt hh, Nat.mod_eq_of_lt hv, hlow, hhigh]
  exact if_neg fun h => Bool.noConfusion (fine.symm.trans h)

end

/-- Settles O25: each command reaches its lane, and what it makes of the lane is stated once per operation. -/
theorem laneLosses : Obligations.LaneLosses := by
  unfold Obligations.LaneLosses
  refine ⟨fun s l on run => ?_, fun s l on run => ?_⟩
  · intro x lost
    refine ⟨fun held => onLane_to on (declare_eq run held 0), fun held => onLane_to on (declare_eq run held 1),
      fun n held => onLane_to on ((lostBlock_eq run held n).trans (declare_eq (x := x.headers n) run held 1)),
      fun rows lat bad stage => ?_, fun n many clear => onLane_to on ?_, fun n many shown => onLane_to on ?_,
      fun n few shown => onLane_to on ?_⟩
    · intro a b y took z u
      exact onLaneLat_lock on (congrArg (·, []) (cleared_eq run bad stage rows (laneLat l lat)))
        fun w hw _ => relocked_cleared rows (laneLat l lat) hw
    · exact (if_neg (by simp [Lane.runs, pActive, run]; omega)).trans
        (if_neg fun h => Bool.noConfusion (clear.symm.trans h))
    · exact (if_neg (by simp [Lane.runs, pActive, run]; omega)).trans (if_pos shown)
    · exact congrArg (·, []) (berClear_eq run few shown)
  · intro x
    refine ⟨fun dens dirs errs stage => ?_, fun h v hh hv fine => ?_, onLane_to on rfl⟩
    · intro p y ok u
      refine onLane_to on (congrArg (·, []) ?_)
      rw [window_eq run stage, pattern_eq]
    · intro y
      refine ⟨fun hm vm => onLane_to on ?_, fun low twice => onLane_to on ?_⟩
      · have above : ¬ h < fld (s.eyeCfg l) 0 8 ∧ ¬ v < fld (s.eyeCfg l) 8 8 := by omega
        exact eyeMeas_eq run _ hh hv fine (low := false) (high := true) (by simp [above]) (by simp [hm, vm])
      · have under : ¬ fld (s.eyeCfg l) 0 8 < h := by omega
        exact (eyeMeas_eq run _ hh hv fine (low := true) (high := false) (by simp [low]) (by simp [under])).trans
          (if_pos (Nat.succ_le_succ twice))

/-! ### Power states (R177 to R181) -/

theorem laneTo_vp_nil (s : State) (n : Nat) (x : Lane) : s.laneTo (.vp n) x [] = s.after (peerSynced n (s.vp.setLane n x)) :=
  rfl

/-- An operation of the valve processor that is one on a lane in service, and finds no fault. -/
theorem onVpLane_to {s : State} {n a : Nat} (on : s.laneOn (.vp n) = true) {g : Vp → Vp} {f : Lane → Lane × List Nat}
    {x : Lane} (op : g s.vp = s.vp.laneOp n a f) (hf : f (s.vp.lane n) = (x, [])) :
    (.next (s.onVp g) : Host.Outcome State Fault Refusal) = .next (s.laneTo (.vp n) x []) := by
  simp only [State.laneOn, Bool.and_eq_true] at on
  obtain ⟨⟨run, here⟩, quad⟩ := on
  rw [laneTo_vp_nil]
  exact vp_runs run (op.trans ((laneOp_eq here quad hf).trans (congrArg (peerSynced n) (laneFaults_nil _ n a))))

section
variable {x : Lane}

theorem setRx_rx (n : Nat) (h : n < 4) : (x.setRx n).rx = n := by
  unfold Lane.rx Lane.setRx
  exact (fld_setFld_same _ (by decide) _).trans (Nat.mod_eq_of_lt h)

theorem rx_of_pwr {y : Lane} (h : x.pwr = y.pwr) : x.rx = y.rx := by
  unfold Lane.rx
  rw [h]

theorem rxRest_active {n : Nat} (h : x.rx = 0) (hn : n ≠ 0) : x.rxRest n = x.save.setRx n := by
  unfold Lane.rxRest
  rw [if_neg (by simp [h, pOff, hn.symm]), if_pos (by simp [h, pActive])]

theorem deep_active (h : x.rx = 0) (quiet : x.on 0 = false) : x.deep = x.save.setRx 2 := by
  unfold Lane.deep
  rw [if_pos (by simp [h, pActive, quiet])]
  exact rxRest_active h (by decide)

theorem rxRest_idle {n : Nat} (h : x.rx = 1) (hn : n ≠ 1) : x.rxRest n = x.setRx n := by
  unfold Lane.rxRest
  rw [if_neg (by simp [h, pOff, hn.symm]), if_neg (by simp [h, pActive])]

theorem deep_idle (h : x.rx = 1) (quiet : x.on 0 = false) : x.deep = x.setRx 2 := by
  unfold Lane.deep
  rw [if_pos (by simp [h, pIdle, quiet])]
  exact rxRest_idle h (by decide)

/-- The receiver that is Active again (R167). -/
theorem rxWake_eq (h : x.rx = 1 ∨ x.rx = 2) :
    x.rxWake = ((((x.setRx 0).restore).setStat 0 true).setStat 1 true).setStat 2 true := by
  unfold Lane.rxWake
  exact if_pos h

theorem rxWake_active (h : x.rx = 1 ∨ x.rx = 2) : x.rxWake.rx = 0 := by
  rw [rxWake_eq h]
  exact (rx_of_pwr rfl).trans (setRx_rx 0 (by decide))

theorem rxOff_eq (h : x.rx ≠ 3) : x.rxOff.rx = 3 ∧ x.rxOff.stat = x.stat &&& w32 0x800 := by
  unfold Lane.rxOff
  rw [if_neg (c := x.rx = pOff) h]
  exact ⟨(rx_of_pwr rfl).trans (setRx_rx 3 (by decide)), rfl⟩

theorem rxRest_rx {n : Nat} (hn : n < 4) (h : x.rx ≠ n) (on : x.rx ≠ 3) : (x.rxRest n).rx = n := by
  unfold Lane.rxRest
  rw [if_neg (by simp [h, pOff, on])]
  exact setRx_rx n hn

variable {v : Vp} {l : Nat}

theorem rxSync_off (req : x.rxReq = 3) : v.rxSync l x = x.rxOff := by
  unfold Vp.rxSync
  exact if_pos (.inl req)

theorem rxSync_deep (req : x.rxReq = 2) (h : x.rx ≠ 2) : (v.rxSync l x).rx = 2 := by
  unfold Vp.rxSync
  rw [if_neg (by simp [req, pOff, pActive]), if_pos (by simp [req, pDeep])]
  split
  · exact setRx_rx 2 (by decide)
  · next on => exact rxRest_rx (by decide) h on

theorem txSync_idle (req : x.txReq = 1) (h : x.tx ≠ 1) (quad : v.quadOk l = true) :
    v.txSync l x = (x.send 8 (v.idleTrain l 1)).setTx 1 := by
  unfold Vp.txSync
  rw [if_neg (by simp [req, pOff, pActive]), if_neg (by simp [req, pActive]), if_pos (by simp [req, pIdle]),
    if_neg (by simp [h, pIdle]), if_pos quad]
  rfl

theorem regRow_LANE_PWR (h : l < 40) : ∃ r, regRow (Reg.LANE_PWR l) = some r ∧ r.acc = .rws := by
  have all : ∀ i < 40, hasAcc (Reg.LANE_PWR i) .rws = true := by decide
  exact hasAcc_row (all l h)

theorem stateRefused_LANE_PWR (w : Word) (h : l < 40) : v.stateRefused (Reg.LANE_PWR l) w = v.lanePwrRefused l w := by
  have b : Reg.LANE_PWR l / 0x10000 % 16 = 7 := by unfold Reg.LANE_PWR; omega
  have o : Reg.LANE_PWR l % 0x10000 = 0x1024 + l * 0x100 := by unfold Reg.LANE_PWR; omega
  have lane : (0x1024 + l * 0x100 - 0x1000) / 0x100 = l := by omega
  have word : (0x1024 + l * 0x100) % 0x100 = 0x24 := by omega
  unfold Vp.stateRefused
  simp only [b, o]
  unfold Vp.laneRefused
  rw [if_neg (by omega)]
  simp only [lane, word]

theorem cfgRefused_LANE_PWR (h : l < 40) : v.cfgRefused (Reg.LANE_PWR l) = v.setBit (Reg.LANE_STICKY l) 8 true := by
  have b : Reg.LANE_PWR l / 0x10000 % 16 = 7 := by unfold Reg.LANE_PWR; omega
  have o : Reg.LANE_PWR l % 0x10000 = 0x1024 + l * 0x100 := by unfold Reg.LANE_PWR; omega
  have flag : refusedFlag (Reg.LANE_PWR l) = some (Reg.LANE_STICKY l, 8) := by
    unfold refusedFlag
    simp only [b, o]
    rw [if_pos (by omega), show (0x1024 + l * 0x100 - 0x1000) / 0x100 = l by omega]
  unfold Vp.cfgRefused
  rw [flag]

theorem accepts_allowed {m a : Nat} {w : Word} (h : v.accepts m a w = true) : v.stateRefused a w = false := by
  unfold Vp.accepts at h
  simp only [Bool.and_eq_true, Bool.not_eq_true'] at h
  exact h.2

theorem lanePwr_allowed {w : Word} (h : v.lanePwrRefused l w = false) :
    v.lanePwr l w = (v.setFld (Reg.LANE_PWR l) 0 4 (fld w 0 4)).laneSync l := by
  unfold Vp.lanePwr
  exact if_neg (by simp [h])

end

/-- Settles O26: what each command finds in the lane decides what it makes of it. -/
theorem lanePower : Obligations.LanePower := by
  unfold Obligations.LanePower
  refine ⟨fun s l on => ?_, fun s m l w run hl => ?_⟩
  · intro x woken
    refine ⟨fun act quiet => onLane_to on (congrArg (·, []) (deep_active act quiet)),
      fun idle quiet => onLane_to on (congrArg (·, []) (deep_idle idle quiet)), fun lat rest req => ?_, fun n hn => ?_⟩
    · have wakes := rxWake_active (x := x) (.inr rest)
      have made : x.sigReturn (laneLat l lat) = { woken with lat := laneLat l lat } := by
        unfold Lane.sigReturn
        rw [if_pos ⟨rest, req⟩, rxWake_eq (.inr rest)]
        rfl
      refine onLaneLat_lock (took := Lane.woke) (f := fun lat x => (x.sigReturn lat, [])) on (congrArg (·, []) made)
        fun z _ hp => ?_
      have act : z.rx = 0 := by
        rw [← wakes, rxWake_eq (.inr rest)]
        exact rx_of_pwr hp
      unfold Lane.woke
      change (x.rx == pDeep && z.rx == pActive) = true
      rw [rest, act]
      rfl
    · subst hn
      refine ⟨fun act stage => ?_, fun stage idle => ?_, fun idle req => ?_, fun idle req => ?_, fun idle => ?_⟩
      · exact onVpLane_to (g := fun v => v.idleBurst n true 1) on rfl
          ((if_pos rfl).trans (congrArg (·, []) ((if_pos ⟨rfl, act, congrArg (!·) (not_training stage)⟩).trans
            (rxRest_active act (by decide)))))
      · exact onVpLane_to (g := fun v => v.idleBurst n false stage) on rfl
          ((if_neg (by decide)).trans (if_pos idle))
      · exact onVpLane_to (g := fun v => v.idleExit n true) on rfl
          ((if_pos rfl).trans (congrArg (·, []) ((if_pos ⟨idle, req⟩).trans (rxWake_eq (.inl idle)))))
      · exact onVpLane_to (g := fun v => v.idleExit n false) on rfl
          ((if_neg (by decide)).trans (if_pos ⟨idle, req⟩))
      · exact onLane_to on (if_neg fun h => h idle)
  · refine ⟨fun ok => ?_, fun x req on => ?_, fun x req up => rxSync_deep req up,
      fun x req up quad => txSync_idle req up quad, fun acts isOpen before on bad => ?_⟩
    · have allowed : s.vp.lanePwrRefused l w = false := (stateRefused_LANE_PWR w hl).symm.trans (accepts_allowed ok)
      refine vp_runs run (f := fun v => v.coreWrite m (Reg.LANE_PWR l) w) ?_
      rw [Vp.coreWrite_accepts ok, Vp.written_LANE_PWR _ _ _ hl, lanePwr_allowed allowed]
    · rw [rxSync_off req]
      exact rxOff_eq on
    · obtain ⟨r, row, acc⟩ := regRow_LANE_PWR hl
      refine vp_runs run (f := fun v => v.coreWrite m (Reg.LANE_PWR l) w) ?_
      rw [coreWrite_refused acts (region_block m (by unfold Reg.LANE_PWR; omega) (by unfold Reg.LANE_PWR; omega))
        (by unfold Reg.LANE_PWR; omega) on before isOpen row acc ((stateRefused_LANE_PWR w hl).trans bad), cfgRefused_LANE_PWR hl]

/-! ### Stages of training (R171 to R176) -/

section
variable {x : Lane} {hop : Bool} {c0 c1 lat : Word}

theorem stageDone_signal (on : x.rx ≠ 3) (h : x.trn = 1) : x.stageDone hop false c0 c1 lat =
    { (((x.setStat 0 true).setStat 1 true).setTrn 2).setRx 0 with st := { x.st with back5 := false } } := by
  unfold Lane.stageDone
  rw [if_neg (by simpa [pOff] using on), if_neg (by decide)]
  simp only [h]
  exact rfl

theorem stageDone_lock (on : x.rx ≠ 3) (h : x.trn = 2) :
    x.stageDone hop false c0 c1 lat = { (x.setStat 2 true).setTrn 3 with lat := lat } := by
  unfold Lane.stageDone
  rw [if_neg (by simpa [pOff] using on), if_neg (by decide)]
  simp only [h]

theorem stageDone_adapt (on : x.rx ≠ 3) (h : x.trn = 3) : x.stageDone hop false c0 c1 lat =
    { x.setTrn (if hop then 4 else 5) with
      coef0 := if bit x.rxcfg 1 then setFld (c0 &&& w32 0x3F3F3F1F) 0 5 (fld x.rxcfg 2 5) else c0 &&& w32 0x3F3F3F1F
      coef1 := c1 &&& w32 0x3F3F, st := { x.st with trained := !hop } } := by
  unfold Lane.stageDone
  rw [if_neg (by simpa [pOff] using on), if_neg (by decide)]
  simp only [h]

theorem toSignal_eq (h : 2 ≤ x.trn ∧ x.trn ≤ 5) :
    x.toSignal = { x.setTrn 1 with st := { x.st with back5 := x.trn == 5 } } := by
  unfold Lane.toSignal
  exact if_pos h

theorem stageDone_lost (on : x.rx ≠ 3) (h : 2 ≤ x.trn ∧ x.trn ≤ 5) :
    x.stageDone hop true c0 c1 lat = (x.toSignal.setStat 1 false).setStat 2 false := by
  unfold Lane.stageDone
  rw [if_neg (by simpa [pOff] using on), if_pos rfl, if_pos h]

end

/-- A stage of a lane in service ends as its lane makes it. -/
theorem vpStageDone_to {s : State} {l : Nat} (on : s.laneOn (.vp l) = true) {lost : Bool} {c0 c1 lat : Word} {y : Lane}
    (hy : (s.vp.lane l).stageDone (decide (l < 32)) lost c0 c1 (vpLat l lat) = y) :
    exec (.trainStageDone (.vp l) lost c0 c1 lat) s = .next (s.after
      (let v := peerSynced l (s.vp.setLane l y)
       if l < 32 ∧ (v.lane l).training = true then v.hopTrain (l / 2) (l % 2 == 0) 1 (v.rxReady (l / 2) (l % 2 == 0)) false
       else v)) := by
  simp only [State.laneOn, Bool.and_eq_true] at on
  obtain ⟨⟨run, here⟩, quad⟩ := on
  refine vp_runs run (f := fun v => v.stageDone l lost c0 c1 lat) ?_
  unfold Vp.stageDone
  rw [laneOp_eq here quad (congrArg (·, []) hy), laneFaults_nil]

section
variable {c : Cell} {i : Nat}

/-- The signal stage of a cell's lane ends: no lock is lost by it. -/
theorem cellSignal_onLane (hi : i < 2) {f : Lane → Lane × List Nat} {y : Lane} (hf : (f (c.lane i)).1 = y)
    (keeps : (c.lane i).good = true → y.good = true) : c.onLane i f = (c.setLane i y).sync := by
  have good : ((c.setLane i y).lane i).good = y.good := by
    have same (k : Nat) : ((c.setLane i y).lane i).on k = y.on k := on_of_stat (setLane_stat hi y) k
    unfold Lane.good
    rw [same, same, same]
  unfold Cell.onLane
  simp only [Nat.mod_eq_of_lt hi, hf]
  rw [if_neg]
  simp only [Bool.and_eq_true, Bool.not_eq_true', not_and, Bool.not_eq_false]
  exact fun was => good.trans (keeps was)

theorem cellStageDone_signal (hi : i < 2) (h : (c.lane i).trn = 1) {c0 c1 : Word} {ps : Nat} {y : Lane}
    (hy : ∀ lat, (c.lane i).stageDone true false c0 c1 lat = y) (keeps : (c.lane i).good = true → y.good = true)
    (trains : (((c.setLane i y).sync).lane i).training = true) :
    c.stageDone i false c0 c1 ps = (((c.setLane i y).sync).sendTrain (i == 1) 1 false).sync := by
  have op := cellSignal_onLane (f := fun x => (x.stageDone true false c0 c1 (cellLat ps), [])) hi (hy _) keeps
  have latched : c.onLaneLat i ps (fun x y => x.trn == 2 && y.trn == 3) (fun lat x => (x.stageDone true false c0 c1 lat, []))
      = (c.setLane i y).sync := by
    unfold Cell.onLaneLat
    simp only [Nat.mod_eq_of_lt hi, op]
    exact if_neg (by simp [h])
  unfold Cell.stageDone
  simp only [Nat.mod_eq_of_lt hi, latched]
  exact if_pos trains

end

theorem setStat_on_same (x : Lane) {k : Nat} (h : k < 32) (b : Bool) : (x.setStat k b).on k = b := by
  unfold Lane.on Lane.setStat
  rw [bit_eq_fld, fld_setFld_same _ (by omega)]
  cases b <;> rfl

theorem setStat_on_above (x : Lane) {k i : Nat} (h : i < k) (hk : k < 32) (b : Bool) : (x.setStat i b).on k = x.on k := by
  unfold Lane.on Lane.setStat
  rw [bit_eq_fld, bit_eq_fld, fld_setFld_above _ (by omega) _ (by omega)]

theorem signal_good {x y : Lane} (h : y.stat = (((x.setStat 0 true).setStat 1 true).setTrn 2).stat) (good : x.good = true) :
    y.good = true := by
  have on {k : Nat} (hk : k < 8) : y.on k = ((x.setStat 0 true).setStat 1 true).on k :=
    (on_of_stat h k).trans (setTrn_on _ 2 hk)
  have signal : ((x.setStat 0 true).setStat 1 true).on 0 = true := by
    unfold Lane.on Lane.setStat
    rw [bit_eq_fld, fld_setFld_below _ (by decide) _ (by decide), ← bit_eq_fld]
    exact setStat_on_same x (by decide) true
  unfold Lane.good at good ⊢
  simp only [Bool.and_eq_true] at good
  rw [on (by decide), on (by decide), on (by decide), signal, setStat_on_same _ (by decide),
    setStat_on_above _ (by decide) (by decide), setStat_on_above _ (by decide) (by decide), good.2]
  rfl

/-! ### Alignment markers of the peer bundle (R183, R184) -/

section
variable {v : Vp} {i c sk : Nat}

theorem dskIn_one (hi : i < 4) (up : v.bundleUp i = true) (good : crc8Ok c = true) (lane : c % 4 = i) (near : sk ≤ 32) :
    v.dskIn [(i, c, sk)] =
      (let u := { v with lanes := { v.lanes with aligned := putBit 0 i true } }
       ((u.setFld Reg.LANE_PEER_STAT 4 4 (c / 2 ^ 6 % 16)).setFld Reg.LANE_PEER_STAT 8 8 sk).setBit Reg.LANE_PEER_STAT 16
        (c / 2 ^ 2 % 16 &&& putBit 0 i true == c / 2 ^ 2 % 16)) := by
  have taken : [(i, c, sk)].filter (fun m => decide (m.1 < 4) && v.bundleUp m.1 && crc8Ok m.2.1 && m.2.1 % 4 == m.1)
      = [(i, c, sk)] := by simp [hi, up, good, lane]
  unfold Vp.dskIn
  rw [taken]
  have far : ¬ 32 < sk := by omega
  have byte : min sk 255 = sk := by omega
  simp [near, far, byte]

end

/-- Settles O27: a stage is what it makes of its lane; a marker sent or received is the model's own step. -/
theorem laneStages : Obligations.LaneStages := by
  unfold Obligations.LaneStages
  refine ⟨⟨fun s l c0 c1 lat on here => ?_, fun s k i c0 c1 lat run hi here first => ?_⟩, fun s run quad => ?_,
    fun s run quad => ?_, fun s i c sk run hi up good lane near => ?_⟩
  · intro x c0' done
    refine ⟨fun h => vpStageDone_to on (stageDone_signal here h), fun h => vpStageDone_to on (stageDone_lock here h),
      fun h => vpStageDone_to on ?_, fun h1 h2 => ?_⟩
    · rw [stageDone_adapt here h]
      simp only [decide_eq_true_eq, ← decide_not, Nat.not_lt]
      rfl
    · exact vpStageDone_to on ((stageDone_lost here ⟨h1, h2⟩).trans
        (congrArg (fun z : Lane => (z.setStat 1 false).setStat 2 false) (toSignal_eq ⟨h1, h2⟩)))
  · intro x c trains
    refine cell_runs run (f := fun c => c.stageDone i false c0 c1 lat.toNat) ?_
    exact cellStageDone_signal hi first (fun lat => stageDone_signal here first) (signal_good rfl) trains
  · intro v part act ok count new u
    exact vp_runs run (f := fun v => v.dskSend) (if_neg (by simp [quad]))
  · exact vp_runs run (f := fun v => v.dskSend) (if_pos (by simp [quad]))
  · exact vp_runs run (f := fun v => v.dskIn [(i, c, sk)]) (dskIn_one hi up good lane near)

end Sys2Proof.Proofs

end

section
/-!
PROOFS. The training of hops (O28): what a hop's state and an end at a cell or at the valve processor take from it.
-/

namespace Sys2Proof.Proofs

open Sys2Proof Sys2Proof.Machine

section
variable (v : Vp) (m h : Nat)

theorem hop_updHop_same (f : HopSt → HopSt) : (v.updHop m h f).hop m h = f (v.hop m h) := by
  unfold Vp.hop Vp.updHop Vp.updRing
  rw [Vp.ring_setRing_same]
  exact sget_sset_same _ _ h _

theorem rings_setLane (l : Nat) (x : Lane) : (v.setLane l x).rings = v.rings := rfl

theorem hop_of_rings {u : Vp} (h' : u.rings = v.rings) : u.hop m h = v.hop m h := by
  unfold Vp.hop Vp.ring
  rw [h']

theorem rings_hopTrain (far : Bool) (n : Nat) (rdy done : Bool) : (v.hopTrain m far n rdy done).rings = v.rings := by
  unfold Vp.hopTrain
  dsimp only
  split <;> rfl

/-! ### What waits within the valve processor -/

theorem calm_congr {u : Vp} (inbox : u.inbox = v.inbox) (host : u.host = v.host) (up : u.up = v.up)
    (stat : ∀ p < 4, u.reg (Reg.HOST_P_MSG_STAT p) = v.reg (Reg.HOST_P_MSG_STAT p))
    (cfg : u.reg Reg.PEER_CFG = v.reg Reg.PEER_CFG) (peer : u.reg Reg.PEER_STAT = v.reg Reg.PEER_STAT) : u.calm = v.calm := by
  have port (p : Nat) : u.port p = v.port p := by unfold Vp.port; rw [host]
  have asked (p : Nat) : u.tokenAsked p = v.tokenAsked p := by
    unfold Vp.tokenAsked Vp.pairMode Vp.isB Vp.paired Vp.bit
    rw [cfg, peer, port]
  unfold Vp.calm
  rw [inbox, up]
  congr 1
  refine Bool.eq_iff_iff.mpr ?_
  simp only [List.all_eq_true]
  refine forall₂_congr fun p hp => ?_
  have hp : p < 4 := List.mem_range.mp hp
  rw [port, asked]
  unfold Vp.bit
  rw [stat p hp]

theorem calm_updHop (f : HopSt → HopSt) : (v.updHop m h f).calm = v.calm :=
  calm_congr v rfl rfl rfl (fun _ _ => rfl) rfl rfl

theorem calm_setReg {a : Nat} (ring : a < 0x100B0000) (w : Word) : (v.setReg a w).calm = v.calm :=
  calm_congr v rfl rfl rfl (fun p _ => Vp.reg_setReg_other v w (by unfold Reg.HOST_P_MSG_STAT; omega))
    (Vp.reg_setReg_other v w (by unfold Reg.PEER_CFG; omega)) (Vp.reg_setReg_other v w (by unfold Reg.PEER_STAT; omega))

/-! ### Ends at the valve processor -/

/-- The registers of a lane that operations on it set lie above its configuration and within the block. -/
theorem setLane_reg {a l : Nat} (x : Lane) (hl : l < 40) (ha : a < 0x10071008 ∨ 0x10080000 ≤ a ∨ a = Reg.LANE_CFG l) :
    (v.setLane l x).reg a = v.reg a := by
  have step (u : Vp) {b : Nat} (w : Word) (hb : 0x10071008 + l * 0x100 ≤ b ∧ b < 0x10080000) : (u.setReg b w).reg a = u.reg a :=
    Vp.reg_setReg_other u w (by unfold Reg.LANE_CFG at ha; omega)
  change (Vp.setReg _ _ _).reg a = _
  rw [step _ _ (by unfold Reg.LANE_PRBS_CNT; omega), step _ _ (by unfold Reg.LANE_LOS_CNT; omega),
    step _ _ (by unfold Reg.LANE_HDR_CNT; omega), step _ _ (by unfold Reg.LANE_STICKY; omega),
    step _ _ (by unfold Reg.LANE_LAT; omega), step _ _ (by unfold Reg.LANE_PWR; omega),
    step _ _ (by unfold Reg.LANE_EYE; omega), step _ _ (by unfold Reg.LANE_STORE1; omega),
    step _ _ (by unfold Reg.LANE_STORE0; omega), step _ _ (by unfold Reg.LANE_COEF1; omega),
    step _ _ (by unfold Reg.LANE_COEF0; omega), step _ _ (by unfold Reg.LANE_STAT; omega)]

theorem laneEn_setLane {l : Nat} (x : Lane) (hl : l < 40) : (v.setLane l x).laneEn l = v.laneEn l := by
  have reg {a : Nat} (ha : a < 0x10071008 ∨ 0x10080000 ≤ a ∨ a = Reg.LANE_CFG l) := setLane_reg v x hl ha
  unfold Vp.laneEn Vp.laneHere Vp.owns Vp.isB Vp.paired Vp.inBundle Vp.bit
  rw [reg (a := Reg.SYS_PWR_STAT) (.inl (by decide)), reg (a := Reg.RING_EN) (.inl (by decide)),
    reg (a := Reg.PEER_CFG) (.inr (.inl (by decide))),
    reg (a := Reg.PEER_STAT) (.inr (.inl (by decide))), reg (a := Reg.LANE_PEER_CFG) (.inl (by decide)),
    reg (.inr (.inr rfl)),
    reg (a := Reg.HOST_P_CFG (l - 32)) (.inr (.inl (by unfold Reg.HOST_P_CFG; omega)))]
  rfl

variable {v}

theorem lane_of_laneEn {l : Nat} (en : v.laneEn l = true) : l < 40 := by
  unfold Vp.laneEn Vp.laneHere at en
  simp only [Bool.and_eq_true, decide_eq_true_eq] at en
  exact en.1.1.1.1

theorem endHere_near : v.endHere m 0 false = true := rfl

variable {m h}

theorem endHere_cell (far : Bool) (pos : 0 < h) (inner : h < v.ncell m) : v.endHere m h far = false := by
  unfold Vp.endHere
  cases far
  · simp; omega
  · simp; omega

/-- An end at a cell starts: the hop's state says so. -/
theorem hopStart_cell (far : Bool) (may : v.mayTrain m = true) (pos : 0 < h) (inner : h < v.ncell m) (up : v.ringSt m ≠ 0) :
    v.hopStart m h far = v.updHop m h (fun x => { x with started := true }) := by
  have away : (v.updHop m h (fun x => { x with started := true })).endHere m h far = false := endHere_cell far pos inner
  unfold Vp.hopStart
  rw [if_neg (by simp [may]; omega)]
  dsimp only
  rw [if_neg (c := (v.updHop m h _).ringSt m = 0) up, away]
  rfl

theorem hopStart_vp (may : v.mayTrain m = true) (up : v.ringSt m ≠ 0) (en : v.laneEn (2 * m + 1) = true)
    (quad : v.quadOk (2 * m + 1) = true) : v.hopStart m 0 false =
      (let u := v.updHop m 0 (fun x => { x with started := true })
       let u := u.setLane (2 * m + 1) (u.lane (2 * m + 1)).trainStart
       u.hopTrain m false 1 (u.rxReady m false) false) := by
  have lock : (v.updHop m 0 (fun x => { x with started := true })).quadOk (2 * m + 1) = true := quad
  have here : (v.updHop m 0 (fun x => { x with started := true })).laneEn (2 * m + 1) = true := en
  unfold Vp.hopStart
  rw [if_neg (by simp [may])]
  dsimp only
  rw [if_neg (c := (v.updHop m 0 _).ringSt m = 0) up, if_pos (endHere_near m)]
  have lane : (vpEnd m false).2 = 2 * m + 1 := rfl
  rw [lane, here, lock, Bool.and_true, if_pos rfl, laneEn_setLane _ _ (lane_of_laneEn here), here, Bool.true_and]

/-- A block that an end of the valve processor takes confirms it. -/
theorem hopConfirm_vp (may : v.mayTrain m = true) (en : v.laneEn (2 * m + 1) = true) (quad : v.quadOk (2 * m + 1) = true)
    {blk : Nat} (stage : (v.lane (2 * m + 1)).trn = 4) (rdy : blk.testBit 2 = true) (crc : crc8Ok blk = true)
    (good : trainOk blk true true (some (m, v.chip)) = true) (whole : (v.hop m 0).broken = false) (ok : Bool) :
    v.hopConfirm m 0 false blk ok = ((v.setLane (2 * m + 1) (v.lane (2 * m + 1)).confirmed).hopTrain m false 16 true true).updHop
      m 0 (fun x => { x with near := true }) := by
  have lane : (vpEnd m false).2 = 2 * m + 1 := rfl
  have odd : ((2 * m + 1) % 2 == 1) = true := by simp
  unfold Vp.hopConfirm
  rw [if_neg (by simp [may]), lane]
  dsimp only
  rw [en, endHere_near, odd, if_neg (by simp [crc]), if_neg (by simp [stage, rdy, quad]), if_neg (by simp [good]), if_neg (by simp)]
  simp only [Bool.and_self, Bool.false_eq_true, if_true, if_false]
  refine if_neg fun hb => ?_
  have kept : ((v.setLane (2 * m + 1) (v.lane (2 * m + 1)).confirmed).hopTrain m false 16 true true).hop m 0 = v.hop m 0 :=
    hop_of_rings v m 0 ((rings_hopTrain _ m _ _ _ _).trans (rings_setLane v _ _))
  rw [hop_updHop_same, kept] at hb
  exact Bool.noConfusion (whole.symm.trans hb.1)

theorem hopConfirm_crc (may : v.mayTrain m = true) (en : v.laneEn (2 * m + 1) = true) {blk : Nat} (crc : crc8Ok blk = false)
    (ok : Bool) : v.hopConfirm m 0 false blk ok = v.addFld (Reg.RING_CRC_CNT m) 0 16 1 := by
  have lane : (vpEnd m false).2 = 2 * m + 1 := rfl
  unfold Vp.hopConfirm
  rw [if_neg (by simp [may]), lane]
  dsimp only
  rw [en, endHere_near]
  exact if_pos (by simp [crc])

theorem hopConfirm_miswired (may : v.mayTrain m = true) (en : v.laneEn (2 * m + 1) = true)
    (quad : v.quadOk (2 * m + 1) = true) {blk : Nat} (stage : (v.lane (2 * m + 1)).trn = 4) (rdy : blk.testBit 2 = true)
    (crc : crc8Ok blk = true) (bad : trainOk blk true true (some (m, v.chip)) = false) (ok : Bool) :
    v.hopConfirm m 0 false blk ok = (v.setLane (2 * m + 1) ((v.lane (2 * m + 1)).stick 6)).laneFaults (2 * m + 1) [fWire]
      (Reg.LANE_STICKY (2 * m + 1)) := by
  have lane : (vpEnd m false).2 = 2 * m + 1 := rfl
  have odd : ((2 * m + 1) % 2 == 1) = true := by simp
  unfold Vp.hopConfirm
  rw [if_neg (by simp [may]), lane]
  dsimp only
  rw [en, endHere_near, odd, if_neg (by simp [crc]), if_neg (by simp [stage, rdy, quad])]
  exact if_pos (by simp [bad])

/-- An end at a cell that has confirmed shows in the hop's state. -/
theorem hopConfirm_cell (may : v.mayTrain m = true) (pos : 0 < h) (inner : h < v.ncell m) (whole : (v.hop m h).broken = false)
    (blk : Nat) : v.hopConfirm m h false blk true = v.updHop m h (fun x => { x with near := true }) := by
  unfold Vp.hopConfirm
  rw [if_neg (by simp [may]; omega), endHere_cell false pos inner]
  simp only [Bool.false_and, Bool.not_false, Bool.true_and, Bool.not_true, Bool.false_eq_true, if_false]
  refine if_neg fun hb => ?_
  rw [hop_updHop_same] at hb
  exact Bool.noConfusion (whole.symm.trans hb.1)

/-- The state of a hop between two cells that was not trained in time. -/
def hopGivenUp (v : Vp) (m h : Nat) : Vp :=
  let wait := v.nextWait (v.hop m h)
  let u := v.updHop m h (fun x => { x with started := false, near := false, far := false, broken := true, wait := wait })
  (u.setFld (Reg.RING_RETRY m) 16 16 wait).setBit (Reg.RING_STICKY m) 0 true

theorem hopGivenUp_ncell : (hopGivenUp v m h).ncell m = v.ncell m := by
  unfold Vp.ncell Vp.fld
  exact congrArg (Machine.fld · 0 9) ((Vp.reg_setReg_other _ _ (by unfold Reg.RING_CFG Reg.RING_STICKY; omega)).trans
    (Vp.reg_setReg_other _ _ (by unfold Reg.RING_CFG Reg.RING_RETRY; omega)))

theorem hopTimeout_cells (may : v.mayTrain m = true) (pos : 0 < h) (inner : h < v.ncell m)
    (started : (v.hop m h).started = true) (untrained : (v.hop m h).trained = false) : v.hopTimeout m h = hopGivenUp v m h := by
  unfold Vp.hopTimeout
  dsimp only
  rw [if_neg (by simp [may, started, untrained]; omega)]
  have away (far : Bool) : (hopGivenUp v m h).endHere m h far = false := endHere_cell far pos (by rwa [hopGivenUp_ncell])
  change [false, true].foldl _ (hopGivenUp v m h) = _
  simp only [List.foldl_cons, List.foldl_nil, away, Bool.false_eq_true, if_false]

theorem hopGivenUp_started : ((hopGivenUp v m h).hop m h).started = false := by
  have same : (hopGivenUp v m h).hop m h = (v.updHop m h (fun x => { x with
      started := false, near := false, far := false, broken := true, wait := v.nextWait (v.hop m h) })).hop m h := rfl
  rw [same, hop_updHop_same]

theorem hopGivenUp_calm (hm : m < 16) : (hopGivenUp v m h).calm = v.calm :=
  (calm_setReg _ (by unfold Reg.RING_STICKY; omega) _).trans
    ((calm_setReg _ (by unfold Reg.RING_RETRY; omega) _).trans (calm_updHop _ _ _ _))

end

/-- The valve processor becomes `u`, in which nothing waits. -/
theorem onVp_calm {s : State} (run : s.vp.runs = true) {f : Vp → Vp} {u : Vp} (hf : f s.vp = u) (calm : u.calm = true) :
    s.onVp f = { s with vp := u } := by
  rw [State.onVp_after run, hf]
  unfold State.after
  rw [Vp.settle_calm calm]

theorem onCell_with {s : State} {c : CellRef} (runs : (s.cell c).clamped = false) (u : Vp) (f : Cell → Cell) :
    ({ s with vp := u }).onCell c f = ({ s with vp := u }).setCell c (f (s.cell c)) :=
  State.onCell_runs (s := { s with vp := u }) runs f

theorem cellEnd_near (v : Vp) {m h : Nat} (pos : 0 < h) : v.cellEnd m h false = some (⟨m, h - 1⟩, true) := by
  unfold Vp.cellEnd
  rw [if_neg (by decide), if_neg (by omega)]

theorem cellEnd_far (v : Vp) {m h : Nat} (inner : h < v.ncell m) : v.cellEnd m h true = some (⟨m, h⟩, false) := by
  unfold Vp.cellEnd
  rw [if_pos rfl, if_pos inner]

/-- Settles O28: at an end in a cell the valve processor keeps the hop's state and the cell acts; at its own end it does both. -/
theorem hops : Obligations.Hops := by
  unfold Obligations.Hops
  refine ⟨fun s m h run calm may pos inner hm => ?_, fun s m run may up en quad => ?_⟩
  · intro v near far nearRuns farRuns
    have updCalm (f : HopSt → HopSt) : (s.vp.updHop m h f).calm = true := (calm_updHop _ _ _ f).trans calm
    refine ⟨fun up => ⟨?_, ?_⟩, fun blk takes good whole => ?_, fun started untrained => ?_⟩
    · refine congrArg Host.Outcome.next ?_
      unfold State.hopStart
      rw [onVp_calm run (hopStart_cell false may pos inner up) (updCalm _), cellEnd_near _ pos]
      exact onCell_with nearRuns _ _
    · refine congrArg Host.Outcome.next ?_
      unfold State.hopStart
      rw [onVp_calm run (hopStart_cell true may pos inner up) (updCalm _), cellEnd_far _ inner]
      exact onCell_with farRuns _ _
    · refine congrArg Host.Outcome.next ?_
      unfold State.hopConfirm
      rw [cellEnd_near _ pos]
      have ok : (!(s.cell near).clamped && (s.cell near).takesTrain true blk && (s.cell near).trainGood true blk) = true := by
        simp [nearRuns, takes, good]
      dsimp only
      rw [ok, State.onCell_runs nearRuns]
      exact onVp_calm (s := s.setCell near _) run (hopConfirm_cell may pos inner whole blk) (updCalm _)
    · intro wait u
      refine congrArg Host.Outcome.next ?_
      unfold State.hopTimeout
      rw [onVp_calm run (hopTimeout_cells may pos inner started untrained) ((hopGivenUp_calm hm).trans calm)]
      dsimp only
      rw [if_pos (by rw [started, hopGivenUp_started]; rfl)]
      simp only [List.foldl_cons, List.foldl_nil, cellEnd_near _ pos, cellEnd_far _ inner]
      have apart : cellKey far ≠ cellKey near := by simp only [cellKey, far, near]; omega
      have same : ({ s with vp := hopGivenUp s.vp m h }.setCell near ((s.cell near).hopBroken true)).cell far = s.cell far :=
        sget_sset_other _ _ _ apart
      change ((State.onCell _ near _).onCell far _) = _
      rw [onCell_with nearRuns]
      rw [State.onCell_runs (c := far) (by exact (congrArg Cell.clamped same).trans farRuns)]
      rw [same]
      rfl
  · intro v r u u'
    refine ⟨vp_runs run (f := fun v => v.hopStart m 0 false) (hopStart_vp may up en quad), fun blk stage rdy crc good whole =>
      vp_runs run (f := fun v => v.hopConfirm m 0 false blk (v.paired && blk.testBit 3))
        (hopConfirm_vp may en quad stage rdy crc good whole _), fun blk crc =>
      vp_runs run (f := fun v => v.hopConfirm m 0 false blk (v.paired && blk.testBit 3)) (hopConfirm_crc may en crc _),
      fun blk stage rdy crc bad =>
      vp_runs run (f := fun v => v.hopConfirm m 0 false blk (v.paired && blk.testBit 3))
        (hopConfirm_miswired may en quad stage rdy crc bad _)⟩

end Sys2Proof.Proofs

end

section
/-!
PROOFS. The sources of time (O29): a measurement of the selected source, pulses, and a source that stops.
-/

namespace Sys2Proof.Proofs

open Sys2Proof Sys2Proof.Machine

section
variable (v : Vp)

/-- A measurement of a source has come: its offset shows, and its run within the window goes on or begins again. -/
def measured (src : Nat) (th : Int) (run : Nat) : Vp :=
  let u := v.setReg (ofsReg src) (satW th)
  { u with time := { u.time with alive := sset (fun _ => false) u.time.alive src true
                                 run := sset (fun _ => 0) u.time.run src run } }

variable {v}

theorem measured_state (src : Nat) (th : Int) (run : Nat) : (measured v src th run).reg Reg.TIME_STATE = v.reg Reg.TIME_STATE :=
  Vp.reg_setReg_other v _ (by unfold ofsReg; split <;> [decide; (split <;> decide)])

theorem measured_src (src : Nat) (th : Int) (run : Nat) : (measured v src th run).timeSrc = v.timeSrc :=
  congrArg (fld · 4 2) (measured_state src th run)

theorem measured_timeState (src : Nat) (th : Int) (run : Nat) : (measured v src th run).timeState = v.timeState :=
  congrArg (fld · 0 3) (measured_state src th run)

/-- No source reverts to itself. -/
theorem reverts_self {src : Nat} (h : v.timeSrc = src) : v.reverts src = false := by
  unfold Vp.reverts
  rw [h]
  simp

/-- What a measurement does, in its order: it is shown and counted, a source may be selected, and the one selected uses it. -/
theorem measure_eq (src : Nat) (th : Int) : v.measure src th false =
    (let u := measured v src th (if th.natAbs ≤ v.win src then sget (fun _ => 0) v.time.run src + 1 else 0)
     let w := if u.timeSrc = 3 then u.selectSrc u.bestSrc else if u.reverts src = true then u.selectSrc src else u
     if w.timeSrc = src then
       let x := if w.timeState = 0 then w.enterState 1 else w
       if th.natAbs ≤ v.win src then x.useMeas src th else if x.timeState = 1 then x.acquireStep th else x.anomaly src th
     else if !decide (th.natAbs ≤ v.win src) && decide (2 ≤ w.timeState) then w.anomaly src th
     else w) := by
  unfold Vp.measure
  simp only [Bool.not_false, Bool.and_true, decide_eq_true_eq]
  exact rfl

/-- A measurement of the source that is selected is used, or starts a step, or is an anomaly. -/
theorem measure_selected {src : Nat} {th : Int} (sel : v.timeSrc = src) (known : src < 3) (set : v.timeState ≠ 0) :
    v.measure src th false =
      (let u := measured v src th (if th.natAbs ≤ v.win src then sget (fun _ => 0) v.time.run src + 1 else 0)
       if th.natAbs ≤ v.win src then u.useMeas src th
       else if v.timeState = 1 then u.acquireStep th
       else u.anomaly src th) := by
  rw [measure_eq]
  generalize (if th.natAbs ≤ v.win src then sget (fun _ => 0) v.time.run src + 1 else 0) = run
  have src' := (measured_src src th run).trans sel
  dsimp only
  rw [if_neg (c := (measured v src th run).timeSrc = 3) (by omega), reverts_self src', if_neg (c := false = true) (by decide), if_pos src',
    if_neg (c := (measured v src th run).timeState = 0) (by rw [measured_timeState]; exact set), measured_timeState]

theorem ppsEdge_late (on : v.bit Reg.TIME_PPS_CFG 0 = true) (stamp : Nat) {gap : Nat} (late : 1000 ≤ gap) :
    v.ppsEdge stamp gap =
      (let x := ((stamp : Int) - sgn 32 (v.reg Reg.TIME_PPS_IN_DLY).toNat) % 16000000000
       { v with time := { v.time with
          ppsHeld := some (if 8000000000 < x then (x - 16000000000) * 16 else x * 16), ppsAbsent := false } }) := by
  unfold Vp.ppsEdge
  rw [if_neg (by simp [on])]
  dsimp only
  rw [if_neg (by omega), if_neg (by omega)]

theorem ppsDeliver_held {th : Int} (held : v.time.ppsHeld = some th) :
    v.ppsDeliver = ({ v with time := { v.time with ppsHeld := none } }).measure 1 th false := by
  unfold Vp.ppsDeliver
  rw [held]

/-- The output of the pulse per second, and when it rose last. -/
def ppsPut (v : Vp) (b : Bool) (r : Option Nat) : Vp := { v with time := { v.time with ppsOut := b, ppsRise := r } }

theorem ppsPulse_rise (on : v.bit Reg.TIME_PPS_CFG 2 = true) (set : v.timeState ≠ 0) :
    v.ppsPulse true = ppsPut (v.advanceTo v.ppsNext) true (some v.ppsNext) := by
  unfold Vp.ppsPulse
  exact (if_pos rfl).trans (if_pos (by simp [on, set]))

theorem ppsPulse_fall (on : v.bit Reg.TIME_PPS_CFG 2 = true) (set : v.timeState ≠ 0) {r : Nat} (high : v.time.ppsOut = true)
    (rise : v.time.ppsRise = some r) :
    v.ppsPulse false = ppsPut (v.advanceTo (r + v.fld Reg.TIME_PPS_CFG 8 12 * 1000 * nsUnit)) false (some r) := by
  have driven : (v.time.ppsOut && (v.bit Reg.TIME_PPS_CFG 2 && v.timeState != 0)) = true := by simp [high, on, set]
  unfold Vp.ppsPulse
  simp only [driven, rise]
  exact if_neg (by decide)

theorem ppsPulse_low (off : v.bit Reg.TIME_PPS_CFG 2 = false ∨ v.timeState = 0) (high : Bool) :
    v.ppsPulse high = ppsPut v false v.time.ppsRise := by
  have idle : (v.bit Reg.TIME_PPS_CFG 2 && v.timeState != 0) = false := by
    obtain h | h := off <;> simp [h]
  unfold Vp.ppsPulse
  simp only [idle, Bool.and_false]
  cases high
  · exact if_neg (by decide)
  · exact (if_pos rfl).trans (if_neg (by decide))

/-- A source that delivers no more is dropped. -/
def dropped (v : Vp) (src : Nat) : Vp :=
  { v with time := { v.time with alive := sset (fun _ => false) v.time.alive src false
                                 run := sset (fun _ => 0) v.time.run src 0 } }

theorem sourceTimeout_other {src : Nat} (h : v.timeSrc ≠ src) : v.sourceTimeout src = dropped v src := by
  unfold Vp.sourceTimeout
  exact if_pos (.inl h)

theorem sourceTimeout_last {src : Nat} (sel : v.timeSrc = src) (known : src < 3) {u : Vp}
    (hu : (dropped v src).selectSrc (dropped v src).bestSrc = u) (none : u.timeSrc = 3) (locked : u.timeState = 2) :
    v.sourceTimeout src = (u.enterState 3).holdInc := by
  have left : (dropped v src).changeSrc = (u.enterState 3).holdInc := by
    unfold Vp.changeSrc
    dsimp only
    rw [hu, if_neg (by simp [none]), if_pos (.inl locked)]
  unfold Vp.sourceTimeout
  refine (if_neg ?_).trans left
  have same : (dropped v src).timeSrc = v.timeSrc := rfl
  change ¬ ((dropped v src).timeSrc ≠ src ∨ src = 3)
  rw [same, sel]
  omega

end

/-- Settles O29: each source of time by the operation that takes its measurement, its edge or its silence. -/
theorem timeSources : Obligations.TimeSources := by
  unfold Obligations.TimeSources
  refine ⟨fun s src th run sel known set => ?_, fun s stamp gap run on late => ?_, fun s th run held => ?_, fun s run => ?_,
    fun s src run known => ?_⟩
  · intro v r u u'
    have op := measure_selected (th := th) sel known set
    refine ⟨fun within => ?_, fun beyond first => ?_, fun beyond later => ?_⟩
    · exact vp_runs run (f := fun v => v.measure src th false) (op.trans (if_pos within))
    · exact vp_runs run (f := fun v => v.measure src th false)
        (op.trans ((if_neg (Nat.not_le.mpr beyond)).trans (if_pos first)))
    · exact vp_runs run (f := fun v => v.measure src th false)
        (op.trans ((if_neg (Nat.not_le.mpr beyond)).trans (if_neg later)))
  · exact vp_runs run (f := fun v => v.ppsEdge stamp gap) (ppsEdge_late on stamp late)
  · exact vp_runs run (f := fun v => v.ppsDeliver) (ppsDeliver_held held)
  · intro v ofs t t' put
    refine ⟨fun on set => ⟨?_, fun r high rise => ?_⟩, fun off high => ?_⟩
    · exact vp_runs run (f := fun v => v.ppsPulse true) (ppsPulse_rise on set)
    · exact vp_runs run (f := fun v => v.ppsPulse false) (ppsPulse_fall on set high rise)
    · exact vp_runs run (f := fun v => v.ppsPulse high) (ppsPulse_low off high)
  · intro u
    refine ⟨fun other => ?_, fun sel none locked => ?_⟩
    · exact vp_runs run (f := fun v => v.sourceTimeout src) (sourceTimeout_other other)
    · exact vp_runs run (f := fun v => v.sourceTimeout src) (sourceTimeout_last sel known rfl none locked)

end Sys2Proof.Proofs

end

section
/-!
PROOFS. Resets of the valve processor (O31), its PLLs and SYNC_IN (O32), its power domains and test access port (O33).
-/

namespace Sys2Proof.Proofs

open Sys2Proof Sys2Proof.Machine

/-- The valve processor takes up an operation whether its clocks run or not. -/
theorem vpAny_to {s : State} {f : Vp → Vp} {u : Vp} (h : f s.vp = u) :
    (.next (s.vpAny f) : Host.Outcome State Fault Refusal) = .next (s.after u) := by
  unfold State.vpAny State.after
  rw [h]

/-! ### Resets (R471, R472) -/

section
variable {v : Vp}

theorem powerOn_reg (role : Bool) {a : Nat} (h1 : a ≠ Reg.SYS_JRNL) (h2 : a ≠ Reg.SYS_JRNL_SEQ) :
    (v.powerOn role).reg a = regReset a := by
  unfold Vp.powerOn
  dsimp only
  rw [Vp.reg_setReg_other _ _ h2, Vp.reg_setReg_other _ _ h1]
  exact reg_of_regs_nil rfl a

theorem warmed_reg {a : Nat} (h0 : warmKept a = false) (h1 : a ≠ Reg.SYS_JRNL) (h2 : a ≠ Reg.TIME_STATE)
    (h3 : a ≠ Reg.SYS_RST_CAUSE) : v.warmed.reg a = regReset a := by
  unfold Vp.warmed
  dsimp only
  rw [Vp.reg_setReg_other _ _ h3, Vp.reg_setFld_other _ _ _ _ h2, Vp.reg_setFld_other _ _ _ _ h2,
    Vp.reg_setFld_other _ _ _ _ h2, Vp.reg_setReg_other _ _ h1]
  exact reg_of_regs_filter (m := v.regs) (p := fun q => warmKept q.1) rfl fun _ => h0

theorem warmReset_eq (h : v.boot.run ≠ .warmHeld) : v.warmReset =
    (let u := if v.pairMode || v.clk.lost then v else v.tripOwn 32
     if bit (u.reg Reg.BOOT_TRY) 0 then u.warmed.setReg Reg.BOOT_TRY (w32 (fld (u.reg Reg.BOOT_TRY) 0 2)) else u.warmed) := by
  unfold Vp.warmReset
  exact if_neg h

theorem warmRelease_eq (h : v.boot.run = .warmHeld) (lock : v.clk.locked = true) (held : v.clk.lost = false) :
    v.warmRelease = ({ v with boot := { v.boot with run := .waitRoot, rel := v.up } }).mcStart := by
  unfold Vp.warmRelease
  rw [if_neg (by simp [h])]
  exact if_pos (by simp [lock, held])

theorem rootLock_eq (first : v.clk.locked = false) (wait : v.boot.run = .waitRoot) : v.rootLock =
    ({ v with clk := { v.clk with locked := true, lost := false, origin := v.up, outOrigin := v.up } }).mcStart := by
  unfold Vp.rootLock
  rw [if_neg (by simp [first])]
  exact if_pos wait

end

/-- Settles O31: what a reset leaves is read off the state that it makes; a register that it does not set stands at its reset
value. -/
theorem resets : Obligations.Resets := by
  unfold Obligations.Resets
  refine ⟨fun s role => ?_, fun s held => ?_, fun s h lock live => ?_, fun s first wait => ?_⟩
  · intro u
    exact ⟨rfl, rfl, rfl, rfl, rfl, rfl, rfl, rfl, fun a h1 h2 => powerOn_reg role h1 h2⟩
  · intro v u
    exact ⟨vpAny_to (warmReset_eq held), rfl, rfl, rfl, rfl, rfl, rfl, rfl, fun a h0 h1 h2 h3 => warmed_reg h0 h1 h2 h3⟩
  · exact vpAny_to (warmRelease_eq h lock live)
  · exact vpAny_to (rootLock_eq first wait)

/-! ### PLLs and SYNC_IN (R459, R460, R463) -/

section
variable {v : Vp}

theorem rootLost_eq (lock : v.clk.locked = true) (live : v.clk.lost = false) : v.rootLost =
    (let u := { v with clk := { v.clk with lost := true } }
     let u := (u.satFld Reg.CLK_LOSS_CNT 0 8).setFld Reg.TIME_STATE 0 3 0
     let u := { u with time := { u.time with ppsOut := false } }
     let u := { u with txOff := true, boot := { u.boot with failN := true }, trip := { u.trip with out := true } }
     u.raise 1 0xFF 2 fat Reg.CLK_LOSS_CNT) := by
  unfold Vp.rootLost
  exact if_neg (by simp [lock, live])

theorem rootRelock_eq (lost : v.clk.lost = true) (within : Bool) : v.rootRelock within =
    (let u := { v with clk := { v.clk with lost := false } }
     if within then u else u.setBit Reg.SYS_FATAL 15 true) := by
  unfold Vp.rootRelock
  exact if_neg (by simp [lost])

/-- A relock of the root PLL starts nothing in a part that has started. -/
theorem pllRelock_root (lost : v.clk.lost = true) (on : v.boot.run = .on) (within : Bool) :
    v.pllRelock 10 false within = v.rootRelock within := by
  have run : (v.rootRelock within).boot.run = .on := by
    rw [rootRelock_eq lost]
    cases within <;> exact on
  unfold Vp.pllRelock
  rw [if_pos rfl]
  dsimp only
  rw [if_neg (by simp [run])]
  rfl

theorem pllLost_quad {q : Nat} (h : q < 10) : v.pllLost q false = v.quadLost q := by
  unfold Vp.pllLost
  exact if_neg (by omega)

theorem quadTimeout_eq {q : Nat} (h : q < 10) (lost : v.bit Reg.LANE_QPLL_STAT q = false)
    (here : v.lanes.quadsGone.testBit q = false) : v.quadTimeout q = v.raise 7 (0x40 + q) fQuad fat Reg.LANE_QPLL_STAT := by
  unfold Vp.quadTimeout
  exact if_neg (by simp [lost, here]; omega)

theorem pllRelock_quad {q : Nat} (h : q < 10) (lost : v.bit Reg.LANE_QPLL_STAT q = false)
    (here : v.lanes.quadsGone.testBit q = false) : v.pllRelock q false true =
      (let u := v.setBit Reg.LANE_QPLL_STAT q true
       (laneIds.filter (fun l => quadOf l == q && u.laneEn l)).foldl (fun v l => v.setLane l (v.lane l).trainStart) u) := by
  unfold Vp.pllRelock
  rw [if_neg (by omega)]
  unfold Vp.quadLock
  rw [if_neg (by simp [lost, here]; omega)]
  rfl

theorem rising_ne {rising : Bool} (h : v.bit Reg.CLK_SYNC_CFG 1 = !rising) : ¬ rising = v.bit Reg.CLK_SYNC_CFG 1 := by
  rw [h]
  cases rising <;> decide

theorem syncIn_taken {rising : Bool} (edge : v.bit Reg.CLK_SYNC_CFG 1 = !rising) (armed : v.bit Reg.CLK_SYNC_CFG 0 = true)
    (late : ∀ t, v.clk.syncAt = some t → t + 250 ≤ v.up) : v.syncIn rising false =
      (let u := ((v.setBit Reg.CLK_SYNC_CFG 0 false).addFld Reg.CLK_SYNC_STAT 0 16 1).clkSticky 3
       { u with clk := { u.clk with syncAt := some u.up, outOrigin := u.up
                                    origin := if u.launched then u.clk.origin else u.up } }) := by
  unfold Vp.syncIn
  rw [if_neg (rising_ne edge)]
  dsimp only
  rw [if_neg]
  · rfl
  · rw [armed]
    cases h : v.clk.syncAt with
    | none => simp
    | some t => simpa using late t h

theorem syncIn_unarmed {rising : Bool} (edge : v.bit Reg.CLK_SYNC_CFG 1 = !rising) (off : v.bit Reg.CLK_SYNC_CFG 0 = false) :
    v.syncIn rising false = (v.addFld Reg.CLK_SYNC_STAT 16 16 1).clkSticky 2 := by
  unfold Vp.syncIn
  rw [if_neg (rising_ne edge)]
  exact if_pos (by simp [off])

end

/-- Settles O32: each event of a PLL or of SYNC_IN is the operation of its case. -/
theorem clocks : Obligations.Clocks := by
  unfold Obligations.Clocks
  refine ⟨fun s lock live => ?_, fun s within lost on => ?_, fun s q run hq => ?_, fun s rising run edge => ?_⟩
  · exact vpAny_to (f := fun v => v.pllLost 10 false) (rootLost_eq lock live)
  · exact vpAny_to (f := fun v => v.pllRelock 10 false within) ((pllRelock_root lost on within).trans (rootRelock_eq lost within))
  · refine ⟨vp_runs run (f := fun v => v.pllLost q false) (pllLost_quad hq), fun lost here => ⟨?_, ?_⟩⟩
    · exact vp_runs run (f := fun v => v.quadTimeout q) (quadTimeout_eq hq lost here)
    · exact vp_runs run (f := fun v => v.pllRelock q false true) (pllRelock_quad hq lost here)
  · exact ⟨fun armed late => vp_runs run (f := fun v => v.syncIn rising false) (syncIn_taken edge armed late),
      fun off => vp_runs run (f := fun v => v.syncIn rising false) (syncIn_unarmed edge off)⟩

/-! ### Power domains and the test access port (R462, R467, R493) -/

theorem domReady_eq {v : Vp} {d : Nat} (hd : d < 16) (cfg : v.bit Reg.SYS_PWR_CFG d = true) (off : v.domOn d = false) :
    v.domReady d = (v.setBit Reg.SYS_PWR_STAT d true).lanesSync.coresChanged := by
  unfold Vp.domReady
  exact if_pos (by simp [hd, cfg, off])

theorem tapLoad_open {v : Vp} (h : v.sealOpen = true) {t : Tap} (ht : t ≠ .debug) :
    v.tapLoad t = { v with clk := { v.clk with tap := t } } := by
  unfold Vp.tapLoad
  rw [if_pos (by simp [h, ht])]

theorem tapLoad_sealed {v : Vp} (h : v.sealOpen = false) (t : Tap) :
    v.tapLoad t = { v with clk := { v.clk with tap := t.sealed } } := by
  unfold Vp.tapLoad
  rw [if_neg (by simp [h])]

/-- Settles O33: a domain goes at the write and comes when it is ready; the ramp's end and the test port set what they hold. -/
theorem powerAndTest : Obligations.PowerAndTest := by
  unfold Obligations.PowerAndTest
  refine ⟨fun s m w run ok => ?_, fun s d run hd cfg off => ?_, fun s run => ?_, fun s t => ⟨fun h ht => ?_, fun h => ?_⟩⟩
  · refine vp_runs run (f := fun v => v.coreWrite m Reg.SYS_PWR_CFG w) ?_
    rw [Vp.coreWrite_accepts ok, Vp.written_SYS_PWR_CFG]
    rfl
  · exact vp_runs run (f := fun v => v.domReady d) (domReady_eq hd cfg off)
  · exact vp_runs run (f := fun v => v.rampDone) rfl
  · exact vpAny_to (f := fun v => v.tapLoad t) (tapLoad_open h ht)
  · refine (vpAny_to (f := fun v => v.tapLoad t) (tapLoad_sealed h t)).trans ?_
    cases t <;> rfl

end Sys2Proof.Proofs

end

section
/-!
PROOFS. Start-up (O34): the steps of the boot, as each of their guards lets them through.
-/

namespace Sys2Proof.Proofs

open Sys2Proof Sys2Proof.Machine

section
variable {v : Vp}

/-- The flash has been discovered: slot 0 is tried first, and the flash shows. -/
def flashFound (v : Vp) (jedec log2 mhz : Nat) (addr4 quad : Bool) : Vp :=
  let v := (v.setBit Reg.BOOT_STAT 3 false).setBit Reg.BOOT_TRY 0 false
  let v := { v with boot := { v.boot with slot := 0, found := true } }
  v.setReg Reg.BOOT_FLASH (w32 (jedec % 256 + log2 % 256 * 2 ^ 8 + b2n addr4 * 2 ^ 16 + b2n quad * 2 ^ 17
    + min mhz 100 * 2 ^ 24))

theorem flashDone_found (first : v.phase = 1) {jedec log2 mhz : Nat} (lo : 25 ≤ log2) (hi : log2 ≤ 27)
    (try_ : v.bit Reg.BOOT_TRY 0 = false) (addr4 quad : Bool) :
    v.flashDone true jedec log2 addr4 quad mhz =
      ((flashFound v jedec log2 mhz addr4 quad).retLoad.trySlot 0).fallBack 0 := by
  have fits : (!true || out 25 27 log2) = false := by simp [out]; omega
  unfold Vp.flashDone
  rw [if_neg (by simp [first]), try_, fits]
  exact if_neg (by decide)

/-- The configuration of an image: LOAD sections first, then the header's settings and the other sections in order. -/
def imageUsed (v : Vp) (slot : Nat) : Vp × Bool :=
  useSections slot ((v.sections slot).filter (·.type != 2))
    (((useSections slot ((v.sections slot).filter (·.type == 2)) v).1.setPhase 3).headerCfg slot)

theorem imageDone_good (reading : v.phase = 2) {slot : Nat} (tried : v.boot.slot = slot) (good : v.imageCause slot = 0)
    (fine : (imageUsed v slot).2 = true) (times : (imageUsed v slot).1.timesOk ((imageUsed v slot).1.fld Reg.TIME_SLEAD 0 12)
      (fun k => (imageUsed v slot).1.fld (Reg.TIME_APPLY k) 0 16) = true) :
    v.imageDone true = (imageUsed v slot).1.started slot := by
  unfold imageUsed at fine times ⊢
  generalize hu : useSections slot ((v.sections slot).filter (·.type != 2))
    (((useSections slot ((v.sections slot).filter (·.type == 2)) v).1.setPhase 3).headerCfg slot) = r at fine times ⊢
  obtain ⟨u, all⟩ := r
  obtain rfl : all = true := fine
  unfold Vp.imageDone
  rw [if_neg (by simp [reading])]
  simp only [if_true, tried, good, hu]
  exact (if_neg (fun h => h rfl)).trans (if_pos times)

theorem imageDone_unread (reading : v.phase = 2) : v.imageDone false = (v.slotFails v.boot.slot 8).fallBack v.boot.slot := by
  unfold Vp.imageDone
  rw [if_neg (by simp [reading])]
  exact if_pos (c := (8 : Nat) ≠ 0) (by decide)

theorem armingBound_eq (on : v.launched = true) (ready : v.ready = true) (ph : v.phase = 5 ∨ v.phase = 6) :
    v.armingBound = v.vpArmed := by
  unfold Vp.armingBound
  exact if_pos (by obtain h | h := ph <;> simp [on, ready, h])

theorem vpArmed_eq (first : v.bit Reg.BOOT_ARMED 16 = false) : v.vpArmed =
    ((v.setBit Reg.BOOT_ARMED 16 true).setFld Reg.BOOT_STAT 4 4 7).setReg Reg.BOOT_T_ARMED (w32 v.msUp) := by
  unfold Vp.vpArmed
  exact if_neg (by simp [first])

theorem cellCfgTimeout_eq {m p : Nat} (here : v.present' (256 * m + p) = true) (undone : (v.ring m).cfgDone.contains p = false) :
    v.cellCfgTimeout m p =
      (let u := v.setCf (256 * m + p) 2 24 1 0
       u.setFld (Reg.RING_STATE m) 8 9 (u.cellsOfRing m).length) := by
  unfold Vp.cellCfgTimeout
  exact if_pos (by rw [here, undone]; rfl)

theorem enumerationEnd_eq (m : Nat) : v.enumerationEnd m =
    (let u := v.enumEnd m
     if u.phase = 5 ∧ !ringIds.any (fun m => (u.ring m).enumOn) then u.setPhase 6 else u) := by
  unfold Vp.enumerationEnd
  rfl

theorem retClr_eq (isOpen : v.sealOpen = true) {w : Word} (key : fld w 16 16 = 0xA5) (gone : v.isRetired (fld w 0 12) = true) :
    v.retClr w = ({ v with retired := putBit v.retired (fld w 0 12) false }).retWrite := by
  unfold Vp.retClr
  exact if_pos (by simp [isOpen, key, gone])

theorem dumpWritten_first (fatal : v.fatal = true) (d13 : v.bit Reg.SYS_FATAL 13 = false)
    (d14 : v.bit Reg.SYS_FATAL 14 = false) (d15 : v.bit Reg.SYS_FATAL 15 = false) (scope : v.fld Reg.SYS_FATAL 1 4 ≠ 0)
    (none : v.dumpHeld = false) : v.dumpWritten =
      (let blk := v.fld Reg.SYS_FATAL 1 4
       let inst := v.fld Reg.SYS_FATAL 5 8
       let u := (v.setBit Reg.SYS_FATAL 13 true).dump blk inst
       u.journal 2 blk inst 3 (u.reg (Reg.FLT_FIRST blk 0)).toNat (u.reg (Reg.FLT_FIRST blk 1)).toNat 1) := by
  unfold Vp.bit at d13 d14 d15
  unfold Vp.dumpWritten
  dsimp only
  rw [if_neg (by simp [fatal, d13, d14, d15]), if_neg (c := Machine.fld (v.reg Reg.SYS_FATAL) 1 4 = 0 ∧ _) fun h => scope h.1,
    none]
  rfl

end

/-- Settles O34: each step of the start-up once its guards have let it through. -/
theorem startEvents : Obligations.StartEvents := by
  unfold Obligations.StartEvents
  refine ⟨fun s log2 jedec mhz addr4 quad run first lo hi try_ => ?_, fun s run reading => ?_, fun s m run _ _ => ?_,
    fun s k run here done => ?_, fun s run on ready ph armed => ?_, fun s m w run ok isOpen key gone => ?_,
    fun s run fatal d13 d14 d15 scope none => ?_⟩
  · exact vp_runs run (f := fun v => v.flashDone true jedec log2 addr4 quad mhz) (flashDone_found first lo hi try_ addr4 quad)
  · intro slot xs
    refine ⟨fun good => ?_, vp_runs run (f := fun v => v.imageDone false) (imageDone_unread reading)⟩
    intro v u fine times
    exact vp_runs run (f := fun v => v.imageDone true) (imageDone_good reading rfl good fine times)
  · exact vp_runs run (f := fun v => v.enumerationEnd m) (enumerationEnd_eq m)
  · exact vp_runs run (f := fun v => v.cellCfgTimeout k.ring k.pos) (cellCfgTimeout_eq here done)
  · exact vp_runs run (f := fun v => v.armingBound) ((armingBound_eq on ready ph).trans (vpArmed_eq armed))
  · refine vp_runs run (f := fun v => v.coreWrite m Reg.BOOT_RETCLR w) ?_
    rw [Vp.coreWrite_accepts ok, Vp.written_BOOT_RETCLR, retClr_eq isOpen key gone]
  · exact vp_runs run (f := fun v => v.dumpWritten) (dumpWritten_first fatal d13 d14 d15 scope none)

end Sys2Proof.Proofs

end

section
/-!
PROOFS. The pair: how it forms and is joined (O35), the exchange of a frame (O36), digests, the loss of the partner and the
takeover (O38).
-/

namespace Sys2Proof.Proofs

open Sys2Proof Sys2Proof.Machine

/-! ### Messages to a VP of a pair (R428) -/

section
variable {v : Vp}

/-- A message with a block in a missing place is discarded whole. -/
theorem gapped_missing (pair : v.paired = true) (f : Vp → Vp) : v.gapped true f = v.setBit Reg.PEER_STICKY 7 true := by
  unfold Vp.gapped
  rw [if_neg (by simp [pair])]
  rfl

/-- A whole message is taken. -/
theorem gapped_whole (pair : v.paired = true) (f : Vp → Vp) : v.gapped false f = f v := by
  unfold Vp.gapped
  rw [if_neg (by simp [pair])]
  rfl

theorem paired_of_pairMode (h : v.pairMode = true) : v.paired = true := by
  unfold Vp.pairMode at h
  simp only [Bool.and_eq_true] at h
  exact h.1.1

end

/-- A message to a VP of a pair that is discarded through a missing block. -/
theorem discarded {s : State} (run : s.vp.runs = true) (pair : s.vp.paired = true) {f : Vp → Vp} {g : Vp → Vp}
    (hf : f s.vp = s.vp.gapped true g) :
    (.next (s.onVp f) : Host.Outcome State Fault Refusal) = .next (s.after (s.vp.setBit Reg.PEER_STICKY 7 true)) :=
  vp_runs run (hf.trans (gapped_missing pair g))

/-! ### Forming and joining (R417, R418, R432) -/

section
variable {v : Vp}

/-- The partner's digest and the own one show. -/
def digestsShown (v : Vp) (digest : Nat) : Vp := (v.setReg Reg.PEER_DIG_P (w32 digest)).setReg Reg.PEER_DIG (w32 v.pairDigest)

/-- The partner's message of the pair digest counts as received. -/
def cfgdTaken (v : Vp) : Vp := { v with peer := { v.peer with cfgdIn := true } }

/-- What a digest does at a VP that does not run alone and has not received one. -/
theorem cfgdIn_eq (pair : v.paired = true) (live : v.peer.failed = false) (first : v.peer.cfgdIn = false)
    (none : v.peer.pstIn = none) {digest : Nat} {u : Vp} (hu : digestsShown v digest = u)
    (alone : u.bit Reg.PEER_STAT 4 = false) (role : Bool) :
    v.cfgdIn digest role false =
      if (!(v.pairDigest == digest % 2 ^ 32 && role != u.isB)) = true then
        (cfgdTaken u).pairFail v.pairDigest digest (role == (cfgdTaken u).isB)
      else (((cfgdTaken u).setBit Reg.PEER_STAT 2 true).setBit Reg.PEER_STAT 1 (!(cfgdTaken u).isB)).setFld Reg.PEER_STAT 8 8 1 := by
  have pst : u.peer.pstIn = Option.none := by
    rw [← hu, digestsShown, Vp.setReg_peer, Vp.setReg_peer, none]
  unfold Vp.cfgdIn
  rw [gapped_whole pair, if_neg (by simp [live, first])]
  unfold digestsShown at hu
  dsimp only
  rw [hu, if_neg (by rw [alone]; decide)]
  simp only [pst, cfgdTaken]

theorem cfgdTaken_isB (u : Vp) : (cfgdTaken u).isB = u.isB := rfl

theorem cfgdIn_formed (pair : v.paired = true) (live : v.peer.failed = false) (first : v.peer.cfgdIn = false)
    (none : v.peer.pstIn = none) {digest : Nat} {u : Vp} (hu : digestsShown v digest = u)
    (alone : u.bit Reg.PEER_STAT 4 = false) {role : Bool} (same : v.pairDigest = digest % 2 ^ 32) (unlike : role ≠ u.isB) :
    v.cfgdIn digest role false =
      (((cfgdTaken u).setBit Reg.PEER_STAT 2 true).setBit Reg.PEER_STAT 1 (!(cfgdTaken u).isB)).setFld Reg.PEER_STAT 8 8 1 := by
  rw [cfgdIn_eq pair live first none hu alone, ← same]
  exact if_neg (by simp [unlike])

theorem cfgdIn_other (pair : v.paired = true) (live : v.peer.failed = false) (first : v.peer.cfgdIn = false)
    (none : v.peer.pstIn = none) {digest : Nat} {u : Vp} (hu : digestsShown v digest = u)
    (alone : u.bit Reg.PEER_STAT 4 = false) (role : Bool) (differ : v.pairDigest ≠ digest % 2 ^ 32) :
    v.cfgdIn digest role false = (cfgdTaken u).pairFail v.pairDigest digest (role == u.isB) := by
  rw [cfgdIn_eq pair live first none hu alone, beq_eq_false_iff_ne.mpr differ, cfgdTaken_isB]
  exact if_pos rfl

theorem soloStart_eq (pair : v.paired = true) (ready : v.ready = true) (none : v.peer.cfgdIn = false)
    (live : v.peer.failed = false) (unformed : v.bit Reg.PEER_STAT 2 = false) (alone : v.bit Reg.PEER_STAT 4 = false) :
    v.soloStart =
      (let u := ((v.setBit Reg.PEER_STAT 1 true).setBit Reg.PEER_STAT 4 true).setFld Reg.PEER_STAT 8 8 1
       { u with boot := { u.boot with soloAt := some u.up } }) := by
  unfold Vp.soloStart
  exact if_pos (by simp [pair, ready, none, live, unformed, alone])

/-- A VP that runs alone answers a join with snapshots. -/
theorem join_solo (pair : v.paired = true) (live : v.peer.failed = false) (joins : v.peer.joining = true)
    (alone : v.bit Reg.PEER_STAT 4 = true) (on : v.launched = true) (first : v.peer.joinAt = none) (snaps : List Snap) :
    v.join snaps = (v.joinGrant, false) := by
  unfold Vp.join
  rw [if_neg (by simp [pair, live, joins]), if_pos alone, if_pos (by simp [on, first])]

/-- A joining VP takes the snapshots. -/
theorem join_takes (pair : v.paired = true) (live : v.peer.failed = false) (joins : v.peer.joining = true)
    (alone : v.bit Reg.PEER_STAT 4 = false) (off : v.launched = false) {snaps : List Snap}
    (all : (armIds.filter v.armOn).all (fun k => snaps.any (·.arm == k)) = true) :
    v.join snaps =
      (let u := snaps.foldl Vp.snapTake v
       ({ u with peer := { u.peer with joining := false } }.setBit Reg.PEER_STAT 1 false, true)) := by
  unfold Vp.join
  rw [if_neg (by simp [pair, live, joins]), if_neg (by simp [alone]), if_neg (by rw [off, all]; decide)]

end

/-- Settles O35: a gap discards any message; without one each message is its own operation, its guards passed. -/
theorem pairForms : Obligations.PairForms := by
  unfold Obligations.PairForms
  refine ⟨fun s run pair => ?_, fun s digest role run pair live first none => ?_,
    fun s run pair ready none live unformed alone => ?_, fun s snaps run pair live joins => ⟨?_, ?_⟩⟩
  · intro t
    refine ⟨fun d r => discarded run pair (f := fun v => v.cfgdIn d r true) rfl,
      fun m f n a => discarded run pair (f := fun v => v.rfhIn m f n a true) rfl,
      fun b a => discarded run pair (f := fun v => v.fwdReport b a true) rfl,
      fun f xs => discarded run pair (f := fun v => v.rtvIn f xs true) rfl,
      fun f ds => discarded run pair (f := fun v => v.digIn f ds true) rfl,
      fun x => discarded run pair (f := fun v => v.snapApply x true) rfl,
      fun x => discarded run pair (f := fun v => v.pstIn x true) rfl,
      fun src => discarded run pair (f := fun v => v.tripIn' src true) rfl,
      fun mode x => discarded run pair (f := fun v => v.hostxIn x true) (if_neg (by simp [mode]))⟩
  · intro own v alone u
    exact ⟨fun same unlike => vp_runs run (f := fun v => v.cfgdIn digest role false)
        (cfgdIn_formed pair live first none rfl alone same unlike),
      fun differ => vp_runs run (f := fun v => v.cfgdIn digest role false)
        (cfgdIn_other pair live first none rfl alone role differ)⟩
  · exact vp_runs run (f := fun v => v.soloStart) (soloStart_eq pair ready none live unformed alone)
  · intro alone on first b xs
    refine vp_runs run (f := fun v => v.joinPair snaps) ?_
    unfold Vp.joinPair
    rw [join_solo pair live joins alone on first]
    rfl
  · intro x r hr alone off all u w ready fatal
    subst hr
    refine vp_runs run (f := fun v => v.joinPair (x :: r)) ?_
    unfold Vp.joinPair
    rw [join_takes pair live joins alone off all]
    exact if_pos (Bool.and_eq_true_iff.mpr ⟨ready, congrArg (!·) fatal⟩)

/-! ### The exchange of a frame (R420, R422, R423) -/

section
variable {v : Vp}

theorem rfhIn_taken (mode : v.pairMode = true) {m frame arr : Nat} {f : Rfh} (hm : m < 16)
    (now : frame % 256 = v.frameNo % 256) (later : f.sent ≤ arr) : v.rfhIn m f frame arr false =
      (((v.updRing m (fun r => { r with rfhPeer := r.rfhPeer ++ [f] })).setReg Reg.RING_PEER_DLY
        (w32 (min (arr - f.sent) 0xFFFF))).ackShort).forwardRing m := by
  unfold Vp.rfhIn
  rw [gapped_whole (paired_of_pairMode mode), if_neg (by simp [mode, now]; omega)]
  dsimp only
  rw [if_pos later]

theorem rfhDeadline_none (mode : v.pairMode = true) {m : Nat} (tx : v.txOff = false) (up : v.ringUp m = true)
    (copies : (v.ring m).copies = []) (own : (v.ring m).rfhOwn = []) (sent : Nat) : v.rfhDeadline m sent =
      (let f : Rfh := { up := v.isB, wrapped := false, t := noT, first := true, sent := sent, held := 0 }
       (v.updRing m (fun r => { r with rfhOwn := [f] })).peerSend (.rfh m f)) := by
  unfold Vp.rfhDeadline
  rw [if_neg (by simp [up, copies, own])]
  unfold Vp.rfhSend
  rw [if_neg (by simp [mode, tx]), own]
  unfold Vp.updRing
  dsimp only
  rw [own]
  rfl

theorem fwdReport_now (mode : v.pairMode = true) {blk : Nat} (now : blk / 2 ^ 60 % 16 = v.frameNo % 16) (arr : Nat) :
    v.fwdReport blk arr false = v.reportFwd (blk / 2 ^ 56 % 16) (blk / 2 ^ 48 % 256) arr (blk % 2 ^ 48) := by
  unfold Vp.fwdReport
  rw [gapped_whole (paired_of_pairMode mode)]
  exact if_pos (Bool.and_eq_true_iff.mpr ⟨mode, beq_iff_eq.mpr now⟩)

/-- A forwarded report counts and shows at its cell. -/
def fwdCounted (v : Vp) (cell : Nat) : Vp :=
  { v.setCf cell 8 2 1 1 with peer := { v.peer with fwdIn := v.peer.fwdIn + 1 } }

theorem reportFwd_here {m p : Nat} (up : v.ringUp m = true) (here : p < v.ncell m) (arr rep : Nat) :
    v.reportFwd m p arr rep =
      (let u := fwdCounted v (256 * m + p)
       let slot := withCrc16 rep (nodeId v.chip m p) v.frameNo
       if u.holds (256 * m + p) then
         if (sget (fun _ => {}) u.held (256 * m + p)).val = slot then u else u.copyDiffers m (256 * m + p)
       else u.firstCopy m p arr slot) := by
  unfold Vp.reportFwd
  exact if_neg (by simp [up, here])

theorem reportFwd_away {m p : Nat} (away : v.ringUp m = false ∨ v.ncell m ≤ p) (arr rep : Nat) :
    v.reportFwd m p arr rep = v := by
  unfold Vp.reportFwd
  exact if_pos (by obtain h | h := away <;> simp [h])

theorem standby_of (mode : v.pairMode = true) (idle : v.active = false) : v.standby = true := by
  unfold Vp.standby
  rw [mode, idle]
  rfl

theorem rtvIn_taken (mode : v.pairMode = true) (idle : v.active = false) {frame : Nat} (now : frame % 256 = v.frameNo % 256)
    (xs : List (Nat × Nat × Int)) :
    v.rtvIn frame xs false = ({ v with peer := { v.peer with rtvIn := xs, rtvGot := true } }).rtvLatch := by
  unfold Vp.rtvIn
  rw [gapped_whole (paired_of_pairMode mode)]
  exact if_pos (Bool.and_eq_true_iff.mpr ⟨standby_of mode idle, beq_iff_eq.mpr now⟩)

theorem rtvExpiry_late (mode : v.pairMode = true) (idle : v.active = false) (dec : v.decided = true)
    (none : v.peer.rtvGot = false) : v.rtvExpiry =
      (((v.inc Reg.PEER_LATE_CNT).setBit Reg.PEER_STICKY 5 true).peerFaults [(3, cor, Reg.PEER_LATE_CNT)]) := by
  unfold Vp.rtvExpiry
  exact if_pos (by simp [standby_of mode idle, dec, none])

/-- What the close of the acknowledged set does once it is due. -/
theorem ackSetClose_due (mode : v.pairMode = true) (dec : v.decided = true) (live : v.fatal = false) (undone : v.armDone = 0)
    (idle : armIds.any (fun k => (v.arm k).busy) = false) : v.ackSetClose =
      (let u := ringIds.foldl Vp.ringEval (v.held.foldl (fun v h => v.fwdHeld h.1) v)
       let ack := (ringIds.flatMap u.cellsOfRing).filter (fun c => u.pairAck (c / 256) (c % 256))
       let has := fun c => u.holds c && !(u.ring (c / 256)).bufBad
       let w := if ack.any (fun c => !has c) then u.setBit Reg.PEER_STICKY 9 true else u
       let w := ack.foldl (fun x c => if has c then x.noteRetired c (x.rep c) else x) w
       let w := w.decideAll (fun c => ack.contains c && has c)
       (ringIds.foldl Vp.closeCheck w).armedCheck) := by
  unfold Vp.ackSetClose
  exact if_neg (by rw [mode, dec, live, undone, idle]; decide)

theorem tripIn_whole (pair : v.paired = true) (src : Nat) : v.tripIn' src false =
    (if src.testBit 4 then v.setBit Reg.HOST_TRIP 3 true else v).tripNow (src % 64) := by
  unfold Vp.tripIn'
  rw [gapped_whole pair]
  unfold Vp.tripMsg
  exact if_neg (by simp [pair])

end

/-- Settles O36: each message of the frame is taken as its own operation says, once it is whole and of this frame. -/
theorem pairFrame : Obligations.PairFrame := by
  unfold Obligations.PairFrame
  intro s run mode v
  refine ⟨fun m f frame arr hm now later => ?_, fun m sent tx up copies own => ?_, fun blk arr now => ?_,
    fun frame xs idle now => ?_, fun idle dec none => ?_, fun dec live undone idle => ?_, fun src => ?_⟩
  · exact vp_runs run (f := fun v => v.rfhIn m f frame arr false) (rfhIn_taken mode hm now later)
  · exact vp_runs run (f := fun v => v.rfhDeadline m sent) (rfhDeadline_none mode tx up copies own sent)
  · intro m p cell slot u
    have op := fwdReport_now mode now arr
    refine ⟨fun up here first => ?_, fun up here again same => ?_, fun up here again differs => ?_, fun away => ?_⟩
    · exact vp_runs run (f := fun v => v.fwdReport blk arr false) (op.trans ((reportFwd_here up here _ _).trans
        (if_neg (by rw [show (fwdCounted v (256 * m + p)).holds (256 * m + p) = false from first]; decide))))
    · exact vp_runs run (f := fun v => v.fwdReport blk arr false) (op.trans ((reportFwd_here up here _ _).trans
        ((if_pos again).trans (if_pos same))))
    · exact vp_runs run (f := fun v => v.fwdReport blk arr false) (op.trans ((reportFwd_here up here _ _).trans
        ((if_pos again).trans (if_neg differs))))
    · exact vp_runs run (f := fun v => v.fwdReport blk arr false) (op.trans (reportFwd_away away _ _))
  · exact vp_runs run (f := fun v => v.rtvIn frame xs false) (rtvIn_taken mode idle now xs)
  · exact vp_runs run (f := fun v => v.rtvExpiry) (rtvExpiry_late mode idle dec none)
  · exact vp_runs run (f := fun v => v.ackSetClose) (ackSetClose_due mode dec live undone idle)
  · exact vp_runs run (f := fun v => v.tripIn' src false) (tripIn_whole (paired_of_pairMode mode) src)

/-! ### Digests, the partner's loss and the takeover (R425 to R431) -/

section
variable {v : Vp}

theorem digIn_taken (mode : v.pairMode = true) {frame : Nat} (now : frame % 256 = v.frameNo % 256) (ds : List (Nat × Nat)) :
    v.digIn frame ds false = { v with peer := { v.peer with digIn := ds } } := by
  unfold Vp.digIn
  rw [gapped_whole (paired_of_pairMode mode)]
  exact if_pos (Bool.and_eq_true_iff.mpr ⟨mode, beq_iff_eq.mpr now⟩)

/-- The digests of an arm at the two VPs differ. -/
def digestsDiffer (v : Vp) (k : Nat) : Bool :=
  match v.peer.digIn.lookup k, v.peer.digOut.lookup k with
  | some a, some b => a != b
  | _, _ => false

theorem digestsDiffer_of_eq {k : Nat} (h : v.peer.digIn.lookup k = v.peer.digOut.lookup k) : digestsDiffer v k = false := by
  unfold digestsDiffer
  rw [h]
  cases v.peer.digOut.lookup k <;> simp

theorem digCompare_equal (mode : v.pairMode = true)
    (same : ((armIds.filter v.armOn).all (fun k => v.peer.digIn.lookup k == v.peer.digOut.lookup k)) = true) :
    v.digCompare =
      (let u := v.setFld Reg.PEER_MIS_ARM 0 12 0
       { u with peer := { u.peer with
          mis := armIds.foldl (fun l k => sset (fun _ => 0) l k 0) u.peer.mis, void := [], digIn := [], digOut := [] } }) := by
  have bad : (armIds.filter v.armOn).filter (digestsDiffer v) = [] := by
    rw [List.filter_eq_nil_iff]
    intro k hk
    rw [List.all_eq_true] at same
    rw [digestsDiffer_of_eq (beq_iff_eq.mp (same k hk))]
    decide
  unfold Vp.digCompare
  rw [if_neg (by simp [mode])]
  dsimp only
  generalize hb : List.filter _ (List.filter v.armOn armIds) = differing
  obtain rfl : differing = [] := hb.symm.trans bad
  rw [ite_self]
  simp only [List.foldl_nil, List.contains_nil, Bool.false_eq_true, if_false, List.isEmpty_nil, if_true]

theorem snapApply_now (mode : v.pairMode = true) (idle : v.active = false) {x : Snap} (under : (v.resyncOf x.arm).isSome = true)
    (now : x.at_ % 2 ^ 32 = v.frameNo % 2 ^ 32) : v.snapApply x false = (v.snapTake x).setResync x.arm none := by
  unfold Vp.snapApply
  rw [gapped_whole (paired_of_pairMode mode)]
  exact if_pos (Bool.and_eq_true_iff.mpr ⟨Bool.and_eq_true_iff.mpr ⟨standby_of mode idle, under⟩, beq_iff_eq.mpr now⟩)

theorem snapTimeout_late (mode : v.pairMode = true) {k : Nat} {r : Resync} (under : v.resyncOf k = some r)
    (late : 64 ≤ r.frames) : v.snapTimeout k = (v.resyncStart k).peerFaults [(6, unc, Reg.PEER_MIS_ARM)] := by
  unfold Vp.snapTimeout
  rw [under]
  exact if_pos (by simp [mode, late])

/-- The partner's status has come. -/
def pstShown (v : Vp) (x : Pst) : Vp :=
  let v := { v with peer := { v.peer with pstIn := some x, pstGot := true, pstMiss := 0 } }
  (v.setBit Reg.PEER_STAT 3 true).setBit Reg.HOST_SEAL 5 x.sealOpen

theorem pstIn_idle (pair : v.paired = true) {x : Pst} (idle : x.active = false) (unformed : x.formed = false)
    (stale : x.frame ≠ v.frameNo % 256) : v.pstIn x false = pstShown v x := by
  have now : (pstShown v x).frameNo = v.frameNo := by
    unfold pstShown Vp.setBit Vp.setFld
    rw [Vp.setReg_frameNo, Vp.setReg_frameNo]
  unfold Vp.pstIn
  rw [gapped_whole pair]
  unfold pstShown at now ⊢
  dsimp only at now ⊢
  rw [now, if_neg (c := x.frame = v.frameNo % 256) stale, if_neg (by simp [idle]), if_neg (by simp [unformed])]

theorem pstMissing_eq (mode : v.pairMode = true) (none : v.peer.pstGot = false) : v.pstMissing =
    (let u := ({ v with peer := { v.peer with pstMiss := v.peer.pstMiss + 1 } }.setBit Reg.PEER_STAT 3 false).setBit
        Reg.HOST_SEAL 5 false
     if 1 ≤ v.peer.pstMiss then u.partnerLost 2 else u) := by
  unfold Vp.pstMissing
  rw [if_neg (by simp [mode, none])]
  by_cases again : 1 ≤ v.peer.pstMiss
  · exact (if_pos (Nat.succ_le_succ again)).trans (if_pos again).symm
  · exact (if_neg fun h => again (Nat.le_of_succ_le_succ h)).trans (if_neg again).symm

theorem takeover_due {b n : Nat} (take : v.peer.takeAt = some b) (due : b ≤ n) : v.takeover n =
    (let u := { v with peer := { v.peer with takeAt := none, void := [], resync := [], mis := [] } }
     let u := ((u.setBit Reg.PEER_STAT 1 true).setBit Reg.PEER_STAT 4 true).setFld Reg.PEER_STAT 8 8 (nextGen u.gen)
     ((u.addFld Reg.PEER_TAKE_CNT 0 16 1).setBit Reg.PEER_STICKY 4 true).resyncShow) := by
  unfold Vp.takeover
  rw [take]
  exact if_pos due

end

/-- Settles O38: each event between the partners is its operation once its guards have let it through. -/
theorem takeover : Obligations.Takeover := by
  unfold Obligations.Takeover
  refine ⟨fun s run mode => ?_, fun s x run pair idle unformed stale => ?_, fun s run mode none => ?_,
    fun s b run take due => ?_, fun s run => ?_⟩
  · intro v
    refine ⟨fun frame ds now => ?_, fun same => ?_, fun x idle under now => ?_, fun k r under late => ?_⟩
    · exact vp_runs run (f := fun v => v.digIn frame ds false) (digIn_taken mode now ds)
    · exact vp_runs run (f := fun v => v.digCompare) (digCompare_equal mode same)
    · exact vp_runs run (f := fun v => v.snapApply x false) (snapApply_now mode idle under now)
    · exact vp_runs run (f := fun v => v.snapTimeout k) (snapTimeout_late mode under late)
  · exact vp_runs run (f := fun v => v.pstIn x false) (pstIn_idle pair idle unformed stale)
  · exact vp_runs run (f := fun v => v.pstMissing) (pstMissing_eq mode none)
  · exact vp_runs run (f := fun v => v.takeover (v.frameNo + 1)) (takeover_due take due)
  · exact vp_runs run (f := fun v => v.partnerFail) rfl

end Sys2Proof.Proofs

end

section
/-!
PROOFS. The host ports: a frame at a free port is served at once (O39, O40); what happens at the ports beside requests (O42);
the seal (O43).
-/

namespace Sys2Proof.Proofs

open Sys2Proof Sys2Proof.Machine

/-! ### What an operation leaves of the ports -/

theorem sput_sput {α : Type} (k : Nat) (a b : α) (m : List (Nat × α)) : sput k b (sput k a m) = sput k b m := by
  induction m with
  | nil => simp [sput]
  | cons q m ih =>
    obtain ⟨k', a'⟩ := q
    by_cases lt : k < k'
    · simp [sput, lt]
    · by_cases eq : k = k'
      · simp [sput, eq]
      · simp [sput, lt, eq, ih]

/-- A second value at a key replaces the first, where neither is the one that an unlisted key reads as. -/
theorem sset_sset {α : Type} [DecidableEq α] {d : Nat → α} (m : List (Nat × α)) {k : Nat} {a b : α} (ha : a ≠ d k)
    (hb : b ≠ d k) : sset d (sset d m k a) k b = sset d m k b := by
  unfold sset
  rw [if_neg ha, if_neg hb, if_neg hb, sput_sput]

/-- The states of the ports stand, and so does the mode of the pair. -/
def PortsStand (v u : Vp) : Prop := u.host.ports = v.host.ports ∧ u.reg Reg.PEER_CFG = v.reg Reg.PEER_CFG

namespace PortsStand

variable {v u x : Vp}

theorem refl (v : Vp) : PortsStand v v := ⟨rfl, rfl⟩

theorem trans (h : PortsStand v u) (g : PortsStand u x) : PortsStand v x := ⟨g.1.trans h.1, g.2.trans h.2⟩

theorem port (h : PortsStand v u) (p : Nat) : u.port p = v.port p := by
  unfold Vp.port
  rw [h.1]

theorem paired (h : PortsStand v u) : u.paired = v.paired := by
  unfold Vp.paired Vp.bit
  rw [h.2]

theorem setReg (v : Vp) {a : Nat} (h : a < Reg.PEER_CFG) (w : Word) : PortsStand v (v.setReg a w) :=
  ⟨congrArg HostSt.ports (Vp.setReg_host v a w), Vp.reg_setReg_other v w (Nat.ne_of_gt h)⟩

theorem ite {c : Bool} (h : PortsStand v u) (g : PortsStand v x) : PortsStand v (if c then u else x) := by
  cases c
  · exact g
  · exact h

theorem foldl {β : Type} {f : Vp → β → Vp} {l : List β} (h : ∀ v, ∀ b ∈ l, PortsStand v (f v b)) (v : Vp) :
    PortsStand v (l.foldl f v) := by
  induction l generalizing v with
  | nil => exact refl v
  | cons b l ih =>
    exact (h v b List.mem_cons_self).trans (ih (fun v c hc => h v c (List.mem_cons_of_mem b hc)) (f v b))

theorem portEntry (v : Vp) {p : Nat} (hp : p < 4) (e : EvEntry) : PortsStand v (v.portEntry p e) := by
  refine ⟨congrArg HostSt.ports (SameButReports.portEntry v p e).host, ?_⟩
  have away (w : Word) : (v.setReg (Reg.HOST_P_EV_CNT p) w).reg Reg.PEER_CFG = v.reg Reg.PEER_CFG :=
    Vp.reg_setReg_other v w (by unfold Reg.PEER_CFG Reg.HOST_P_EV_CNT; omega)
  unfold Vp.portEntry
  split
  · dsimp only
    split
    · rfl
    · split <;> exact away _
  · rfl

theorem hostEntry (v : Vp) (code src data : Nat) : PortsStand v (v.hostEntry code src data) :=
  foldl (l := [0, 1, 2, 3]) (fun v p hp => ite (portEntry v (by simp at hp; omega) _) (refl v)) v

theorem post (v : Vp) (i : Input) : PortsStand v (v.post i) := ⟨rfl, rfl⟩

theorem hostInt (v : Vp) (i : Nat) : PortsStand v (v.hostInt i) := by
  have shown : PortsStand v (v.setBit Reg.HOST_INT_STAT i true) := setReg v (by decide) _
  unfold Vp.hostInt Vp.intCause
  split
  · exact refl v
  · dsimp only
    split
    · exact (shown.trans (post _ _)).trans (hostEntry _ _ _ _)
    · exact shown

theorem setToken (v : Vp) (t : Option (Nat × Bool)) : PortsStand v (v.setToken t) := by
  have held : PortsStand v { v with host := { v.host with token := t } } := ⟨rfl, rfl⟩
  unfold Vp.setToken
  split
  · exact refl v
  · exact (held.trans (hostInt _ 2)).trans (hostEntry _ _ _ _)

theorem unstage (v : Vp) {b : Bundle} (hb : b.port < 4) (trip : Bool) : PortsStand v (v.unstage b trip) := by
  have left : PortsStand v { v with host := { v.host with staged := v.host.staged.filter (· != b) } } := ⟨rfl, rfl⟩
  unfold Vp.unstage
  exact ite ((left.trans (hostInt _ 1)).trans (portEntry _ hb _)) (left.trans (hostInt _ 1))

theorem mgSend (v : Vp) (m : Nat) (p : MgPkt) : PortsStand v (v.mgSend m p) := by
  unfold Vp.mgSend
  dsimp only
  split
  · exact ⟨rfl, rfl⟩
  · split <;> exact ⟨rfl, rfl⟩

theorem timeCancel (v : Vp) : PortsStand v v.timeCancel := by
  have clear : PortsStand v { v with timeAt := 0, timeNeed := 0, timeGot := 0 } := ⟨rfl, rfl⟩
  have stale (v : Vp) (m : Nat) (a b : MgUse) : PortsStand v (v.mgStale m a b) := ⟨rfl, rfl⟩
  unfold Vp.timeCancel
  split
  · exact refl v
  · exact clear.trans (foldl (fun v m _ => (stale v m _ _).trans (mgSend _ _ _)) _)

theorem timeSend (v : Vp) (t : Nat) : PortsStand v (v.timeSend t) := by
  have due (v : Vp) (t n : Nat) : PortsStand v { v with timeAt := t, timeNeed := n, timeGot := 0 } := ⟨rfl, rfl⟩
  unfold Vp.timeSend
  dsimp only
  split
  · exact refl v
  · exact (foldl (fun v c _ => (mgSend v _ _).trans (mgSend _ _ _)) v).trans (due _ _ _)

theorem timeSync (v : Vp) (again : Bool) : PortsStand v (v.timeSync again) := by
  unfold Vp.timeSync
  dsimp only
  split
  · exact refl v
  · split
    · exact timeCancel v
    · split
      · exact timeSend v _
      · exact (timeCancel v).trans (timeSend _ _)

theorem timeDrop (v : Vp) (b : Bundle) : PortsStand v (v.timeDrop b) := ite (refl v) (timeSync v _)

theorem stage (v : Vp) (b : Bundle) : PortsStand v (v.stage b) := by
  have joined : PortsStand v { v with host := { v.host with staged := v.host.staged ++ [b] } } := ⟨rfl, rfl⟩
  exact ite joined (joined.trans (timeSync _ _))

end PortsStand

/-! ### A frame at a free port -/

section
variable {v : Vp} {p : Nat}

/-- A port with no frame that waits goes on as it is. -/
theorem portRun_idle (n : Nat) (h : (v.port p).queue = []) : Vp.portRun p n v = v := by
  cases n with
  | zero => rfl
  | succ n =>
    unfold Vp.portRun
    dsimp only
    rw [h]
    cases (v.port p).serving <;> rfl

theorem answer_queue (f : HFrame) (st ep : Nat) (xs : List RItem) (d : List Nat) :
    ((v.answer p f st ep xs d).port p).queue = (v.port p).queue := by
  have kept : ((v.setPort p { v.port p with
      saved := (v.mkResp p f st ep xs d :: (v.port p).saved).take 16, sent := some (v.mkResp p f st ep xs d), serving := none }).port
      p).queue = (v.port p).queue := by rw [Vp.port_setPort_same]
  unfold Vp.answer
  dsimp only
  split
  · exact kept
  · exact kept

/-- The port's queue is empty after an answer where it was before what led to it. -/
theorem answer_idle {u : Vp} (h : PortsStand v u) (idle : (v.port p).queue = []) (f : HFrame) (st ep : Nat) (xs : List RItem)
    (d : List Nat) : ((u.answer p f st ep xs d).port p).queue = [] := by
  rw [answer_queue, h.port, idle]

theorem arrived_port (f : HFrame) :
    (v.arrived p f).port p = { v.port p with dst := f.src, dstVlan := f.vlan, serving := some f, queue := [] } :=
  Vp.port_setPort_same _ p _

theorem setPort_reg (v : Vp) (p : Nat) (x : PortSt) (a : Nat) : (v.setPort p x).reg a = v.reg a := rfl

theorem arrived_reg (f : HFrame) {a : Nat} (h1 : a ≠ Reg.HOST_P_RX_CNT p) (h2 : a ≠ Reg.HOST_P_LAST p)
    (h3 : a ≠ Reg.HOST_P_STAT p) : (v.arrived p f).reg a = v.reg a := by
  unfold Vp.arrived Vp.addFld
  dsimp only
  rw [setPort_reg, Vp.reg_setBit_other _ _ _ h3, Vp.reg_setReg_other _ _ h2, Vp.reg_setFld_other _ _ _ _ h1]

/-- A frame has come to a port and stands in its queue. -/
def queued (v : Vp) (p : Nat) (f : HFrame) : Vp :=
  (((v.addFld (Reg.HOST_P_RX_CNT p) 0 16 1).setReg (Reg.HOST_P_LAST p)
    (w32 (f.tag % 65536 + f.body.typ % 256 * 65536))).setBit (Reg.HOST_P_STAT p) 2 true).setPort p
    { v.port p with dst := f.src, dstVlan := f.vlan, queue := (v.port p).queue ++ [f] }

theorem arrive_queued {f : HFrame} (on : v.portOn p = true) (queue : (v.port p).queue = [])
    (other : ∀ op key, f.body ≠ .trip op key) : v.arrive p f = Vp.portRun p 9 (queued v p f) := by
  unfold Vp.portOn at on
  simp only [Bool.and_eq_true, Bool.not_eq_true'] at on
  obtain ⟨⟨⟨hp, en⟩, here⟩, tx⟩ := on
  have taken : v.portOn p = true := by simp [Vp.portOn, hp, en, here, tx]
  unfold Vp.arrive
  rw [if_neg (by simp [hp, here, tx]), if_neg (by simp [taken])]
  cases hb : f.body with
  | trip op key => exact absurd hb (other op key)
  | _ =>
    dsimp only
    rw [if_neg (by simp [queue]), if_neg (by decide)]
    unfold queued
    rw [hb]

/-- The frame takes the port's only place: it is the one that the port serves. -/
theorem portRun_queued {f : HFrame} (none : (v.port p).serving = none) (queue : (v.port p).queue = []) (n : Nat) :
    Vp.portRun p (n + 1) (queued v p f) = Vp.portRun p n ((v.arrived p f).serve p f) := by
  have port : (queued v p f).port p = { v.port p with dst := f.src, dstVlan := f.vlan, queue := [f] } := by
    unfold queued
    rw [Vp.port_setPort_same, queue]
    rfl
  have taken : (queued v p f).setPort p { (queued v p f).port p with serving := some f, queue := [] } = v.arrived p f := by
    rw [port]
    unfold queued Vp.arrived Vp.setPort
    dsimp only
    rw [sset_sset _ (fun h => by simpa using congrArg PortSt.queue h) (fun h => by simpa using congrArg PortSt.serving h)]
  rw [← taken]
  conv_lhs => unfold Vp.portRun
  dsimp only
  rw [port]
  dsimp only
  rw [none]

/-- A fresh frame at a free port is acted on at once. -/
theorem arrive_free {f : HFrame} (free : v.portFree p f.tag = true) (other : ∀ op key, f.body ≠ .trip op key)
    (idle : (((v.arrived p f).act p f).port p).queue = []) : v.arrive p f = (v.arrived p f).act p f := by
  unfold Vp.portFree at free
  simp only [Bool.and_eq_true, Option.isNone_iff_eq_none, List.isEmpty_iff] at free
  obtain ⟨⟨⟨on, none⟩, queue⟩, fresh⟩ := free
  have unsaved : ((v.arrived p f).port p).saved.find? (fun r => r.tag == f.tag) = Option.none := by
    rw [arrived_port, List.find?_eq_none]
    intro r hr
    have := List.all_eq_true.mp fresh r hr
    simpa using this
  have served : (v.arrived p f).serve p f = (v.arrived p f).act p f := by
    unfold Vp.serve
    rw [unsaved]
  rw [arrive_queued on queue other, portRun_queued none queue, served]
  exact portRun_idle 8 idle

/-- A fresh frame at a free port ends as what acting on it makes, where that leaves no frame waiting. -/
theorem arrives {f : HFrame} {w : Vp} (free : v.portFree p f.tag = true) (other : ∀ op key, f.body ≠ .trip op key)
    (acts : (v.arrived p f).act p f = w) (idle : (w.port p).queue = []) : v.arrive p f = w := by
  subst acts
  exact arrive_free free other idle

theorem arrived_idle (f : HFrame) : ((v.arrived p f).port p).queue = [] := by rw [arrived_port]

theorem arrived_cfg (f : HFrame) : (v.arrived p f).reg (Reg.HOST_P_CFG p) = v.reg (Reg.HOST_P_CFG p) :=
  arrived_reg f (by unfold Reg.HOST_P_CFG Reg.HOST_P_RX_CNT; omega) (by unfold Reg.HOST_P_CFG Reg.HOST_P_LAST; omega)
    (by unfold Reg.HOST_P_CFG Reg.HOST_P_STAT; omega)

theorem arrived_hasCmd (f : HFrame) : (v.arrived p f).hasCmd p = v.hasCmd p := congrArg (bit · 1) (arrived_cfg f)

theorem arrived_paired (hp : p < 4) (f : HFrame) : (v.arrived p f).paired = v.paired :=
  congrArg (bit · 0) (arrived_reg f (a := Reg.PEER_CFG) (by unfold Reg.PEER_CFG Reg.HOST_P_RX_CNT; omega)
    (by unfold Reg.PEER_CFG Reg.HOST_P_LAST; omega) (by unfold Reg.PEER_CFG Reg.HOST_P_STAT; omega))

/-- What an arrival does not set: all but registers and the port. -/
theorem arrived_host (f : HFrame) : ∃ ports, (v.arrived p f).host = { v.host with ports := ports } := by
  unfold Vp.arrived Vp.addFld Vp.setBit Vp.setFld Vp.setPort
  dsimp only
  rw [Vp.setReg_host, Vp.setReg_host, Vp.setReg_host]
  exact ⟨_, rfl⟩

theorem arrived_token (f : HFrame) : (v.arrived p f).host.token = v.host.token := by
  obtain ⟨ports, h⟩ := arrived_host (v := v) (p := p) f
  rw [h]

theorem arrived_staged (f : HFrame) : (v.arrived p f).host.staged = v.host.staged := by
  obtain ⟨ports, h⟩ := arrived_host (v := v) (p := p) f
  rw [h]

theorem arrived_clock (f : HFrame) : (v.arrived p f).frameNo = v.frameNo ∧ (v.arrived p f).launched = v.launched
    ∧ (v.arrived p f).frameOfs = v.frameOfs := by
  unfold Vp.arrived Vp.addFld Vp.setBit Vp.setFld Vp.setPort
  dsimp only
  rw [Vp.setReg_frameNo, Vp.setReg_frameNo, Vp.setReg_frameNo, Vp.setReg_launched, Vp.setReg_launched, Vp.setReg_launched,
    Vp.setReg_frameOfs, Vp.setReg_frameOfs, Vp.setReg_frameOfs]
  exact ⟨rfl, rfl, rfl⟩

theorem arrived_readCrosses (hp : p < 4) (f : HFrame) (xs : List (Nat × Nat)) :
    (v.arrived p f).readCrosses xs = v.readCrosses xs := by
  have period : (v.arrived p f).fpU = v.fpU :=
    congrArg (fun w => periodNs (fld w 0 4) * nsUnit) (arrived_reg f (a := Reg.TIME_FRAME_CFG)
      (by unfold Reg.TIME_FRAME_CFG Reg.HOST_P_RX_CNT; omega) (by unfold Reg.TIME_FRAME_CFG Reg.HOST_P_LAST; omega)
      (by unfold Reg.TIME_FRAME_CFG Reg.HOST_P_STAT; omega))
  obtain ⟨-, on, ofs⟩ := arrived_clock (v := v) (p := p) f
  unfold Vp.readCrosses
  rw [period, on, ofs]

theorem arrived_msgStat (f : HFrame) : (v.arrived p f).reg (Reg.HOST_P_MSG_STAT p) = v.reg (Reg.HOST_P_MSG_STAT p) :=
  arrived_reg f (by unfold Reg.HOST_P_MSG_STAT Reg.HOST_P_RX_CNT; omega)
    (by unfold Reg.HOST_P_MSG_STAT Reg.HOST_P_LAST; omega) (by unfold Reg.HOST_P_MSG_STAT Reg.HOST_P_STAT; omega)

theorem pairMode_alone (h : v.paired = false) : v.pairMode = false := by
  unfold Vp.pairMode
  rw [h]
  rfl

theorem isB_alone (h : v.paired = false) : v.isB = false := by
  unfold Vp.isB
  rw [h]
  rfl

theorem port_of_portFree {tag : Nat} (free : v.portFree p tag = true) : p < 4 := by
  unfold Vp.portFree Vp.portOn at free
  simp only [Bool.and_eq_true, decide_eq_true_eq] at free
  exact free.1.1.1.1.1.1

theorem holdsToken_alone (alone : v.paired = false) (held : v.host.token = some (p, false)) : v.holdsToken p = true := by
  unfold Vp.holdsToken
  rw [held, isB_alone alone]
  exact beq_self_eq_true _

/-! ### Acting on a frame -/

section
variable {f : HFrame}

theorem readNow_idle (xs : List (Nat × Nat)) (h : (v.port p).queue = []) : ((v.readNow p f xs).port p).queue = [] := by
  have faults (u : Vp) (l : List Nat) : (l.foldl (fun u a => u.busFault (0x20 + p) a 0) u).host = u.host :=
    foldl_keeps (p := fun u : Vp => u.host) (fun u a => (SameButReports.raiseAll u 0 (0x20 + p) _).host) l u
  unfold Vp.readNow Vp.port
  rw [faults]
  exact (answer_queue f stOk v.epochNo _ []).trans h

theorem act_read {xs : List (Nat × Nat)} (hb : f.body = .read xs) (fits : 32 + 8 * xs.length + 4 * readWords xs ≤ 1500) :
    v.act p f = if v.readCrosses xs then v else v.readNow p f xs := by
  unfold Vp.act
  rw [hb]
  exact if_neg (by omega)

theorem takeToken_alone (alone : v.paired = false) (cmd : v.hasCmd p = true) (op : Nat) : v.takeToken p f op =
    (v.tokenAsk (p, false) op).1.reply p f (if (v.tokenAsk (p, false) op).2 then stOk else stRole) := by
  unfold Vp.takeToken
  rw [if_neg (by simp [cmd]), if_neg (by simp [pairMode_alone alone]), isB_alone alone]

theorem tokenAsk_free {who : Nat × Bool} (none : v.host.token = none) :
    v.tokenAsk who 1 = (v.setToken (some who), true) := by
  unfold Vp.tokenAsk
  exact (if_pos rfl).trans (if_pos none)

theorem tokenAsk_release {who : Nat × Bool} (held : v.host.token = some who) :
    v.tokenAsk who 2 = (v.setToken none, true) := by
  unfold Vp.tokenAsk
  exact (if_neg (by decide)).trans (if_pos held)

theorem takeCancel_staged (alone : v.paired = false) (hp : p < 4) (cmd : v.hasCmd p = true)
    (held : v.host.token = some (p, false)) {tag : Nat} {b : Bundle}
    (found : v.host.staged.find? (fun b => b.own && b.port == p && b.tag == tag) = some b) (early : v.frameNo + 2 ≤ b.target) :
    v.takeCancel p f tag = ((v.unstage b false).timeDrop b).reply p f stOk
      ∧ PortsStand v ((v.unstage b false).timeDrop b) := by
  have port : b.port < 4 := by
    have := List.find?_some found
    simp only [Bool.and_eq_true, beq_iff_eq] at this
    omega
  have stand := (PortsStand.unstage v port false).trans (PortsStand.timeDrop _ b)
  refine ⟨?_, stand⟩
  unfold Vp.takeCancel
  rw [if_neg (by simp [cmd, holdsToken_alone alone held]), found]
  dsimp only
  rw [if_neg (by omega), if_neg (by simp [pairMode_alone (stand.paired.trans alone)])]

theorem takePost_taken (alone : v.paired = false) (cmd : v.hasCmd p = true) (held : v.host.token = some (p, false)) {j : Nat}
    (hj : j ≤ 127) : v.takePost p f j = (v.post (.event (128 + j))).reply p f stOk := by
  unfold Vp.takePost
  rw [if_neg (by simp [cmd, holdsToken_alone alone held]), if_neg (by omega)]

/-- A message stands in the port's receive buffer. -/
def msgHeld (v : Vp) (p len : Nat) (data : List Word) : Vp :=
  let v := (List.range ((len + 3) / 4)).foldl (fun v i => v.setReg (Reg.HOST_P_MSG_RX (256 * p + i)) (data.getD i 0)) v
  (v.setFld (Reg.HOST_P_MSG_STAT p) 0 11 len).setBit (Reg.HOST_P_MSG_STAT p) 11 true

theorem msgHeld_host (len : Nat) (data : List Word) : (msgHeld v p len data).host = v.host := by
  unfold msgHeld Vp.setBit Vp.setFld
  dsimp only
  rw [Vp.setReg_host, Vp.setReg_host]
  exact foldl_keeps (p := fun u : Vp => u.host) (fun u i => Vp.setReg_host u _ _) (List.range ((len + 3) / 4)) v

theorem port_of_host {u : Vp} (h : u.host = v.host) : u.port p = v.port p := by
  unfold Vp.port
  rw [h]

theorem post_host (v : Vp) (i : Input) : (v.post i).host = v.host := rfl

theorem msgTaken_idle (f : HFrame) (len : Nat) (data : List Word) (idle : (v.port p).queue = []) :
    ((((msgHeld v p len data).post (.event (48 + p))).reply p f stOk).port p).queue = [] := by
  rw [Vp.reply, answer_queue, port_of_host ((post_host _ _).trans (msgHeld_host _ _)), idle]

theorem takeMsg_taken (on : v.bit (Reg.HOST_P_CFG p) 3 = true) {len : Nat} (fits : len ≤ 1024)
    (room : v.bit (Reg.HOST_P_MSG_STAT p) 11 = false) (data : List Word) :
    v.takeMsg p f len data = ((msgHeld v p len data).post (.event (48 + p))).reply p f stOk := by
  unfold Vp.takeMsg
  rw [if_neg (by simp [on]), if_neg (by omega), if_neg (by simp [room])]
  rfl

end

end

/-- Settles O39: the frame is the one that the port serves; acting on it leaves the port's queue empty, so no other frame
follows. -/
theorem hostRequests : Obligations.HostRequests := by
  unfold Obligations.HostRequests
  intro s h run alone free p u
  have hp : p < 4 := port_of_portFree free
  have alone' (b : HBody) : (u b).paired = false := (arrived_paired hp _).trans alone
  have step {b : HBody} {w : Vp} (other : ∀ op key, b ≠ .trip op key) (acts : (u b).act p (hostFrame h b) = w)
      (idle : (w.port p).queue = []) :
      (.next (s.onVp (fun v => v.arrive p (hostFrame h b))) : Host.Outcome State Fault Refusal) = .next (s.after w) :=
    vp_runs run (f := fun v => v.arrive p (hostFrame h b)) (arrives (f := hostFrame h b) free other acts idle)
  have cmd' {b : HBody} (cmd : s.vp.hasCmd p = true) : (u b).hasCmd p = true := (arrived_hasCmd _).trans cmd
  refine ⟨fun typ => ?_, fun xs fits now => ?_, fun xs fits crosses => ?_, fun cmd none => ?_, fun cmd held => ?_,
    fun tag b cmd held found early => ?_, fun j cmd held hj => ?_, fun len data on fits room => ?_⟩
  · exact step (by simp) rfl (answer_idle (.refl _) (arrived_idle _) _ _ _ _ _)
  · refine step (by simp) ((act_read rfl fits).trans (if_neg ?_)) (readNow_idle xs (arrived_idle _))
    rw [arrived_readCrosses hp, now]
    decide
  · refine step (by simp) ((act_read rfl fits).trans (if_pos ?_)) (arrived_idle _)
    rw [arrived_readCrosses hp, crosses]
  · refine step (by simp) ((takeToken_alone (alone' _) (cmd' cmd) 1).trans ?_)
      (answer_idle (PortsStand.setToken _ _) (arrived_idle _) _ _ _ _ _)
    rw [tokenAsk_free ((arrived_token _).trans none)]
    rfl
  · refine step (by simp) ((takeToken_alone (alone' _) (cmd' cmd) 2).trans ?_)
      (answer_idle (PortsStand.setToken _ _) (arrived_idle _) _ _ _ _ _)
    rw [tokenAsk_release ((arrived_token _).trans held)]
    rfl
  · obtain ⟨acts, stand⟩ := takeCancel_staged (f := hostFrame h (.cancel tag)) (alone' (.cancel tag)) hp (cmd' cmd)
      ((arrived_token _).trans held) ((congrArg (List.find? _) (arrived_staged _)).trans found)
      ((congrArg (· + 2) (arrived_clock _).1).trans_le early)
    exact step (by simp) acts (answer_idle stand (arrived_idle _) _ _ _ _ _)
  · exact step (by simp) (takePost_taken (alone' _) (cmd' cmd) ((arrived_token _).trans held) hj)
      (answer_idle (PortsStand.post _ _) (arrived_idle _) _ _ _ _ _)
  · have on' : (u (.msg len data)).bit (Reg.HOST_P_CFG p) 3 = true := (congrArg (bit · 3) (arrived_cfg _)).trans on
    have room' : (u (.msg len data)).bit (Reg.HOST_P_MSG_STAT p) 11 = false :=
      (congrArg (bit · 11) (arrived_msgStat _)).trans room
    exact step (w := ((msgHeld (u (.msg len data)) p len data).post (.event (48 + p))).reply p (hostFrame h (.msg len data)) stOk)
      (by simp) (takeMsg_taken on' fits room' data) (msgTaken_idle _ _ _ (arrived_idle _))

end Sys2Proof.Proofs

end

section
/-!
PROOFS. The host ports, continued: bundles (O40), what happens beside requests (O42), and the seal (O43).
-/

namespace Sys2Proof.Proofs

open Sys2Proof Sys2Proof.Machine

/-! ### Bundles -/

section
variable {v : Vp} {p : Nat}

/-- A bundle that passes its tests is staged and answered, for a VP alone. -/
theorem takeBundle_staged (alone : v.paired = false) (f : HFrame) {b : Bundle} (role : v.bundleRole p b = true)
    (ok : v.bundleTest b 2 = stOk) : v.takeBundle p f b = (v.stage b).bundleAnswer p f b stOk := by
  unfold Vp.takeBundle
  rw [if_neg (by simp [role])]
  dsimp only
  rw [if_neg (by simp [ok]), if_neg (by simp [pairMode_alone alone])]

end

/-- Is the body a bundle? -/
def isBundle : HBody → Bool
  | .write _ _ | .command _ _ => true
  | _ => false

theorem act_bundle (v : Vp) (p : Nat) {f : HFrame} (h : isBundle f.body = true) :
    v.act p f = v.takeBundle p f (mkBundle p f f.body) := by
  unfold Vp.act
  cases hb : f.body with
  | write t xs => rfl
  | command t cs => rfl
  | _ => rw [hb] at h; exact absurd h Bool.false_ne_true

/-- A frame with a bundle that passes its tests, at a free port. -/
theorem arrive_bundle {s : State} (h : HostHdr) {body : HBody} (run : s.vp.runs = true) (alone : s.vp.paired = false)
    (free : s.vp.portFree h.port h.tag = true) (bundle : isBundle body = true)
    (role : (s.vp.arrived h.port (hostFrame h body)).bundleRole h.port (mkBundle h.port (hostFrame h body) body) = true)
    (ok : (s.vp.arrived h.port (hostFrame h body)).bundleTest (mkBundle h.port (hostFrame h body) body) 2 = stOk) :
    (.next (s.onVp (fun v => v.arrive h.port (hostFrame h body))) : Host.Outcome State Fault Refusal) =
      .next (s.after (((s.vp.arrived h.port (hostFrame h body)).stage (mkBundle h.port (hostFrame h body) body)).bundleAnswer
        h.port (hostFrame h body) (mkBundle h.port (hostFrame h body) body) stOk)) := by
  have alone' := (arrived_paired (v := s.vp) (port_of_portFree free) (hostFrame h body)).trans alone
  refine vp_runs run (f := fun v => v.arrive h.port (hostFrame h body)) (arrives (f := hostFrame h body) free ?_
    ((act_bundle _ _ bundle).trans (takeBundle_staged alone' _ role ok))
    (answer_idle (PortsStand.stage _ _) (arrived_idle _) _ _ _ _ _))
  intro op key hb
  exact absurd bundle (by rw [show body = .trip op key from hb]; exact Bool.false_ne_true)

/-- Settles O40: each form arrives as a frame with a bundle. -/
theorem hostBundles : Obligations.HostBundles := by
  unfold Obligations.HostBundles
  intro s h i body run alone free form f u b role ok
  rcases form with ⟨t, xs, rfl, rfl⟩ | ⟨t, arms, rest, rfl, rfl⟩ | ⟨t, arms, rest, rfl, rfl⟩ | ⟨t, j, w, rest, rfl, rfl⟩
    | ⟨t, c, w, rest, rfl, rfl⟩
  all_goals exact arrive_bundle h run alone free rfl role ok

/-! ### The seal -/

section
variable {v : Vp}

theorem sealOpens_open (shut : v.sealOpen = false) (pins : v.sealPins = true) (quiet : v.bit Reg.HOST_SEAL 4 = false)
    (good : v.host.sealBad = false) : v.sealOpens = (v.setBit Reg.HOST_SEAL 0 true).sealChanged 4 := by
  unfold Vp.sealOpens
  exact if_neg (by simp [shut, pins, quiet, good])

theorem sealOpens_stays (no : v.sealPins = false ∨ v.bit Reg.HOST_SEAL 4 = true ∨ v.host.sealBad = true) :
    v.sealOpens = v := by
  unfold Vp.sealOpens
  refine if_pos ?_
  rcases no with h | h | h <;> simp [h]

theorem sealClose_stays (stands : v.sealOpen = true) (pins : v.sealPins = true) (quiet : v.bit Reg.HOST_SEAL 4 = false) :
    v.sealClose = v := by
  have kept : v.sealCloses = v := if_pos (by simp [pins, quiet])
  unfold Vp.sealClose
  rw [kept]
  exact if_neg (by simp [stands])

theorem sealClose_shut (stands : v.sealOpen = true) (cause : v.sealPins = false ∨ v.bit Reg.HOST_SEAL 4 = true)
    (shut : v.sealShut.sealOpen = false) : v.sealClose = v.sealShut.imageStop := by
  have closes : v.sealCloses = v.sealShut := by
    refine if_neg ?_
    rcases cause with h | h <;> simp [stands, h]
  unfold Vp.sealClose
  rw [closes]
  exact if_pos (by simp [stands, shut])

theorem sealPinChange_open : v.sealPinChange true false false =
    { (((v.setBit Reg.HOST_SEAL 1 true).setBit Reg.HOST_SEAL 2 false).setBit Reg.HOST_SEAL 3 false) with
      host := { v.host with openSince := if v.host.openSince.isSome then v.host.openSince else some v.up } } := by
  have host : (((v.setBit Reg.HOST_SEAL 1 true).setBit Reg.HOST_SEAL 2 false).setBit Reg.HOST_SEAL 3 false).host = v.host := by
    unfold Vp.setBit Vp.setFld
    rw [Vp.setReg_host, Vp.setReg_host, Vp.setReg_host]
  have up : (((v.setBit Reg.HOST_SEAL 1 true).setBit Reg.HOST_SEAL 2 false).setBit Reg.HOST_SEAL 3 false).up = v.up := by
    unfold Vp.setBit Vp.setFld
    rw [Vp.setReg_up, Vp.setReg_up, Vp.setReg_up]
  unfold Vp.sealPinChange
  rw [show (true == false) = false from rfl]
  dsimp only
  rw [if_neg (by simp), if_neg (by simp), if_pos (by decide), host, up]

end

/-- Settles O43. -/
theorem sealEvents : Obligations.SealEvents := by
  unfold Obligations.SealEvents
  intro s run v
  have pins_open (h1 : v.bit Reg.HOST_SEAL 1 = true) (h2 : v.bit Reg.HOST_SEAL 2 = false) : v.sealPins = true := by
    simp [Vp.sealPins, h1, h2]
  refine ⟨fun shut h1 h2 quiet good => ?_, fun _ no => ?_, fun stands h1 h2 quiet => ?_, ?_, ?_, ?_⟩
  · exact vp_runs run (f := fun v => v.sealOpens) (sealOpens_open shut (pins_open h1 h2) quiet good)
  · refine vp_runs run (f := fun v => v.sealOpens) (sealOpens_stays ?_)
    rcases no with h | h | h | h
    · exact .inl (by rw [Vp.sealPins, h]; rfl)
    · exact .inl (by rw [Vp.sealPins, h]; simp)
    · exact .inr (.inl h)
    · exact .inr (.inr h)
  · exact vp_runs run (f := fun v => v.sealClose) (sealClose_stays stands (pins_open h1 h2) quiet)
  · intro stands cause u u' shut
    exact vp_runs run (f := fun v => v.sealClose) (sealClose_shut stands cause shut)
  · exact vp_runs run (f := fun v => v.sealPinChange true false false) sealPinChange_open
  · exact vp_runs run (f := fun v => v.sealQuiet) rfl

/-! ### What happens beside requests -/

section
variable {v : Vp} {p : Nat}

theorem readStart_now {f : HFrame} {xs : List (Nat × Nat)} (serving : (v.port p).serving = some f) (body : f.body = .read xs)
    (queue : (v.port p).queue = []) (now : v.readCrosses xs = false) : v.readStart p = v.readNow p f xs := by
  unfold Vp.readStart
  rw [serving]
  dsimp only
  rw [body]
  dsimp only
  rw [if_neg (by simp [now])]
  exact portRun_idle 9 (readNow_idle xs queue)

/-- A change of the token leaves every register but the shown interrupt causes and the counts of lost entries. -/
theorem setToken_reg (t : Option (Nat × Bool)) {a : Nat} (stat : a ≠ Reg.HOST_INT_STAT)
    (cnt : ∀ q < 4, a ≠ Reg.HOST_P_EV_CNT q) : (v.setToken t).reg a = v.reg a := by
  have entry (v : Vp) {q : Nat} (hq : q < 4) (e : EvEntry) : (v.portEntry q e).reg a = v.reg a := by
    have away (w : Word) : (v.setReg (Reg.HOST_P_EV_CNT q) w).reg a = v.reg a := Vp.reg_setReg_other v w (cnt q hq)
    unfold Vp.portEntry
    split
    · dsimp only
      split
      · rfl
      · split <;> exact away _
    · rfl
  have hostEntry (v : Vp) (code src data : Nat) : (v.hostEntry code src data).reg a = v.reg a := by
    have step (v : Vp) {q : Nat} (hq : q < 4) (e : EvEntry) (c : Bool) :
        (if c then v.portEntry q e else v).reg a = v.reg a := by
      cases c
      · rfl
      · exact entry v hq e
    unfold Vp.hostEntry
    simp only [List.foldl_cons, List.foldl_nil]
    rw [step _ (by decide), step _ (by decide), step _ (by decide), step _ (by decide)]
  have hostInt (v : Vp) (i : Nat) : (v.hostInt i).reg a = v.reg a := by
    have shown : (v.setBit Reg.HOST_INT_STAT i true).reg a = v.reg a := Vp.reg_setBit_other v i true stat
    unfold Vp.hostInt Vp.intCause
    split
    · rfl
    · dsimp only
      split
      · rw [hostEntry]
        exact shown
      · exact shown
  unfold Vp.setToken
  split
  · rfl
  · rw [hostEntry, hostInt]
    rfl

/-- A VP alone releases the token of its own port and tells nobody. -/
theorem dropToken_alone (alone : v.paired = false) (held : v.host.token = some (p, false)) :
    v.dropToken p = v.setToken none := by
  unfold Vp.dropToken
  rw [if_pos (holdsToken_alone alone held)]
  exact if_neg (by simp [pairMode_alone ((PortsStand.setToken v none).paired.trans alone)])

theorem tokenTimeout_alone (alone : v.paired = false) (held : v.host.token = some (p, false)) :
    v.tokenTimeout = v.setToken none := by
  unfold Vp.tokenTimeout
  rw [held]
  dsimp only
  rw [if_pos (isB_alone alone).symm]
  exact dropToken_alone alone held

/-- A lost link trips only where the port's configuration says so. -/
theorem linkLost_alone (alone : v.paired = false) (held : v.host.token = some (p, false)) (hp : p < 4)
    (noTrip : v.bit (Reg.HOST_P_CFG p) 4 = false) : v.linkLost p = v.setToken none := by
  have cfg : (v.setToken none).bit (Reg.HOST_P_CFG p) 4 = false :=
    (congrArg (bit · 4) (setToken_reg none (by unfold Reg.HOST_P_CFG Reg.HOST_INT_STAT; omega)
      (fun q _ => by unfold Reg.HOST_P_CFG Reg.HOST_P_EV_CNT; omega))).trans noTrip
  unfold Vp.linkLost
  rw [if_neg (by simp [hp]), dropToken_alone alone held]
  exact if_neg (by simp [cfg])

theorem written_HOST_P_MSG_SEND (v : Vp) (m : Nat) (w : Word) {i : Nat} (hi : i < 4) :
    v.written m (Reg.HOST_P_MSG_SEND i) w = v.msgSend i (fld w 0 11)
      ((List.range ((fld w 0 11 + 3) / 4)).map (fun k => v.reg (Reg.HOST_P_MSG_TX (256 * i + k)))) := by
  have rows : ∀ i < 4, hasAcc (Reg.HOST_P_MSG_SEND i) .wo = true ∧ Reg.HOST_P_MSG_SEND i % 0x10000 < 0xFF00
      ∧ stickyClr (Reg.HOST_P_MSG_SEND i) = false ∧ wideBelow (Reg.HOST_P_MSG_SEND i) = false
      ∧ wideLower (Reg.HOST_P_MSG_SEND i) = [] := by decide
  obtain ⟨row, low, sticky⟩ := rows i hi
  obtain ⟨r, hr, acc⟩ := hasAcc_row row
  rw [Vp.written_row hr, Vp.effect_block (by simp [acc]) low sticky]
  have block : Reg.HOST_P_MSG_SEND i / 0x10000 % 16 = 11 := by unfold Reg.HOST_P_MSG_SEND; omega
  have offset : Reg.HOST_P_MSG_SEND i % 0x10000 = 300 + i * 64 := by unfold Reg.HOST_P_MSG_SEND; omega
  have index : (300 + i * 64 - 256) / 64 = i := by omega
  have place : (300 + i * 64) % 64 = 44 := by omega
  simp only [block, offset]
  unfold Vp.wHost
  rw [if_pos (by omega)]
  simp only [index, place]

theorem eventSend_entries (on : v.portOn p = true) (some : (sget (fun _ => []) v.evq p).isEmpty = false)
    (noneLost : sget (fun _ => 0) v.evLost p = 0) :
    v.eventSend p =
      let q := sget (fun _ => []) v.evq p
      let u := { v with evq := sset (fun _ => []) v.evq p (q.drop 16), evLost := sset (fun _ => 0) v.evLost p 0 }
      (u.setPort p { u.port p with evSent := q.take 16, evHead := .some (u.ownHead p 0xC0 (u.fld (Reg.HOST_P_EV_CNT p) 0 16)) }).addFld
        (Reg.HOST_P_EV_CNT p) 0 16 1 := by
  unfold Vp.eventSend
  dsimp only
  rw [if_neg (by simp [on, some])]
  simp only [noneLost]
  rfl

/-- The partner's confirmation of the bundle that the port serves. -/
theorem confirmed_served {tag : Nat} {b : Bundle} {f : HFrame} (waits : v.waitingBundle p tag = some b)
    (serving : (v.port p).serving = some f) (hf : f.tag = tag) :
    v.confirmed p tag = ({ v with host := { v.host with
      staged := v.host.staged.map (fun x => if x = b then { x with waiting := false } else x) } } : Vp).bundleAnswer p f b
        stOk := by
  have served : Vp.served { v with host := { v.host with
      staged := v.host.staged.map (fun x => if x = b then { x with waiting := false } else x) } } p tag = some f := by
    unfold Vp.served
    rw [show Vp.port { v with host := { v.host with
      staged := v.host.staged.map (fun x => if x = b then { x with waiting := false } else x) } } p = v.port p from rfl, serving]
    exact if_pos hf
  unfold Vp.confirmed
  rw [waits]
  dsimp only
  rw [served]

/-- A bundle that its partner has not confirmed leaves staging, with what that shows. -/
def withdrawn (v : Vp) (p tag : Nat) (b : Bundle) : Vp :=
  let v := { v with host := { v.host with staged := v.host.staged.filter (· != b) } }
  let v := ((v.hostxSend (.withdraw p tag)).timeDrop b).setBit Reg.HOST_STICKY 2 true
  (v.hostInt 6).raise 11 p 3 cor (Reg.HOST_P_STAT p)

theorem withdraw_served {tag : Nat} {b : Bundle} {f : HFrame} (waits : v.waitingBundle p tag = some b) (hf : f.tag = tag)
    (serving : ((withdrawn v p tag b).port p).serving = some f) :
    v.withdraw p tag = (withdrawn v p tag b).bundleAnswer p f b stPartner := by
  have served : (withdrawn v p tag b).served p tag = some f := by
    unfold Vp.served
    rw [serving]
    exact if_pos hf
  have split : v.withdraw p tag = match (withdrawn v p tag b).served p tag with
      | some f => (withdrawn v p tag b).bundleAnswer p f b stPartner
      | none => withdrawn v p tag b := by
    unfold Vp.withdraw
    rw [waits]
    exact rfl
  rw [split, served]

end

/-- Settles O42. -/
theorem hostEvents : Obligations.HostEvents := by
  unfold Obligations.HostEvents
  refine ⟨fun s p run => ?_, fun s p f xs run _ serving body queue now => ?_, fun s p run alone held => ⟨?_, fun hp noTrip => ?_⟩,
    fun s m p w run hp => ⟨fun ok => ?_, fun ok taken => ?_⟩, fun s p run on some noneLost => ?_,
    fun s p tag b f run waits serving hf => ⟨?_, ?_⟩, fun s p tag run pair => ?_⟩
  · exact vp_runs run (f := fun v => v.dropFrame p) rfl
  · exact vp_runs run (f := fun v => v.readStart p) (readStart_now serving body queue now)
  · exact vp_runs run (f := fun v => v.tokenTimeout) (tokenTimeout_alone alone held)
  · exact vp_runs run (f := fun v => v.linkLost p) (linkLost_alone alone held hp noTrip)
  · exact vp_runs run (f := fun v => v.coreWrite m (Reg.HOST_P_MSG_ACK p) w)
      ((Vp.coreWrite_accepts ok).trans (Vp.written_HOST_P_MSG_ACK _ _ _ hp))
  · exact vp_runs run (f := fun v => v.coreWrite m (Reg.HOST_P_MSG_SEND p) w)
      ((Vp.coreWrite_accepts ok).trans ((written_HOST_P_MSG_SEND _ _ _ hp).trans (if_pos taken)))
  · exact vp_runs run (f := fun v => v.eventSend p) (eventSend_entries on some noneLost)
  · exact vp_runs run (f := fun v => v.confirmed p tag) (confirmed_served waits serving hf)
  · intro u x y answered
    exact vp_runs run (f := fun v => v.withdraw p tag) (withdraw_served waits hf answered)
  · refine vp_runs run (f := fun v => v.hostxIn (.withdraw p tag) false) ?_
    unfold Vp.hostxIn
    rw [if_neg (by simp [pair])]
    exact gapped_whole (paired_of_pairMode pair) _

end Sys2Proof.Proofs

end

section
/-!
PROOFS. The analogue inputs (O44): results, calibration, rotation and handover, injected conversions, bursts and streams.
-/

namespace Sys2Proof.Proofs

open Sys2Proof Sys2Proof.Machine

/-! ### Results -/

section
variable {v : Vp} {c : Nat}

/-- The unsettled bit rests on the converters' own state and on nothing that a register holds. -/
theorem setReg_setlBack (a : Nat) (w : Word) : (v.setReg a w).setlBack = v.setlBack := by
  have setl : (v.setReg a w).setl = v.setl := by
    funext c u
    unfold Vp.setl Vp.convCount
    rw [Vp.setReg_adc]
  funext c u j
  unfold Vp.setlBack
  rw [Vp.setReg_adc, setl]

/-- A result is shown with the number of its frame, and is new. -/
def resultShown (v : Vp) (c : Nat) : Vp :=
  (v.setFld (Reg.ADC_CH_RES c) 16 8 v.time.prevNo).setBit Reg.ADC_RES_NEW c true

/-- A result that follows one which has been read overruns none. -/
theorem resultShown_read (taken : v.bit Reg.ADC_RES_NEW c = false) : (let u := v.setFld (Reg.ADC_CH_RES c) 16 8 v.time.prevNo
    (if u.bit Reg.ADC_RES_NEW c then (u.setBit Reg.ADC_RES_OVRUN c true).adcInt 8 else u).setBit Reg.ADC_RES_NEW c true) =
    resultShown v c := by
  have kept : (v.setFld (Reg.ADC_CH_RES c) 16 8 v.time.prevNo).bit Reg.ADC_RES_NEW c = false :=
    (congrArg (bit · c) (Vp.reg_setFld_other _ _ _ _ (by unfold Reg.ADC_RES_NEW Reg.ADC_CH_RES; omega))).trans taken
  dsimp only
  rw [if_neg (by simp [kept])]
  rfl

/-- The registers of results and of the channels' latest conversions are others than the one that says which results are new. -/
theorem newBit_setReg {a : Nat} (h : Reg.ADC_RES_NEW ≠ a) (w : Word) :
    (v.setReg a w).bit Reg.ADC_RES_NEW c = v.bit Reg.ADC_RES_NEW c := congrArg (bit · c) (Vp.reg_setReg_other v w h)

theorem resultOf_none (on : v.chOn c = true) (taken : v.bit Reg.ADC_RES_NEW c = false) (frame : v.frameOf c = none) :
    v.resultOf c = ((((v.setBit (Reg.ADC_CH_RES c) 14 false).setBit (Reg.ADC_CH_RES c) 15 false).setFld (Reg.ADC_CH_RES c) 16 8
      v.time.prevNo).setBit Reg.ADC_RES_NEW c true) := by
  have away : Reg.ADC_RES_NEW ≠ Reg.ADC_CH_RES c := by unfold Reg.ADC_RES_NEW Reg.ADC_CH_RES; omega
  have taken' : ((v.setBit (Reg.ADC_CH_RES c) 14 false).setBit (Reg.ADC_CH_RES c) 15 false).bit Reg.ADC_RES_NEW c = false := by
    unfold Vp.setBit Vp.setFld
    rw [newBit_setReg away, newBit_setReg away, taken]
  unfold Vp.resultOf
  rw [if_neg (by simp [on]), frame]
  refine (resultShown_read taken').trans ?_
  unfold resultShown
  rw [show ((v.setBit (Reg.ADC_CH_RES c) 14 false).setBit (Reg.ADC_CH_RES c) 15 false).time = v.time from rfl]

/-- The result of a frame's conversions as its registers show it, before its frame's number. -/
def resultCode (v : Vp) (c : Nat) (f : FrameCodes) : Vp :=
  let r := Reg.ADC_CH_RES c
  let n := f.codes.length
  let last := f.codes.getLastD (0, false)
  let code := if v.bit (Reg.ADC_CH_CFG c) 0 then last.1 else meanAway f.sum n
  let u := ((v.setFld r 0 14 (code14 code)).setBit r 14 false).setBit r 15 ((List.range n).any (v.setlBack c f.at_))
  u.setReg (Reg.ADC_CH_LAST c) (w32 (code14 last.1 + b2n last.2 * 2 ^ 14 + b2n (u.setl c f.at_) * 2 ^ 15
    + u.sliceOf c * 2 ^ 16))

theorem resultOf_frame (on : v.chOn c = true) (taken : v.bit Reg.ADC_RES_NEW c = false) {f : FrameCodes}
    (frame : v.frameOf c = some f) (within : v.frameOver f = false) :
    v.resultOf c = ((resultCode v c f).setFld (Reg.ADC_CH_RES c) 16 8 v.time.prevNo).setBit Reg.ADC_RES_NEW c true := by
  have away : Reg.ADC_RES_NEW ≠ Reg.ADC_CH_RES c := by unfold Reg.ADC_RES_NEW Reg.ADC_CH_RES; omega
  have away' : Reg.ADC_RES_NEW ≠ Reg.ADC_CH_LAST c := by unfold Reg.ADC_RES_NEW Reg.ADC_CH_LAST; omega
  have taken' : (resultCode v c f).bit Reg.ADC_RES_NEW c = false := by
    unfold resultCode Vp.setBit Vp.setFld
    rw [newBit_setReg away', newBit_setReg away, newBit_setReg away, newBit_setReg away, taken]
  have time : (resultCode v c f).time = v.time := by
    unfold resultCode Vp.setBit Vp.setFld
    rw [Vp.setReg_time, Vp.setReg_time, Vp.setReg_time, Vp.setReg_time]
  unfold Vp.resultOf
  rw [if_neg (by simp [on]), frame]
  dsimp only
  rw [within]
  simp only [Bool.false_and, Bool.false_eq_true, if_false]
  rw [show (v.setFld (Reg.ADC_CH_RES c) 0 14
    (code14 (if v.bit (Reg.ADC_CH_CFG c) 0 = true then (f.codes.getLastD (0, false)).1 else meanAway f.sum f.codes.length))).setlBack
      = v.setlBack from setReg_setlBack _ _]
  refine (resultShown_read taken').trans ?_
  unfold resultShown
  rw [time]

end

/-! ### Injected conversions, the calibrator -/

section
variable {v : Vp}

/-- A request for an injected conversion of a channel (R298). -/
theorem injOne_eq : Vp.injOne = fun v c =>
    if v.chServed c = false then v.setBit Reg.ADC_STICKY 0 true
    else if v.bit Reg.ADC_INJ_PEND c then v
    else if v.lp && decide (v.up < v.adc.burstEnd) then
      ((v.addFld Reg.ADC_INJ_CNT 16 16 1).setBit Reg.ADC_STICKY 4 true).adcInt 3
    else ({ v with adc := { v.adc with injSlice := sput c (v.sliceOf c) v.adc.injSlice } }).setBit Reg.ADC_INJ_PEND c true := by
  funext v c
  unfold Vp.injOne
  cases v.chServed c <;> rfl

theorem calCmd_all {w : Word} (sealed : v.sealOpen = true) (all : bit w 0 = true) (blocked : armIds.any v.armRuns = false) :
    v.calCmd w = v.calAll := by
  unfold Vp.calCmd
  rw [if_neg (by simpa [Vp.sealOpen] using sealed), if_pos all, if_neg (by simp [blocked])]

theorem calCmd_one {w : Word} (sealed : v.sealOpen = true) (notAll : bit w 0 = false) (one : bit w 1 = true) :
    v.calCmd w = v.calOne (fld w 8 5) := by
  unfold Vp.calCmd
  rw [if_neg (by simpa [Vp.sealOpen] using sealed), if_neg (by simp [notAll]), if_pos one]

/-- All calibrations and handovers under way are given up, and no channel converts any longer (R300). -/
def calCleared (v : Vp) : Vp :=
  let keep := (List.range 16).foldl (fun b c => if v.adc.onMoon.testBit c && v.sliceGone c then putBit b c true else b) 0
  let v := { v with adc := { v.adc with ho := [], onMoon := keep, waitAt := none, next := none } }.setBit
    Reg.ADC_CAL_STAT 1 false
  { v with adc := { v.adc with runs := v.adc.runs.map (fun r => { r with n := r.upTo v.up }) } }

theorem calAll_eq : v.calAll = match (calCleared v).nextAll 0 with
    | some s => ((calCleared v).calStart .all s).adcSync
    | none => calCleared v := rfl

theorem calAll_some {x : Nat} (next : (calCleared v).nextAll 0 = some x) :
    v.calAll = ((calCleared v).calStart .all x).adcSync := by
  rw [calAll_eq, next]

theorem calAll_none (next : (calCleared v).nextAll 0 = none) : v.calAll = calCleared v := by
  rw [calAll_eq, next]

theorem calOne_refused {x : Nat}
    (no : v.bit Reg.ADC_MODE 1 = true ∨ v.adc.kind ≠ .none ∨ 18 ≤ x ∨ v.sliceGone x = true) :
    v.calOne x = v.setBit Reg.ADC_STICKY 0 true := by
  unfold Vp.calOne
  refine if_pos ?_
  rcases no with h | h | h | h <;> simp [h]

section
variable {x : Nat} (still : v.bit Reg.ADC_MODE 1 = false) (idle : v.adc.kind = .none) (here : x < 18)
  (there : v.sliceGone x = false) (moonIdle : 16 ≤ x → v.moonCh (x - 16) = 31)
include still idle here there moonIdle

theorem calOne_lp (lp : v.lp = true) : v.calOne x = (v.calStart .one x).adcSync := by
  unfold Vp.calOne
  rw [if_neg (by simp [still, idle, here, there, lp]; exact moonIdle), if_pos lp]

theorem calOne_normal (lp : v.lp = false) (ready : v.canReady x = true) : v.calOne x = (v.calTake .one x).adcSync := by
  unfold Vp.calOne
  rw [if_neg (by simp [still, idle, here, there, lp, ready]; exact moonIdle), if_neg (by simp [lp])]

end

theorem calTake_at_once {x : Nat} (k : CalKind) (direct : v.viaMoon x = false ∨ v.adc.onMoon.testBit x = true) :
    v.calTake k x = v.calStart k x := by
  unfold Vp.calTake
  rcases direct with h | h
  · exact if_neg (by simp [h])
  · rw [if_pos h]
    exact ite_self _

theorem calTake_over {x : Nat} (k : CalKind) (via : v.viaMoon x = true) (off : v.adc.onMoon.testBit x = false) :
    v.calTake k x = (v.setCal k x false).hoStart x false := by
  unfold Vp.calTake
  rw [if_pos via, if_neg (by simp [off])]

/-- The result of an injected conversion of channel `c` by slice `x` is shown: a code, and whether it is over range. -/
def injShown (v : Vp) (c x : Nat) (code : Int) (ovr : Bool) : Vp :=
  v.setReg (Reg.ADC_INJ_RES c)
    (w32 (code14 code + b2n ovr * 2 ^ 14 + b2n (v.setl c (v.up - 28)) * 2 ^ 15 + 2 ^ 16 + x * 2 ^ 17))

/-- The frame `n` and the time `t` of the sample that has been shown, the count, the cause and the over-range conversion
(R293, R299). -/
def injTimed (u : Vp) (c n t : Nat) (ovr hard : Bool) : Vp :=
  let u := u.setReg (Reg.ADC_INJ_TS c) (w32 (t % 2 ^ 24 + n % 64 * 2 ^ 24))
  let u := ((u.setBit Reg.ADC_INJ_PEND c false).addFld Reg.ADC_INJ_CNT 0 16 1).adcInt 2
  if ovr then u.overRange c hard else u

/-- The injected conversion of channel `c` pends no longer. -/
def injEnded (u : Vp) (c : Nat) : Vp :=
  ({ u with adc := { u.adc with injSlice := sdel c u.adc.injSlice } }).calWaitEnd.adcSync

theorem injResult_pending {c x n t : Nat} {raw code : Int} {limit hard ovr : Bool} (hc : c < 16)
    (pend : v.bit Reg.ADC_INJ_PEND c = true) (hx : v.injFrom c = x) (hr : v.slCode x c raw limit = (code, ovr))
    (hq : (injShown v c x code ovr).frameTime (28 * (injShown v c x code ovr).incr
      + (injShown v c x code ovr).fld (Reg.ADC_CH_DLY c) 0 16 * 2 ^ 28) = (n, t)) :
    v.injResult c raw limit hard = injEnded (injTimed (injShown v c x code ovr) c n t ovr hard) c := by
  unfold Vp.injResult injEnded
  -- `frameTime` of a product with 2^28 must stay a variable: the kernel would work the product out in unary.
  obtain ⟨frameTime, hf⟩ : ∃ f, Vp.frameTime = f := ⟨_, rfl⟩
  obtain ⟨sync, hs⟩ : ∃ f, Vp.adcSync = f := ⟨_, rfl⟩
  rw [hf] at hq ⊢
  rw [hs, if_neg (by simp [pend, hc]), hx]
  extract_lets s setl
  rw [show v.slCode s c raw limit = (code, ovr) from hr]
  split
  rename_i code' ovr' same
  obtain ⟨rfl, rfl⟩ := Prod.mk.inj same
  extract_lets u
  rw [show u = injShown v c x code ovr from rfl, hq]
  exact rfl

/-! ### The end of a calibration, the rotation, a handover -/

/-- The calibrator is free again after slice `x`, whose channel its moon gives back. -/
def calFreed (v : Vp) (x : Nat) : Vp :=
  let u := { v with adc := { v.adc with kind := .none, slice := 31, busy := false } }.backIfMoon x
  if 16 ≤ x then u.moonAdopt (x - 16) else u

section
variable {ofs : Int} {gain : Nat} (busy : v.adc.busy = true)
include busy

theorem calDone_one (kind : (v.takeFactors v.adc.slice ofs gain).adc.kind = .one) :
    v.calDone ofs gain = ((calFreed (v.takeFactors v.adc.slice ofs gain) v.adc.slice).adcInt 4).adcSync := by
  unfold Vp.calDone
  rw [if_neg (by simp [busy])]
  dsimp only
  rw [kind]
  exact rfl

theorem calDone_rot (kind : (v.takeFactors v.adc.slice ofs gain).adc.kind = .rot) :
    v.calDone ofs gain = (calFreed (v.takeFactors v.adc.slice ofs gain) v.adc.slice).passEnd.stepStart.adcSync := by
  unfold Vp.calDone
  rw [if_neg (by simp [busy])]
  dsimp only
  rw [kind]
  exact rfl

theorem calDone_all {y : Nat} (kind : (v.takeFactors v.adc.slice ofs gain).adc.kind = .all)
    (next : (v.takeFactors v.adc.slice ofs gain).nextAll (v.adc.slice + 1) = some y) :
    v.calDone ofs gain = ((v.takeFactors v.adc.slice ofs gain).calStart .all y).adcSync := by
  unfold Vp.calDone
  rw [if_neg (by simp [busy])]
  dsimp only
  rw [kind]
  dsimp only
  rw [next]

end

/-- The step of slice `x`, to be calibrated again, is made ready. -/
def stepAgain (v : Vp) (x : Nat) : Vp := { v with adc := { v.adc with next := some (x, none) } }

theorem rotationNext_again {x : Nat} {rest : List Nat} (on : v.rotOn = true) (free : v.adc.next = none)
    (idle : v.adc.kind = .none) (again : v.adc.again.filter (· != v.adc.slice) = x :: rest) (ready : v.canReady x = true) :
    v.rotationNext = v.stepReady x none := by
  unfold Vp.rotationNext
  rw [if_neg (by simp [on, free, idle]), again]
  exact if_pos ready

theorem stepReady_over {x : Nat} (via : v.viaMoon x = true) (off : v.adc.onMoon.testBit x = false) :
    v.stepReady x none = (stepAgain v x).hoStart x false := by
  unfold Vp.stepReady
  exact if_pos ⟨via, by simp [off]⟩

theorem stepReady_direct {x : Nat} (on : v.rotOn = true) (idle : v.adc.kind = .none)
    (direct : v.viaMoon x = false ∨ v.adc.onMoon.testBit x = true) :
    v.stepReady x none =
      ({ v with adc := { v.adc with next := none, again := v.adc.again.filter (· != x) } } : Vp).calStart .rot x := by
  have starts : ((stepAgain v x).adc.kind != .none || ((stepAgain v x).viaMoon x && !(stepAgain v x).adc.onMoon.testBit x
      && (stepAgain v x).rotOn)) = false := by
    show (v.adc.kind != .none || (v.viaMoon x && !v.adc.onMoon.testBit x && v.rotOn)) = false
    rcases direct with h | h <;> simp [idle, h]
  have start : (stepAgain v x).stepStart =
      ({ v with adc := { v.adc with next := none, again := v.adc.again.filter (· != x) } } : Vp).calStart .rot x := by
    unfold Vp.stepStart
    rw [show (stepAgain v x).adc.next = some (x, none) from rfl]
    dsimp only
    rw [if_neg (by rw [starts]; decide)]
    exact if_pos on
  unfold Vp.stepReady
  refine (if_neg ?_).trans start
  show ¬(v.viaMoon x = true ∧ (!v.adc.onMoon.testBit x) = true)
  rcases direct with h | h <;> simp [h]

section
variable {moon : Nat} {pairs : List (Int × Int)} {h : Handover} (ho : v.hoOf moon = some h)
include ho

theorem handoverEnd_settled (stage : h.stage = 1) : v.handoverEnd moon pairs =
    ({ v with adc := { v.adc with ho := sput moon { h with stage := 2 } v.adc.ho } } : Vp).adcSync := by
  unfold Vp.handoverEnd
  rw [ho]
  dsimp only
  rw [if_neg (by omega), if_neg (by omega), if_pos (by omega), stage]

theorem handoverEnd_compared (stage : h.stage = 2) (whole : pairs.length = 256)
    (near : (v.compareSum h pairs).natAbs ≤ 256 * v.fld Reg.ADC_ROT_CFG 16 8) : v.handoverEnd moon pairs =
    ({ v with adc := { v.adc with ho := sput moon { h with stage := 3 } v.adc.ho } } : Vp).adcSync := by
  unfold Vp.handoverEnd
  rw [ho]
  dsimp only
  rw [if_neg (by omega), if_neg (by omega), if_pos (by omega), stage]

theorem handoverEnd_seam (stage : h.stage = 2) (whole : pairs.length = 256)
    (far : 256 * v.fld Reg.ADC_ROT_CFG 16 8 < (v.compareSum h pairs).natAbs) :
    v.handoverEnd moon pairs = v.seamCancel moon h := by
  unfold Vp.handoverEnd
  rw [ho]
  dsimp only
  rw [if_neg (by omega), if_pos ⟨stage, far⟩]

theorem handoverEnd_back (stage : h.stage = 3) (back : h.back = true) : v.handoverEnd moon pairs =
    (({ v with adc := { v.adc with
      ho := sdel moon v.adc.ho, onMoon := putBit v.adc.onMoon h.ch false
      failed := v.adc.failed.filter (· != h.ch) } } : Vp).moonAdopt moon).adcSync := by
  unfold Vp.handoverEnd Vp.handoverDone
  rw [ho]
  dsimp only
  rw [if_neg (by omega), if_neg (by omega), if_neg (by omega), if_pos back, back]
  exact rfl

end

/-! ### Bursts, over-range, streams -/

theorem adcOverRange_served {c : Nat} (served : v.chServed c = true) (calm : v.calAllRun = false) (high hard : Bool) :
    v.adcOverRange c high hard =
      (v.overRange c hard).setLast c
        (adcCode 0 32768 (v.bit (Reg.ADC_CH_CFG c) 2) (if high then 8703 else -8704) true).1 true
        ((v.overRange c hard).setl c ((v.overRange c hard).up - 28)) := by
  unfold Vp.adcOverRange
  exact if_neg (by simp [served, calm])

theorem lpBurst_due (lp : v.lp = true) (calm : v.calAllRun = false)
    (due : v.frameNo % max 1 (v.fld Reg.ADC_MODE 4 4) = 0) : v.lpBurst =
      let v := v.frameAt (8 * v.fld Reg.ADC_MODE 18 14)
      let n := v.fld Reg.ADC_MODE 8 10
      { v with adc := { v.adc with runs := ⟨v.up, 8, n⟩ :: v.adc.runs.take 47, burstEnd := v.up + 8 * n } } := by
  unfold Vp.lpBurst
  exact if_pos (by simp [lp, calm, due])

section
variable {c lag sidx : Nat} {xs : List RawConv} (served : v.chServed c = true) (on : v.bit (Reg.ADC_CH_CFG c) 1 = true)
  (calm : v.calAllRun = false) (some : 1 ≤ xs.length) (few : xs.length ≤ 28)
include served on calm some few

theorem streamLine_lost (stop : v.bit (Reg.ADC_STR_CFG c) 4 = true)
    (full : (v.fld (Reg.ADC_STR_WP c) 0 20 + 64) % v.strSize c = v.fld (Reg.ADC_STR_RP c) 0 20) :
    v.streamLine c lag sidx xs =
      let u := ((v.inc (Reg.ADC_STR_LOST c)).setBit Reg.ADC_STICKY 6 true).adcInt 7
      ({ u with adc := { u.adc with gap := putBit u.adc.gap c true } }.raise 8 c 4 cor (Reg.ADC_STR_LOST c)) := by
  have ne : xs ≠ [] := List.ne_nil_of_length_pos some
  unfold Vp.streamLine
  rw [if_neg (by simp [served, on, calm, ne]; omega)]
  exact if_pos (by simp [stop, full])

/-- The line at the write pointer, with the time of its first conversion. -/
def lineAt (v : Vp) (c lag sidx : Nat) (xs : List RawConv) (q : Nat × Nat) : Vp :=
  let last := v.up - 28 - lag
  { v with mem := msetWs v.mem ((v.reg (Reg.ADC_STR_BASE c)).toNat + v.fld (Reg.ADC_STR_WP c) 0 20)
                    (lineWords q.2 q.1 (v.adc.gap.testBit c) (v.convLp last) sidx (v.convs c last xs))
           adc := { v.adc with gap := putBit v.adc.gap c false } }

theorem streamLine_written (room : v.bit (Reg.ADC_STR_CFG c) 4 = false
      ∨ (v.fld (Reg.ADC_STR_WP c) 0 20 + 64) % v.strSize c ≠ v.fld (Reg.ADC_STR_RP c) 0 20) :
    v.streamLine c lag sidx xs =
      let next := (v.fld (Reg.ADC_STR_WP c) 0 20 + 64) % v.strSize c
      let u := lineAt v c lag sidx xs
        (v.frameTime ((v.up - convBack v.adc.runs (v.up - 28 - lag) (xs.length - 1)) * v.incr))
      (if next = 0 then u.addFld (Reg.ADC_STR_WP c) 20 12 1 else u).setFld (Reg.ADC_STR_WP c) 0 20 next := by
  have ne : xs ≠ [] := List.ne_nil_of_length_pos some
  unfold Vp.streamLine
  -- The time of the first conversion stays a variable: nothing here rests on its value.
  obtain ⟨frameTime, hf⟩ : ∃ f, Vp.frameTime = f := ⟨_, rfl⟩
  rw [hf, if_neg (by simp [served, on, calm, ne]; omega)]
  dsimp only
  rw [if_neg (by rcases room with h | h <;> simp [h])]
  exact rfl

end

end

/-- Settles O44. -/
theorem adcEvents : Obligations.AdcEvents := by
  unfold Obligations.AdcEvents
  refine ⟨⟨fun s run => ?_, fun v c on taken => ⟨resultOf_none on taken, fun f frame within => resultOf_frame on taken frame within⟩,
    fun s m w run => ⟨fun ok => ?_, fun ok sealed all blocked => ⟨fun x next => ?_, fun next => ?_⟩, fun ok sealed notAll one => ?_⟩,
    fun s c raw limit hard run hc pend => ?_, fun s ofs gain run busy => ⟨fun kind => ?_, fun kind => ?_, fun y kind next => ?_⟩,
    fun s x rest run on lp done free idle again ready => ?_, fun s moon pairs h run ho => ⟨fun stage => ?_, fun stage whole near => ?_,
      fun stage whole far => ?_, fun stage back => ?_⟩, fun s run lp calm due => ?_, fun s c high hard run served calm => ?_⟩,
    fun s c lag sidx xs run served on calm some few => ⟨fun room => ?_, fun stop full => ?_⟩⟩
  · exact vp_runs run (f := fun v => v.adcResults) rfl
  · refine vp_runs run (f := fun v => v.coreWrite m Reg.ADC_INJ_REQ w)
      ((Vp.coreWrite_accepts ok).trans ((Vp.written_ADC_INJ_REQ _ _ _).trans ?_))
    unfold Vp.injReq
    rw [injOne_eq]
  · exact vp_runs run (f := fun v => v.coreWrite m Reg.ADC_CAL_CMD w)
      ((Vp.coreWrite_accepts ok).trans ((Vp.written_ADC_CAL_CMD _ _ _).trans
        ((calCmd_all sealed all blocked).trans (calAll_some next))))
  · exact vp_runs run (f := fun v => v.coreWrite m Reg.ADC_CAL_CMD w)
      ((Vp.coreWrite_accepts ok).trans ((Vp.written_ADC_CAL_CMD _ _ _).trans
        ((calCmd_all sealed all blocked).trans (calAll_none next))))
  · have starts {u : Vp} (h : s.vp.calOne (fld w 8 5) = u) :
        (.next (s.onVp (fun v => v.coreWrite m Reg.ADC_CAL_CMD w)) : Host.Outcome State Fault Refusal) = .next (s.after u) :=
      vp_runs run (f := fun v => v.coreWrite m Reg.ADC_CAL_CMD w)
        ((Vp.coreWrite_accepts ok).trans ((Vp.written_ADC_CAL_CMD _ _ _).trans ((calCmd_one sealed notAll one).trans h)))
    refine ⟨fun no => starts (calOne_refused no), fun still idle here there moonIdle => ⟨fun lp => ?_, fun lp ready direct => ?_,
      fun lp ready via off => ?_⟩⟩
    · exact starts (calOne_lp still idle here there moonIdle lp)
    · exact starts ((calOne_normal still idle here there moonIdle lp ready).trans
        (congrArg Vp.adcSync (calTake_at_once .one direct)))
    · exact starts ((calOne_normal still idle here there moonIdle lp ready).trans
        (congrArg Vp.adcSync (calTake_over .one via off)))
  · intro v x r u q u1 u2 u3
    exact vp_runs run (f := fun v => v.injResult c raw limit hard)
      (injResult_pending hc pend rfl (code := r.1) (ovr := r.2) Prod.mk.eta.symm (Prod.mk.eta (p := q)).symm)
  · exact vp_runs run (f := fun v => v.calDone ofs gain) (calDone_one busy kind)
  · exact vp_runs run (f := fun v => v.calDone ofs gain) (calDone_rot busy kind)
  · exact vp_runs run (f := fun v => v.calDone ofs gain) (calDone_all busy kind next)
  · have rot : s.vp.rotOn = true := by simp [Vp.rotOn, on, lp, done]
    have step {u : Vp} (h : s.vp.stepReady x none = u) :
        (.next (s.onVp (fun v => v.rotationStep)) : Host.Outcome State Fault Refusal) = .next (s.after u.adcSync) :=
      vp_runs run (f := fun v => v.rotationStep)
        (congrArg Vp.adcSync ((rotationNext_again rot free idle again ready).trans h))
    exact ⟨fun via off => step (stepReady_over via off), fun direct => step (stepReady_direct rot idle direct)⟩
  · exact vp_runs run (f := fun v => v.handoverEnd moon pairs) (handoverEnd_settled ho stage)
  · exact vp_runs run (f := fun v => v.handoverEnd moon pairs) (handoverEnd_compared ho stage whole near)
  · exact vp_runs run (f := fun v => v.handoverEnd moon pairs) (handoverEnd_seam ho stage whole far)
  · exact vp_runs run (f := fun v => v.handoverEnd moon pairs) (handoverEnd_back ho stage back)
  · exact vp_runs run (f := fun v => v.lpBurst) (lpBurst_due lp calm due)
  · exact vp_runs run (f := fun v => v.adcOverRange c high hard) (adcOverRange_served served calm high hard)
  · exact vp_runs run (f := fun v => v.streamLine c lag sidx xs) (streamLine_written served on calm some few room)
  · exact vp_runs run (f := fun v => v.streamLine c lag sidx xs) (streamLine_lost served on calm some few stop full)

end Sys2Proof.Proofs

end

section
/-!
PROOFS. Records and fault location (O45).
-/

namespace Sys2Proof.Proofs

open Sys2Proof Sys2Proof.Machine

/-! ### A run of conversions -/

theorem foldl_stays {α β : Type} {f : α → β → α} {a : α} {l : List β} (h : ∀ b ∈ l, f a b = a) : l.foldl f a = a := by
  induction l with
  | nil => rfl
  | cons b l ih =>
    rw [List.foldl_cons, h b List.mem_cons_self]
    exact ih (fun c hc => h c (List.mem_cons_of_mem b hc))

section
variable {v : Vp} {p : Nat}

/-- The samples of a run have the lengths of its conversions. -/
theorem rawSmps_length (raw : List (Nat × List RawConv)) :
    (v.rawSmps raw).foldl (fun n l => max n l.2.length) 0 = raw.foldl (fun n l => max n l.2.length) 0 := by
  have same (l : Nat × List RawConv) : (if v.isRemoved 8 l.1 then
      l.2.map (fun _ => (⟨((v.adc.held.lookup l.1).getD ⟨0, false, 0, 0⟩).code, false, false, false⟩ : Smp))
      else (v.convs l.1 (v.up - 28) l.2).map (fun x => ⟨x.code, x.ovr, x.setl, false⟩)).length = l.2.length := by
    unfold Vp.convs
    split <;> simp
  unfold Vp.rawSmps
  rw [List.foldl_map]
  simp only [same]

/-- One sample of a pool with one unit. -/
theorem trigSample_one {u : Nat} (group : v.groupOf p = [u]) (last lead taken : Nat) (raw : List (Nat × List Smp)) (i : Nat) :
    Vp.trigSample p last lead taken raw v i =
      let ago := 28 + (last - i) * v.convTicks
      let q := v.compare u (if i = 0 then none else some (v.smp raw 0 24 (v.tuSrc u) (i - 1))) (v.smp raw 0 24 (v.tuSrc u) i)
      let t := q.1.taiAgo ago - q.1.chDly (v.tuSrc u)
      q.1.crossings p (taken + (i - lead)) ago (q.2.map (fun c => (c, q.1.crossTime c t))) := by
  unfold Vp.trigSample
  rw [group]
  rfl

/-- A run that brings one new sample, where no derived channel is shown. -/
theorem trigRun_one {lead taken : Nat} {raw : List (Nat × List Smp)} {w : Vp}
    (len : raw.foldl (fun n l => max n l.2.length) 0 = lead + 1) (sample : Vp.trigSample p lead lead taken raw v lead = w)
    (off : ∀ d, d < 8 → w.dcOp d = 0) : v.trigRun p lead taken raw = w := by
  have one : (List.range (lead + 1 - lead)).map (lead + ·) = [lead] := by
    rw [Nat.add_sub_cancel_left]
    rfl
  unfold Vp.trigRun
  rw [len]
  dsimp only
  rw [one, Nat.add_sub_cancel, List.foldl_cons, List.foldl_nil, sample]
  exact foldl_stays (fun d hd => if_pos (.inl (off d (List.mem_range.mp hd))))

/-! ### The end of a tail -/

/-- A number by its bits, the lowest first. -/
def ofFlags (xs : List Bool) : Nat := xs.foldr Nat.bit 0

theorem testBit_ofFlags (xs : List Bool) (i : Nat) : (ofFlags xs).testBit i = xs.getD i false := by
  induction xs generalizing i with
  | nil => exact Nat.zero_testBit i
  | cons b xs ih =>
    cases i with
    | zero => exact Nat.testBit_bit_zero b _
    | succ i => exact (Nat.testBit_bit_succ i b _).trans (ih i)

theorem b2n_toNat (b : Bool) : b2n b = b.toNat := by cases b <;> rfl

/-- A whole record has joined the queue for its measurement. -/
def tailQueued (v : Vp) (p : Nat) (mem : List Host.Cell) (r : AcqRec) : Vp :=
  let v := { v with mem := mem, acq := { v.acq with cur := sdel p v.acq.cur } }
  let v := { v with acq := { v.acq with queue := v.acq.queue ++ [(p, r)] } }
  v.setFld Reg.ACQ_MQ_STAT 0 5 v.acq.queue.length

/-- The pool goes on in its next segment. -/
def tailRearmed (v : Vp) (p : Nat) : Vp :=
  if v.poolOn p && (v.poolSt p == 2 || v.poolSt p == 3) then (v.setPoolSt p 3).rearm p else v

/-- The record as its tail ends. -/
def tailRec (v : Vp) (p : Nat) (r : AcqRec) (first flags : Nat) : AcqRec :=
  { r with tv := r.tail, tfirst := first, tlast := v.taiAgo 28 - v.chDly (v.tuSrc p), flags := flags, spacing := v.convTicks }

theorem tailDone_queued {lead : Nat} {raw : List (Nat × List Smp)} {facts : RecFacts} {r : AcqRec}
    (cur : v.acq.cur.lookup p = some r) (whole : r.hv + r.tail + lead ≤ raw.foldl (fun n l => max n l.2.length) 0)
    (some : 1 ≤ r.tail) (room : v.acq.queue.length < 16) :
    ∃ mem first flags, v.tailDone p lead raw facts = tailRearmed (tailQueued v p mem (tailRec v p r first flags)) p
      ∧ flags.testBit 1 = decide (r.hv < r.head) ∧ flags.testBit 2 = false
      ∧ flags.testBit 11 = facts.breaks.any (fun b => decide (lead < b)) ∧ flags.testBit 12 = facts.lp := by
  unfold Vp.tailDone
  rw [cur]
  extract_lets n gap start last
  split
  · rename_i h
    cases h
  · rename_i r' h
    obtain rfl := Option.some.inj h
    extract_lets tv chs xs mem any span first stepped lost flags r1 v1 src v2 v3
    have full : tv = r.tail := by
      show min (_ - _) _ = _
      omega
    rw [full, if_neg (by simp; omega)]
    have queued : v3 = tailQueued v p mem (tailRec v p r first flags) := by
      refine (if_pos room).trans ?_
      show tailQueued v p mem { r with tv := tv, tfirst := first, tlast := last, flags := flags, spacing := v.convTicks } = _
      rw [full]
      rfl
    have shown : flags = ofFlags [false, decide (r.hv < r.head), decide (tv < r.tail), any (·.ovr), any (·.setl), any (·.sat),
        r.clamp, false, r.align, r.tstate != 2, stepped, gap, facts.lp, facts.handover, lost] := by
      simp only [flags, ofFlags, List.foldr_cons, List.foldr_nil, Nat.bit_val, b2n_toNat, Bool.toNat_false]
      omega
    refine ⟨mem, first, flags, congrArg (tailRearmed · p) queued, ?_⟩
    rw [shown, testBit_ofFlags, testBit_ofFlags, testBit_ofFlags, testBit_ofFlags, full]
    exact ⟨rfl, by simp, rfl, rfl⟩

theorem SameButReports.acq {u : Vp} (h : SameButReports v u) : u.acq = v.acq := (congrArg Vp.acq h.sets :)

theorem setPoolSt_acq (st : Nat) : (v.setPoolSt p st).acq = v.acq := by
  unfold Vp.setPoolSt Vp.setBit Vp.setFld
  dsimp only
  rw [Vp.setReg_acq, Vp.setReg_acq, Vp.setReg_acq]

/-- The next segment leaves the records of all pools, and those that wait for their measurement. -/
theorem rearm_records : (v.rearm p).acq.queue = v.acq.queue ∧ (v.rearm p).acq.cur = v.acq.cur := by
  unfold Vp.rearm
  split
  · unfold Vp.takeSeg
    dsimp only
    rw [setPoolSt_acq]
    exact ⟨rfl, rfl⟩
  · have same : (((v.setPoolSt p 4).acqSticky 2).acqInt 3).acq = v.acq :=
      (intCause_reports _ 9 _ _ 3).acq.trans ((SameButReports.setBit _ _ _ _).acq.trans (setPoolSt_acq 4))
    rw [same]
    exact ⟨rfl, rfl⟩

theorem tailRearmed_records :
    (tailRearmed v p).acq.queue = v.acq.queue ∧ (tailRearmed v p).acq.cur = v.acq.cur := by
  unfold tailRearmed
  split
  · obtain ⟨queue, cur⟩ := rearm_records (v := v.setPoolSt p 3) (p := p)
    rw [queue, cur, setPoolSt_acq]
    exact ⟨rfl, rfl⟩
  · exact ⟨rfl, rfl⟩

/-! ### A measured record, and segments -/

/-- A complete record, marked `r`, is written and shown (R319, R333). -/
def recShown (v : Vp) (p : Nat) (r : AcqRec) (ms : List Nat) : Vp :=
  let v := { v with mem := msetWs v.mem r.base (r.header p ms)
                    acq := { v.acq with complete := v.acq.complete.filter (· != r.seg) ++ [r.seg]
                                        lastTs := sput p r.ts v.acq.lastTs } }
  ((v.setReg (Reg.ACQ_P_LAST p) (w32 r.seg)).acqInt 0).post (.event (8 + p))

/-- Does the locator look at the records of pool `p`? -/
def locTakes (v : Vp) (p : Nat) : Bool :=
  v.bit Reg.ACQ_LOC_CFG 0 && v.bit Reg.ACQ_CFG 0 && v.fld Reg.ACQ_LOC_CFG 2 4 == p

/-- A record that has become complete, and what the locator does with it (R335). -/
theorem complete_eq (r : AcqRec) (ms : List Nat) : v.complete p r ms =
    let r := { r with flags := r.flags ||| 1 }
    let v := recShown v p r ms
    if locTakes v p then
      if r.flags &&& 0x1C80 = 0 ∧ r.mask.testBit (v.fld Reg.ACQ_LOC_CFG 6 5) then
        { v with acq := { v.acq with loc := v.acq.loc ++ [r] } }
      else v.setBit Reg.ACQ_LOC_STAT 5 true
    else v := rfl

theorem measDone_front {r : AcqRec} {rest : List (Nat × AcqRec)} (front : v.acq.queue = (p, r) :: rest) :
    v.measDone = (({ v with acq := { v.acq with queue := rest } }.setFld Reg.ACQ_MQ_STAT 0 5 rest.length).complete p r
      (v.measureRec r)).unfull p := by
  unfold Vp.measDone
  rw [front]

theorem pFree_allowed {w : Word} (may : v.freeRefused p w = false) : v.pFree p w =
    ({ v with acq := { v.acq with
      heldSegs := v.acq.heldSegs.filter (· != fld w 0 10)
      complete := v.acq.complete.filter (· != fld w 0 10) } }.unfull p) := by
  unfold Vp.pFree
  exact if_neg (by simp [may])

section
variable {w : Word} (hp : p < 16)
include hp

theorem regRow_ACQ_P_FREE : ∃ r, regRow (Reg.ACQ_P_FREE p) = some r ∧ r.acc = .wo := by
  have all : ∀ i < 16, hasAcc (Reg.ACQ_P_FREE i) .wo = true := by decide
  exact hasAcc_row (all p hp)

theorem stateRefused_ACQ_P_FREE : v.stateRefused (Reg.ACQ_P_FREE p) w = v.freeRefused p w := by
  have block : Reg.ACQ_P_FREE p / 0x10000 % 16 = 9 := by unfold Reg.ACQ_P_FREE; omega
  have offset : Reg.ACQ_P_FREE p % 0x10000 = 0x620 + p * 0x40 := by unfold Reg.ACQ_P_FREE; omega
  have pool : (0x620 + p * 0x40 - 0x600) / 0x40 = p := by omega
  have word : (0x620 + p * 0x40) % 0x40 = 0x20 := by omega
  unfold Vp.stateRefused
  simp only [block, offset]
  unfold Vp.acqRefused
  rw [if_neg (by omega), if_pos (by omega)]
  simp only [pool, word]

theorem cfgRefused_ACQ_P_FREE : v.cfgRefused (Reg.ACQ_P_FREE p) = v.setBit Reg.ACQ_STICKY 0 true := by
  have block : Reg.ACQ_P_FREE p / 0x10000 % 16 = 9 := by unfold Reg.ACQ_P_FREE; omega
  have flag : refusedFlag (Reg.ACQ_P_FREE p) = some (Reg.ACQ_STICKY, 0) := by
    unfold refusedFlag
    simp only [block]
  unfold Vp.cfgRefused
  rw [flag]

/-- A segment that may not be freed is refused, at once: the register does not wait for the boundary. -/
theorem pFree_refused {m : Nat} (acts : v.masterActs m = true) (on : v.domOn (accessDom m (Reg.ACQ_P_FREE p)) = true)
    (bad : v.freeRefused p w = true) : v.coreWrite m (Reg.ACQ_P_FREE p) w = v.setBit Reg.ACQ_STICKY 0 true := by
  obtain ⟨r, row, acc⟩ := regRow_ACQ_P_FREE hp
  have reg : region m (Reg.ACQ_P_FREE p) = .reg :=
    region_block m (by unfold Reg.ACQ_P_FREE; omega) (by unfold Reg.ACQ_P_FREE; omega)
  have bus : busError m (Reg.ACQ_P_FREE p) true = false := by
    unfold busError
    rw [reg]
    simp
    unfold Reg.ACQ_P_FREE
    omega
  have atOnce : staged (Reg.ACQ_P_FREE p) = false := by
    unfold staged
    rw [row]
    simp [acc]
  have refused : v.stateRefused (Reg.ACQ_P_FREE p) w = true := (stateRefused_ACQ_P_FREE hp).trans bad
  rw [coreWrite_now w acts bus reg (.inr atOnce), ← cfgRefused_ACQ_P_FREE hp]
  unfold Vp.tryWrite
  rw [if_neg (by simp [bus]), if_neg (by simp [on]), reg]
  simp only [row]
  rw [if_neg (by simp [acc]), if_neg (by simp [acc]), if_pos (by simp [refused])]

end

/-! ### The locator -/

theorem written_ACQ_LOC_REM (m : Nat) (w : Word) :
    v.written m (Reg.ACQ_LOC_REM 3) w = (v.wideTake (Reg.ACQ_LOC_REM 3)).locRemote w := by
  obtain ⟨r, row, acc⟩ := hasAcc_row (a := Reg.ACQ_LOC_REM 3) (c := .rw) (by decide)
  rw [Vp.written_row row]
  unfold Vp.effect
  have below : wideBelow (Reg.ACQ_LOC_REM 3) = false := by decide
  have sticky : stickyClr (Reg.ACQ_LOC_REM 3) = false := by decide
  have block : Reg.ACQ_LOC_REM 3 / 0x10000 % 16 = 9 := by decide
  have offset : Reg.ACQ_LOC_REM 3 % 0x10000 = 0xC5C := by decide
  simp only [acc, below, sticky, block, offset, Bool.false_eq_true, if_false]
  rw [if_neg (by decide)]
  unfold Vp.wAcq
  rw [if_neg (by decide), if_neg (by decide), if_pos rfl]

/-- The words that wait with a wide value change no register but those of the value. -/
theorem wideTake_reg {a b : Nat} (h : ∀ c ∈ wideLower a, b ≠ c) : (v.wideTake a).reg b = v.reg b := by
  unfold Vp.wideTake
  suffices kept : ∀ (l : List Nat) (v : Vp), (∀ c ∈ l, b ≠ c) → (l.foldl (fun v b => match v.wlatch.lookup b with
      | some w => { v.setReg b w with wlatch := sdel b v.wlatch }
      | none => v) v).reg b = v.reg b from kept _ v h
  intro l
  induction l with
  | nil => exact fun v _ => rfl
  | cons c l ih =>
    intro v hl
    rw [List.foldl_cons, ih _ (fun c hc => hl c (List.mem_cons_of_mem _ hc))]
    split
    · exact Vp.reg_setReg_other v _ (hl c List.mem_cons_self)
    · rfl

/-- A remote time with more nanoseconds than a second has is refused (R337). -/
theorem locRemote_refused {w : Word} (two : v.bit Reg.ACQ_LOC_CFG 1 = true) (on : v.bit Reg.ACQ_CFG 0 = true)
    (bad : 999999999 < ((v.setReg (Reg.ACQ_LOC_REM 3) w).reg (Reg.ACQ_LOC_REM 1)).toNat) :
    v.locRemote w = ((v.setReg (Reg.ACQ_LOC_REM 3) w).setBit Reg.ACQ_LOC_STAT 8 true).acqInt 7 := by
  have two' : (v.setReg (Reg.ACQ_LOC_REM 3) w).bit Reg.ACQ_LOC_CFG 1 = true :=
    (congrArg (bit · 1) (Vp.reg_setReg_other v w (by decide))).trans two
  have on' : (v.setReg (Reg.ACQ_LOC_REM 3) w).bit Reg.ACQ_CFG 0 = true :=
    (congrArg (bit · 0) (Vp.reg_setReg_other v w (by decide))).trans on
  unfold Vp.locRemote
  exact (if_neg (by simp [two', on'])).trans (if_pos bad)

/-- What the search of the record `r` from the instant `start` finds is shown (R335, R336). -/
def locShown (v : Vp) (r : AcqRec) (rest : List AcqRec) (start : Int) : Vp :=
  let xs := r.load v.mem (v.fld Reg.ACQ_LOC_CFG 6 5)
  let l := v.locScan r xs 0 (xs.headD 0) ⟨false, start, []⟩
  let u := { v with acq := { v.acq with loc := rest } }
  let u := (List.range l.found.length).foldl (fun u i =>
    let d := l.found.getD i 0 - r.ts
    (u.setReg (Reg.ACQ_LOC_CAND i) (w32 (twos 32 (in5 25 d)))).setReg (Reg.ACQ_LOC_DIST i)
      (w32 (twos 32 (u.locDist 26 d)))) u
  let u := (List.range 4).foldl (fun u i => u.setReg (Reg.ACQ_LOC_T1 i) ((ts128 r.ts).getD i 0)) u
  let short := decide (((r.tlast : Int) - r.ts) * (u.reg Reg.ACQ_LOC_VEL).toNat
    < 2 * (u.reg Reg.ACQ_LOC_LEN).toNat * 65536 * 1000 * nsUnit)
  let st := Reg.ACQ_LOC_STAT
  let u := ((u.setBit st 0 true).setFld st 1 3 l.found.length).setBit st 4 short
  let u := ((u.setBit st 5 false).setBit st 12 (r.flags.testBit 9)).setFld st 16 16 r.seq
  u.acqInt 5

theorem locDone_front {r : AcqRec} {rest : List AcqRec} (front : v.acq.loc = r :: rest) :
    v.locDone = locShown v r rest (r.ts + v.fld Reg.ACQ_LOC_BLANK 0 16 * 1000 * nsUnit) := by
  have start : (r.ts : Int) + ((v.fld Reg.ACQ_LOC_BLANK 0 16 * 1000 * nsUnit : Nat) : Int) =
      r.ts + v.fld Reg.ACQ_LOC_BLANK 0 16 * 1000 * nsUnit := by push_cast; rfl
  rw [← start]
  unfold Vp.locDone
  rw [front]
  exact rfl

end

/-- Settles O45. -/
theorem acqEvents : Obligations.AcqEvents := by
  unfold Obligations.AcqEvents
  refine ⟨fun s p u lead taken raw run group len => ?_, fun v p taken ago c cs => ⟨fun armed => ?_, fun past => ?_⟩,
    fun s p lead raw facts run none => ?_, fun s p lead raw facts r run cur whole some room => ?_,
    fun s p r rest run front => ?_, fun s m p w run hp => ⟨fun ok => ?_, fun acts on bad => ?_⟩,
    fun s r rest run front => ?_, fun s m w run ok two on => ?_⟩
  · intro x q t r off
    have sample : Vp.trigSample p lead lead taken (s.vp.rawSmps raw) s.vp lead = r := by
      rw [trigSample_one group, Nat.sub_self, Nat.zero_mul, Nat.add_zero, Nat.add_zero]
    exact vp_runs run (f := fun v => v.trigRun p lead taken (v.rawSmps raw))
      (trigRun_one ((rawSmps_length raw).trans len) sample off)
  · exact if_pos armed
  · exact (if_neg (by omega)).trans ((if_neg (by omega)).trans (if_neg (by omega)))
  · refine vp_runs run (f := fun v => v.tailDone p lead (v.rawSmps raw) (facts.seen raw)) ?_
    unfold Vp.tailDone
    rw [none]
  · obtain ⟨mem, first, flags, done, partialHead, whole', gap, lp⟩ :=
      tailDone_queued (facts := facts.seen raw) cur ((rawSmps_length raw).symm ▸ whole) some room
    obtain ⟨queue, cur'⟩ := tailRearmed_records (v := tailQueued s.vp p mem (tailRec s.vp p r first flags)) (p := p)
    refine ⟨_, tailRec s.vp p r first flags,
      vp_runs run (f := fun v => v.tailDone p lead (v.rawSmps raw) (facts.seen raw)) done, queue, cur', rfl, rfl, rfl, rfl, rfl,
      partialHead, whole', gap, lp⟩
  · intro v r' v1 v2 loc
    have step {u : Vp} (h : v.complete p r (s.vp.measureRec r) = u) :
        (.next (s.onVp (fun v => v.measDone)) : Host.Outcome State Fault Refusal) = .next (s.after (u.unfull p)) :=
      vp_runs run (f := fun v => v.measDone) ((measDone_front front).trans (congrArg (Vp.unfull · p) h))
    refine ⟨fun no => step ?_, fun yes clean covered => step ?_, fun yes dirty => step ?_⟩
    · exact (complete_eq r _).trans (if_neg (fun yes => Bool.false_ne_true (no.symm.trans yes)))
    · exact (complete_eq r _).trans ((if_pos yes).trans (if_pos ⟨clean, covered⟩))
    · refine (complete_eq r _).trans ((if_pos yes).trans (if_neg ?_))
      rintro ⟨clean, covered⟩
      rcases dirty with h | h
      · exact h clean
      · exact Bool.false_ne_true (h.symm.trans covered)
  · have may : s.vp.freeRefused p w = false := (stateRefused_ACQ_P_FREE hp).symm.trans (accepts_allowed ok)
    exact vp_runs run (f := fun v => v.coreWrite m (Reg.ACQ_P_FREE p) w)
      ((Vp.coreWrite_accepts ok).trans ((Vp.written_ACQ_P_FREE _ _ _ hp).trans (pFree_allowed may)))
  · exact vp_runs run (f := fun v => v.coreWrite m (Reg.ACQ_P_FREE p) w) (pFree_refused hp acts on bad)
  · exact vp_runs run (f := fun v => v.locDone) (locDone_front front)
  · intro v bad
    have lower : wideLower (Reg.ACQ_LOC_REM 3) = [Reg.ACQ_LOC_REM 0, Reg.ACQ_LOC_REM 1, Reg.ACQ_LOC_REM 2] := by decide
    have two' : (s.vp.wideTake (Reg.ACQ_LOC_REM 3)).bit Reg.ACQ_LOC_CFG 1 = true :=
      (congrArg (bit · 1) (wideTake_reg (by rw [lower]; decide))).trans two
    have on' : (s.vp.wideTake (Reg.ACQ_LOC_REM 3)).bit Reg.ACQ_CFG 0 = true :=
      (congrArg (bit · 0) (wideTake_reg (by rw [lower]; decide))).trans on
    exact vp_runs run (f := fun v => v.coreWrite m (Reg.ACQ_LOC_REM 3) w)
      ((Vp.coreWrite_accepts ok).trans ((written_ACQ_LOC_REM m w).trans (locRemote_refused two' on' bad)))

end Sys2Proof.Proofs

end

section
/-!
PROOFS. The grid tracker (O46): transducer words, the words of the trackers and phasors.
-/

namespace Sys2Proof.Proofs

open Sys2Proof Sys2Proof.Machine

/-! ### The words of a tracker -/

/-- The registers and the words of tracker `k`, with the values given. -/
def trShown (v : Vp) (k : Nat) (ang freq rocof mag : Word) (gw : List Word) : Vp :=
  let v := v.setReg (Reg.GRID_TR_ANG k) ang
  let v := v.setReg (Reg.GRID_TR_FREQ k) freq
  let v := v.setReg (Reg.GRID_TR_ROCOF k) rocof
  let v := v.setReg (Reg.GRID_TR_MAG k) mag
  let v := ((v.setGw k 0 ang).setGw k 1 (gw.getD 0 0)).setGw k 2 (gw.getD 1 0)
  let v := v.setGw k 3 (gw.getD 2 0)
  let v := v.setGw k 4 (gw.getD 3 0)
  let v := (v.setGw k 5 mag).setGw k 6 (gw.getD 4 0)
  v.setGw k 7 (gw.getD 5 0)

section
variable {v : Vp} {k : Nat}

theorem trackerWords_off (off : v.fld (Reg.GRID_TR_STAT k) 0 2 = 0 ∨ v.isRemoved 10 k = true) : v.trackerWords k = v :=
  if_pos off

theorem trackerWords_on (on : v.fld (Reg.GRID_TR_STAT k) 0 2 ≠ 0) (here : v.isRemoved 10 k = false) :
    ∃ f rocof mag gw, (v.fld (Reg.GRID_TR_STAT k) 0 2 ≠ 2 → f = ((v.f0 k * turn : Nat) : Int) ∧ rocof = 0)
      ∧ v.trackerWords k = trShown v k
        (w32 (twos 32 (divAny 36 (wrapTurn ((v.tr k).ahead ((v.time.boundary : Int) - (v.tr k).t)).1) (2 ^ 32))))
        (w32 (divAny 38 f (2 ^ 44)).toNat) (w32 (twos 32 (sat32 (divAny 39 rocof (2 ^ 48))))) mag gw := by
  unfold Vp.trackerWords
  -- The series of `cosSin` stay variables: nothing here rests on their values.
  obtain ⟨cs, hcs⟩ : ∃ f, cosSin = f := ⟨_, rfl⟩
  obtain ⟨ahead, ha⟩ : ∃ f, Tracker.ahead = f := ⟨_, rfl⟩
  rw [hcs, ha, if_neg (by simp [on, here])]
  extract_lets x f0 rocof mag magW
  split
  rename_i th w hth
  split
  rename_i c s _
  split
  rename_i c0 s0 _
  extract_lets ang f vq
  refine ⟨f, rocof, magW, [q30 c, q30 s, w32 (twos 32 (sat32 (divAny 41 (f - f0) (16 * 2 ^ 34)))),
    w32 (twos 32 (sat32 (divAny 42 rocof (64 * 2 ^ 34)))),
    w32 (twos 32 (sat32 (divAny 43 vq (2 ^ 36)))),
    w32 (twos 32 (sat32 x.neg))], fun h => ⟨if_pos h, if_pos (.inl h)⟩, ?_⟩
  rw [show ahead (v.tr k) _ = (th, w) from hth]
  exact rfl

section
variable {ang freq rocof mag : Word} {gw : List Word}

theorem setGw_reg (j : Nat) (w : Word) (a : Nat) : (v.setGw k j w).reg a = v.reg a := rfl

/-- The four registers of a tracker, after all of its words. -/
theorem trShown_reg (a : Nat) : (trShown v k ang freq rocof mag gw).reg a =
    ((((v.setReg (Reg.GRID_TR_ANG k) ang).setReg (Reg.GRID_TR_FREQ k) freq).setReg (Reg.GRID_TR_ROCOF k) rocof).setReg
      (Reg.GRID_TR_MAG k) mag).reg a := by
  unfold trShown
  simp only [setGw_reg]

theorem trShown_ang : (trShown v k ang freq rocof mag gw).reg (Reg.GRID_TR_ANG k) = ang := by
  rw [trShown_reg, Vp.reg_setReg_other _ _ (by unfold Reg.GRID_TR_ANG Reg.GRID_TR_MAG; omega),
    Vp.reg_setReg_other _ _ (by unfold Reg.GRID_TR_ANG Reg.GRID_TR_ROCOF; omega),
    Vp.reg_setReg_other _ _ (by unfold Reg.GRID_TR_ANG Reg.GRID_TR_FREQ; omega), Vp.reg_setReg_same]

theorem trShown_freq : (trShown v k ang freq rocof mag gw).reg (Reg.GRID_TR_FREQ k) = freq := by
  rw [trShown_reg, Vp.reg_setReg_other _ _ (by unfold Reg.GRID_TR_FREQ Reg.GRID_TR_MAG; omega),
    Vp.reg_setReg_other _ _ (by unfold Reg.GRID_TR_FREQ Reg.GRID_TR_ROCOF; omega), Vp.reg_setReg_same]

theorem trShown_rocof : (trShown v k ang freq rocof mag gw).reg (Reg.GRID_TR_ROCOF k) = rocof := by
  rw [trShown_reg, Vp.reg_setReg_other _ _ (by unfold Reg.GRID_TR_ROCOF Reg.GRID_TR_MAG; omega), Vp.reg_setReg_same]

theorem setGw_gridWords_other {j : Nat} (h : j ≠ 0) (w : Word) : sget (fun _ => (0 : Word)) (v.setGw k j w).gridWords (8 * k) =
    sget (fun _ => (0 : Word)) v.gridWords (8 * k) := sget_sset_other _ _ _ (by omega)

/-- Word 0 of a tracker is its angle. -/
theorem trShown_word : sget (fun _ => (0 : Word)) (trShown v k ang freq rocof mag gw).gridWords (8 * k) = ang := by
  unfold trShown
  dsimp only
  rw [setGw_gridWords_other (by decide), setGw_gridWords_other (by decide), setGw_gridWords_other (by decide),
    setGw_gridWords_other (by decide), setGw_gridWords_other (by decide), setGw_gridWords_other (by decide),
    setGw_gridWords_other (by decide)]
  exact sget_sset_same _ _ _ _

theorem trShown_stands : (trShown v k ang freq rocof mag gw).grid = v.grid ∧ (trShown v k ang freq rocof mag gw).mem = v.mem := by
  unfold trShown Vp.setGw
  dsimp only
  rw [Vp.setReg_grid, Vp.setReg_grid, Vp.setReg_grid, Vp.setReg_grid, Vp.setReg_mem, Vp.setReg_mem, Vp.setReg_mem, Vp.setReg_mem]
  exact ⟨rfl, rfl⟩

end

/-! ### Transducer words -/

theorem trackerPublish_launched (on : v.launched = true) : v.trackerPublish = [0, 1, 2, 3].foldl (fun v o =>
    if v.tloOn o && v.bit (Reg.GRID_TLO_CFG o) 1 then
      ({ v with grid := { v.grid with sent := sput o (v.tloWord o) v.grid.sent } }).inc (Reg.GRID_TLO_CNT o)
    else v) ([0, 1, 2, 3].foldl Vp.trackerWords v) := by
  unfold Vp.trackerPublish
  exact if_neg (by simp [on])

section
variable {j w : Nat} (on : v.tliOn j = true)
include on

theorem tliWord_bad (bad : w / 2 ^ 48 % 65536 ≠ tliCrc w) :
    v.tliWord j w = ((v.tliRepeat j w).addFld (Reg.GRID_TLI_CNT j) 16 16 1).gridInt 6 := by
  unfold Vp.tliWord
  exact (if_neg (by simp [on])).trans (if_pos bad)

/-- The first word of an input that has no mark of a bad value is taken. -/
theorem tliWord_first (good : w / 2 ^ 48 % 65536 = tliCrc w) (any : (v.tliRepeat j w).bit (Reg.GRID_TLI_CFG j) 5 = false)
    (first : (v.tliRepeat j w).grid.lastSeq.lookup j = none) (valid : w.testBit 44 = false) :
    v.tliWord j w = ({ v.tliRepeat j w with grid := { (v.tliRepeat j w).grid with
      lastSeq := sput j (w / 2 ^ 32 % 256) (v.tliRepeat j w).grid.lastSeq } } : Vp).tliGood j w := by
  unfold Vp.tliWord
  rw [if_neg (by simp [on])]
  dsimp only
  rw [if_neg (fun bad => bad good), if_neg (by simp [any]), first, if_neg (by simp), if_neg (by simp [valid])]

theorem tliCodeError_on : v.tliCodeError j = (v.addFld (Reg.GRID_TLI_CNT j) 16 16 1).gridInt 6 := by
  unfold Vp.tliCodeError
  exact if_neg (by simp [on])

theorem tliTimeout_on (fresh : v.bit (Reg.GRID_TLI_META j) 13 = false) : v.tliTimeout j =
    (((((v.setBit (Reg.GRID_TLI_META j) 13 true).setBit (Reg.GRID_TLI_META j) 14 false).addFld
      (Reg.GRID_TLI_CNT2 j) 24 8 1).gridInt 5).raise 10 (0x10 + j) 2 cor (Reg.GRID_TLI_META j)) := by
  unfold Vp.tliTimeout
  exact if_neg (by simp [on, fresh])

end

/-- A good word with the frame and the time `q` of its stamp, and the words `old` before it. -/
def tliShown (u : Vp) (j w : Nat) (q : Nat × Nat) : Vp :=
  let dly : Nat := u.fld (Reg.GRID_TLI_DLY j) 0 24
  let old := sget (fun _ => []) u.grid.words j
  let word : TliWord := ⟨(match old with | x :: _ => x.no + 1 | [] => 1), w / 2 ^ 32 % 256, sgn 32 w,
    ((u.tai : Int) - dly * 268435456)⟩
  let u := (u.setReg (Reg.GRID_TLI_VAL j) (w32 w)).setReg (Reg.GRID_TLI_TS j) (w32 (q.2 % 2 ^ 24 + q.1 % 64 * 2 ^ 24))
  let u := u.setReg (Reg.GRID_TLI_META j) (w32 (w / 2 ^ 32 % 256 + w / 2 ^ 40 % 16 * 256 + 2 ^ 14))
  let u := u.addFld (Reg.GRID_TLI_CNT j) 0 16 1
  ({ u with grid := { u.grid with words := sput j ((word :: old).take 64) u.grid.words } }).noteWrite (0x140 + j)

theorem tliGood_eq (u : Vp) (j w : Nat) :
    u.tliGood j w = tliShown u j w (u.frameTime (u.fld (Reg.GRID_TLI_DLY j) 0 24 * 268435456)) := by
  -- `frameTime` of a product with 2^28 must stay a variable: the kernel would work the product out in unary.
  obtain ⟨good, hg⟩ : ∃ f, f = Vp.tliGood := ⟨_, rfl⟩
  obtain ⟨frameTime, hf⟩ : ∃ f, Vp.frameTime = f := ⟨_, rfl⟩
  rw [← hg]
  delta Vp.tliGood at hg
  rw [hf] at hg ⊢
  rw [hg]
  beta_reduce
  extract_lets dly stamp old
  split
  rename_i fr ofs hq
  rw [show frameTime u _ = (fr, ofs) from hq]
  exact rfl

/-! ### Phasors -/

/-- An entry joins the queue of phasors. -/
def pqQueued (v : Vp) (k : Nat) (neg : Int) (e : List Word) : Vp :=
  let v := { v.setTr k { v.tr k with neg := neg } with free := v.free + 10 }
  let v := { v with grid := { v.grid with pq := v.grid.pq ++ [e] } }
  (v.setFld Reg.GRID_PQ_STAT 0 6 v.grid.pq.length).gridInt 0

theorem phasorEntry_queued {sec n : Nat} (hk : k < 4) (on : v.bit (Reg.GRID_TR_CFG k) 0 = true)
    (phasors : v.bit (Reg.GRID_TR_CFG k) 3 = true) (here : v.isRemoved 10 k = false)
    (within : n < fsOf (v.bit (Reg.GRID_TR_CFG k) 1) (v.fld (Reg.GRID_TR_CFG k) 20 3)) (room : v.grid.pq.length < 32) :
    ∃ neg flags rest, rest.length = 14 ∧ v.phasorEntry k sec n = pqQueued v k neg
      ([w32 (k + b2n (v.bit (Reg.GRID_TR_CFG k) 2) * 4 + flags % 1024 * 16 + n % 65536 * 65536),
        w32 (secOf (sec * secUnit + n * secUnit / fsOf (v.bit (Reg.GRID_TR_CFG k) 1) (v.fld (Reg.GRID_TR_CFG k) 20 3)))]
        ++ rest) := by
  unfold Vp.phasorEntry
  -- The angles and sums stay variables: nothing here rests on their values.
  obtain ⟨cs, hcs⟩ : ∃ f, cosSin = f := ⟨_, rfl⟩
  obtain ⟨ahead, ha⟩ : ∃ f, Tracker.ahead = f := ⟨_, rfl⟩
  obtain ⟨ph, hph⟩ : ∃ f, phasor = f := ⟨_, rfl⟩
  rw [hcs, ha, hph]
  extract_lets cfg fs x tr held s0 d win base tNs rW unknown
  have may : ¬(4 ≤ k ∨ (!v.bit cfg 0) = true ∨ (!v.bit cfg 3) = true ∨ v.isRemoved 10 k = true ∨ fs ≤ n) := by
    simp [cfg, on, phasors, here]
    exact ⟨hk, within⟩
  rw [if_neg may]
  split
  rename_i th w _
  extract_lets cycle h ss flags0 flags fW
  split
  rename_i rc rs _
  extract_lets rot ph'
  split
  rename_i vals neg hvals
  have ten : vals.length = 10 := by
    split at hvals <;> cases hvals
    · simp [Cx.words]
    · simp
  extract_lets e u
  rw [if_neg (by show ¬32 ≤ v.grid.pq.length; omega)]
  refine ⟨neg, flags, [w32 (nsOf tr.toNat), w32 tr.toNat, fW, rW] ++ vals, by simp [ten], ?_⟩
  exact rfl

theorem pqQueued_pq (neg : Int) (e : List Word) : (pqQueued v k neg e).grid.pq = v.grid.pq ++ [e] := by
  have grid {u x : Vp} (h : SameButReports u x) : x.grid = u.grid := (congrArg Vp.grid h.sets :)
  unfold pqQueued
  dsimp only
  rw [Vp.gridInt, grid (intCause_reports _ _ _ _ _), Vp.setFld, Vp.setReg_grid]
  rfl

/-- The seconds of an entry's time. -/
theorem secOf_entry {sec n fs : Nat} (within : n < fs) : secOf (sec * secUnit + n * secUnit / fs) = sec := by
  have part : n * secUnit / fs < secUnit :=
    Nat.div_lt_of_lt_mul (Nat.mul_lt_mul_of_pos_right within (by decide))
  unfold secOf
  show (sec * secUnit + n * secUnit / fs) / secUnit = sec
  rw [Nat.mul_comm sec, Nat.mul_add_div (by decide), Nat.div_eq_of_lt part, Nat.add_zero]

/-- The fields of an entry's first word that its tracker and its number in the second take. -/
theorem entry_masked {k n : Nat} (c : Nat) (hk : k < 4) (hc : c < 2 ^ 14) :
    w32 (k + c * 4 + n * 65536) &&& w32 0xFFFF0003 = w32 (k + n * 65536) := by
  have mask : ∀ i < 32, (w32 0xFFFF0003).getLsbD i = decide (i < 2 ∨ 16 ≤ i) := by decide
  refine BitVec.eq_of_getLsbD_eq fun i hi => ?_
  rw [BitVec.getLsbD_and, mask i hi]
  unfold w32
  rw [BitVec.getLsbD_ofNat, BitVec.getLsbD_ofNat]
  simp only [hi, decide_true, Bool.true_and]
  rcases Nat.lt_or_ge i 2 with low | high
  · have same : (k + c * 4 + n * 65536) % 2 ^ 2 = (k + n * 65536) % 2 ^ 2 := by omega
    have bits := congrArg (Nat.testBit · i) same
    simp only [Nat.testBit_mod_two_pow, low, decide_true, Bool.true_and] at bits
    simp [bits, low]
  · rcases Nat.lt_or_ge i 16 with mid | top
    · have lone : (k + n * 65536) % 2 ^ 16 = k := by omega
      have bits := congrArg (Nat.testBit · i) lone
      have none : k.testBit i = false :=
        Nat.testBit_lt_two_pow (Nat.lt_of_lt_of_le hk (Nat.pow_le_pow_right (by decide) high : 2 ^ 2 ≤ 2 ^ i))
      simp only [Nat.testBit_mod_two_pow, mid, decide_true, Bool.true_and, none] at bits
      rw [bits]
      simp [Nat.not_lt.mpr high, Nat.not_le.mpr mid]
    · obtain ⟨m, rfl⟩ := Nat.exists_eq_add_of_le top
      have same : (k + c * 4 + n * 65536) / 2 ^ 16 = (k + n * 65536) / 2 ^ 16 := by omega
      have bits := congrArg (Nat.testBit · m) same
      simp only [Nat.testBit_div_two_pow, Nat.add_comm m] at bits
      simp [bits]

end

/-- Settles O46. -/
theorem gridEvents : Obligations.GridEvents := by
  unfold Obligations.GridEvents
  refine ⟨fun s run on => ?_, fun v k hk => ?_, fun s j w run on => ⟨fun bad => ?_, fun good any first valid => ?_⟩,
    fun s j run on => ⟨?_, fun fresh => ?_⟩, fun s k sec n s0 run hk on phasors here => ?_⟩
  · exact vp_runs run (f := fun v => v.trackerPublish) (trackerPublish_launched on)
  · intro st u ang
    refine ⟨trackerWords_off, fun shown here => ?_⟩
    obtain ⟨f, rocof, mag, gw, free, words⟩ := trackerWords_on (v := v) (k := k) shown here
    obtain ⟨grid, mem⟩ := trShown_stands (v := v) (k := k) (ang := ang) (freq := w32 (divAny 38 f (2 ^ 44)).toNat)
      (rocof := w32 (twos 32 (sat32 (divAny 39 rocof (2 ^ 48))))) (mag := mag) (gw := gw)
    rw [show u = _ from words]
    refine ⟨trShown_ang, trShown_word, fun h => ?_, grid, mem⟩
    obtain ⟨rfl, rfl⟩ := free h
    exact ⟨trShown_freq, trShown_rocof⟩
  · exact vp_runs run (f := fun v => v.tliWord j w) (tliWord_bad on bad)
  · exact vp_runs run (f := fun v => v.tliWord j w) ((tliWord_first on good any first valid).trans (tliGood_eq _ j w))
  · exact vp_runs run (f := fun v => v.tliCodeError j) (tliCodeError_on on)
  · exact vp_runs run (f := fun v => v.tliTimeout j) (tliTimeout_on on fresh)
  · intro fs within _ room
    obtain ⟨neg, flags, rest, len, entry⟩ := phasorEntry_queued (sec := sec) hk on phasors here within room
    refine ⟨_, _, vp_runs run (f := fun v => v.phasorEntry k sec n) entry, pqQueued_pq neg _, ?_, ?_, ?_⟩
    · simp [len]
    · have bit : b2n (s.vp.bit (Reg.GRID_TR_CFG k) 2) ≤ 1 := by
        unfold b2n
        split <;> decide
      have fields : k + b2n (s.vp.bit (Reg.GRID_TR_CFG k) 2) * 4 + flags % 1024 * 16 + n % 65536 * 65536 =
          k + (b2n (s.vp.bit (Reg.GRID_TR_CFG k) 2) + flags % 1024 * 4) * 4 + n % 65536 * 65536 := by omega
      rw [List.cons_append, List.getD_cons_zero, fields]
      exact entry_masked _ hk (by omega)
    · exact congrArg w32 (secOf_entry within)

end Sys2Proof.Proofs

end
